-- ==== Sys2Proof/Word.lean ====
section
/-!
DEFINITION. The words of the FQ-7800: the widths that the register files and the memories hold
(R2, R80 of spec/05_packets_encoding.md, R143 of spec/09_memory.md).
-/
namespace Sys2Proof

/-- A byte of any memory. -/
abbrev Byte := BitVec 8

/-- A 32-bit word: a slot of a packet, an x, a or sb register, a lane. -/
abbrev Word := BitVec 32

/-- A 64-bit word: an s, k, m or g register, a special register. -/
abbrev DWord := BitVec 64

/-- A v or sa register, or a tile row: 128 lanes of 32 bits (R80). -/
abbrev VReg := Vector Word 128

/-- A p register: one bit a lane. -/
abbrev Pred := BitVec 128

/-- A packet address, bits `[47:5]` of a device virtual address (R63). -/
abbrev PcWord := BitVec 43

end Sys2Proof
end

