-- ==== Sys2Proof/Config.lean ====
section
/-!
DEFINITION. What the spec leaves open and no state holds: free values, without a body, so that nothing
can be proved of them but what holds for every value (logs 8 and 10).
-/
namespace Sys2Proof.Config

/-- The byte at an address of a memory whose contents the spec leaves undefined, by the tag of the event
that left it so: launch-owned canopy frames after a change of C or STANDBY (R140), scratchpads after
STANDBY (R423). Log 8. -/
opaque openByte : Nat → Nat → Byte

/-- A word the spec leaves undefined, by the state's counter of free values. Log 8. -/
opaque freeWord : Nat → DWord

/-- A SHA-512 digest as RSA-4096 signs it (R422): the padding, which the spec does not name; it leaves the first byte
of 512 zero. Log 10. -/
opaque rsaPad : List Byte → BitVec 4088

/-- The parts of a firmware slot's bytes, whose layout is not in the spec (R422): the signing key, the key's modulus
and public exponent, the bytes that the signature covers, and the signature. Log 10. -/
opaque slotKey : List Byte → List Byte
opaque keyModulus : List Byte → Nat
opaque keyExponent : List Byte → Nat
opaque slotCovered : List Byte → List Byte
opaque slotSignature : List Byte → Nat

/-- The fused hash of the signing key (R422). Log 10. -/
opaque fusedKeyHash : List Byte

/-- The version a firmware slot's bytes carry (R422); the slot's layout is not in the spec. Log 10. -/
opaque slotVersion : List Byte → Word

/-- The fused rollback count (R422). Log 10. -/
opaque rollbackCount : Word

/-- The bits that the spec leaves open of the two primes of the device's RSA-4096 key, and of the key with which the
firmware certifies it (R421, R422). Log 10. -/
opaque deviceBits : BitVec 2045 × BitVec 2045
opaque firmwareBits : BitVec 2045 × BitVec 2045

/-- A drive's answer to an admin command, by the counter of free values: its completion entry and data (R421,
setting 0x11). Log 10. -/
opaque nvmeAdmin : Nat → List Byte → List Byte

end Sys2Proof.Config
end

