-- ==== Sys2Proof/Machine/Bits.lean ====
section
/-!
DEFINITION. Bits, bytes and lanes: the field and byte-order helpers of the meanings. Everything is
little-endian (R4 of spec/00_scope.md).
-/
namespace Sys2Proof.Machine

/-- Bits `[lo+n-1:lo]` of a number. -/
def bits (x lo n : Nat) : Nat := x / 2 ^ lo % 2 ^ n

/-- A number as a two's-complement integer of `w` bits. -/
def toSigned (w x : Nat) : Int :=
  if x % 2 ^ w < 2 ^ (w - 1) then (x % 2 ^ w : Nat) else (x % 2 ^ w : Nat) - (2 ^ w : Nat)

/-- An integer modulo 2^w. -/
def ofSigned (w : Nat) (x : Int) : Nat := (x % (2 ^ w : Nat)).toNat

/-- The number of one bits among the low `n` bits. -/
def popcount : Nat → Nat → Nat
  | 0, _ => 0
  | n + 1, x => popcount n x + x / 2 ^ n % 2

/-- The number of leading zero bits in a word of `n` bits. -/
def leadingZeros : Nat → Nat → Nat
  | 0, _ => 0
  | n + 1, x => if x / 2 ^ n % 2 = 1 then 0 else leadingZeros n x + 1

/-- The number whose bit `i` is `f i`, for `i` below `n`. -/
def bitsOf (f : Nat → Bool) : Nat → Nat
  | 0 => 0
  | n + 1 => bitsOf f n + (if f n then 2 ^ n else 0)

/-- The predicate whose bit `i` is `f i`. -/
def predOf (f : Nat → Bool) : Pred := BitVec.ofNat 128 (bitsOf f 128)

/-- Lane `i` of a vector register, with `i` taken modulo 128. -/
def lane (v : VReg) (i : Nat) : Word := v[i % 128]'(Nat.mod_lt _ (by decide))

/-- The register whose lane `i` is `f i`. -/
def lanes (f : Nat → Word) : VReg := Vector.ofFn fun i : Fin 128 => f i.val

/-- Every lane the same word. -/
def splat (w : Word) : VReg := Vector.replicate 128 w

/-- `new` where `m` holds, `old` elsewhere (R76). -/
def mergeLanes (m : Nat → Bool) (new old : VReg) : VReg :=
  lanes fun i => if m i then lane new i else lane old i

/-- Byte `n` of a register's 512-byte string, in which lane `j` holds bytes `4j` to `4j+3` (R228). -/
def vbyte (v : VReg) (n : Nat) : Byte := (lane v (n / 4)).extractLsb' (8 * (n % 4)) 8

/-- The word whose byte `j` is `f j`. -/
def wordOfBytes (f : Nat → Byte) : Word := f 3 ++ f 2 ++ f 1 ++ f 0

/-- The register whose string has byte `n` equal to `f n`. -/
def vOfBytes (f : Nat → Byte) : VReg := lanes fun j => wordOfBytes fun k => f (4 * j + k)

/-- The `n` bytes from `f` as a number, the first byte lowest. -/
def natOfBytes (f : Nat → Byte) : Nat → Nat
  | 0 => 0
  | n + 1 => natOfBytes f n + (f n).toNat * 256 ^ n

/-- The bytes of a list as a number, the first byte lowest. -/
def leNat : List Byte → Nat
  | [] => 0
  | b :: bs => b.toNat + 256 * leNat bs

/-- The low `n` bytes of a number, the lowest first. -/
def leBytes : Nat → Nat → List Byte
  | 0, _ => []
  | n + 1, x => BitVec.ofNat 8 x :: leBytes n (x / 256)

/-- `n` bytes of a byte list from place `i`, as a number; places past the end read 0. -/
def leAt (bs : List Byte) (i n : Nat) : Nat := leNat ((bs.drop i).take n)

/-- The bit string of a register as a number. -/
def vnat (v : VReg) : Nat := natOfBytes (vbyte v) 512

/-- Element `n` of width `w` in a string of bytes (R104): its bits `[w*n+w-1:w*n]`. -/
def elemAt (f : Nat → Byte) (w n : Nat) : Nat :=
  natOfBytes (fun i => f (w * n / 8 + i)) 5 / 2 ^ (w * n % 8) % 2 ^ w

/-- Byte `i` of the string that packs elements of width `w`, of which there are `count` (R104). -/
def packByte (elem : Nat → Nat) (w count i : Nat) : Byte :=
  BitVec.ofNat 8 (bitsOf (fun k =>
    let p := 8 * i + k
    decide (p / w < count) && (elem (p / w) / 2 ^ (p % w) % 2 == 1)) 8)

/-- The least place below `n` where `f` holds. -/
def firstBelow (f : Nat → Bool) : Nat → Option Nat
  | 0 => none
  | n + 1 => match firstBelow f n with
    | some i => some i
    | none => if f n then some n else none

/-- The greatest place below `n` where `f` holds. -/
def lastBelow (f : Nat → Bool) : Nat → Option Nat
  | 0 => none
  | n + 1 => if f n then some n else lastBelow f n

/-- The number of places below `n` where `f` holds. -/
def countBelow (f : Nat → Bool) : Nat → Nat
  | 0 => 0
  | n + 1 => countBelow f n + (if f n then 1 else 0)

/-- `f 0`, `f 1`, … `f (n-1)`. -/
def tabulate {α : Type} (f : Nat → α) : Nat → List α
  | 0 => []
  | n + 1 => tabulate f n ++ [f n]

/-- Insertion in a list sorted by `lt`. -/
def insertBy {α : Type} (lt : α → α → Bool) (x : α) : List α → List α
  | [] => [x]
  | y :: ys => if lt x y then x :: y :: ys else y :: insertBy lt x ys

/-- The list in order; equal elements keep their order. -/
def sortBy {α : Type} (lt : α → α → Bool) : List α → List α
  | [] => []
  | x :: xs => insertBy (fun a b => !lt b a) x (sortBy lt xs)

/-- Association lists in rising order of their keys: the value at a key. -/
def lookupNat {α : Type} : List (Nat × α) → Nat → Option α
  | [], _ => none
  | (k, v) :: rest, a => if k = a then some v else lookupNat rest a

/-- The list with the key set. -/
def insertNat {α : Type} (a : Nat) (v : α) : List (Nat × α) → List (Nat × α)
  | [] => [(a, v)]
  | (k, w) :: rest =>
    if a < k then (a, v) :: (k, w) :: rest
    else if a = k then (a, v) :: rest
    else (k, w) :: insertNat a v rest

/-- The list without the key. -/
def eraseNat {α : Type} (a : Nat) : List (Nat × α) → List (Nat × α)
  | [] => []
  | (k, w) :: rest => if a = k then rest else (k, w) :: eraseNat a rest

/-- Keys strictly rising. -/
def risingNat {α : Type} : List (Nat × α) → Bool
  | [] => true
  | [_] => true
  | (a, _) :: (b, w) :: rest => decide (a < b) && risingNat ((b, w) :: rest)

/-- The list with its `i`-th element changed. -/
def modifyAt {α : Type} (f : α → α) : Nat → List α → List α
  | _, [] => []
  | 0, x :: xs => f x :: xs
  | n + 1, x :: xs => x :: modifyAt f n xs

end Sys2Proof.Machine
end

