-- ==== Sys2Proof/Syntax.lean ====
section
/-!
DEFINITION. The operations and events of the FQ-7800: one constructor for each row of
spec/opcode_table.json. The operand types say what each field can name (R74, R75 of
spec/05_packets_encoding.md); what types cannot say is in WellFormed.lean.
-/
namespace Sys2Proof

/-- A source that is a register of its own file (of `n` registers), or a common register:
GRANT in slots 1 to 3 (R69), KA or KB in the S slot (R166). -/
inductive RK (n : Nat) where
  | r (i : Fin n)
  | k (i : Fin 16)
deriving DecidableEq, Repr

/-- The guard of a V or L operation (R75, Table 6): `pos i` is p(i+1), `neg i` is !p(i+1). -/
inductive Guard where
  | all
  | pos (i : Fin 7)
  | neg (i : Fin 7)
deriving DecidableEq, Repr

/-- Integer condition codes (R77, Table 7). -/
inductive ICc where
  | eq | ne | lt | le | gt | ge | ltu | geu
deriving DecidableEq, Repr

/-- Floating-point condition codes (R77, Table 7). -/
inductive FCc where
  | eq | ne | lt | le | gt | ge | un | ord
deriving DecidableEq, Repr

/-- Element formats (R103, Table 1). Code 15 names none. -/
inductive Fmt where
  | bf16 | fp16 | tf32 | e4m3 | e5m2 | e3m2 | e2m3 | e2m1 | int8 | uint8 | int4 | uint4
  | fp32 | int32 | e8m0
deriving DecidableEq, Repr

/-- The four directed rounding modes (R108, Table 3). -/
inductive RM where
  | rne | rz | rd | ru
deriving DecidableEq, Repr

/-- A rounding mode or stochastic rounding (R108, code 4). -/
inductive RMode where
  | det (m : RM)
  | sr
deriving DecidableEq, Repr

/-- The special registers of Table 9 (R81). -/
inductive SReg where
  | status | control | cause | epc | faddr | finfo | gid | syncsel | splim | uivec | uistat
  | spbase | spsize
  | lc (i : Fin 6)
  | dkey | dctrh | dctrl | taskid | ctxid | coreid | cycle | energy | routepol
deriving DecidableEq, Repr

/-- The two sources of an S operation in F0R: at most one of them is a common register (R166). -/
inductive SArgs where
  | ss (a b : Fin 32)
  | ks (a : Fin 16) (b : Fin 32)
  | sk (a : Fin 32) (b : Fin 16)
deriving DecidableEq, Repr

/-- Where PUT writes (R175, Table 2) and from which S sources. -/
inductive PutArgs where
  | x (d : Fin 32) (a : RK 32)
  | a (d : Fin 16) (a : RK 32)
  | g (d : Fin 16) (a : RK 32)
  | v (d : Fin 32) (ab : SArgs)
  | vbc (d : Fin 32) (a : RK 32)
  | m (d : Fin 16) (a : RK 32)
  | sb (d : Fin 8) (a : RK 32)
  | p (d : Fin 8) (ab : SArgs)
deriving DecidableEq, Repr

/-- What GET reads (R175, Table 2); `b` is the index register. -/
inductive GetArgs where
  | x (a : Fin 32)
  | a (a : Fin 16)
  | g (a : Fin 16)
  | v (a : Fin 32) (b : RK 32)
  | m (a : Fin 16)
  | sb (a : Fin 8)
  | p (a : Fin 8) (b : RK 32)
deriving DecidableEq, Repr

/-- The files CHK compares (R176). -/
inductive ChkFile where
  | s | x | v | p | a | m | g
deriving DecidableEq, Repr

/-- The fields that the three pushes share (R201, Table 4); `size` is the row-size code. -/
structure PushArgs where
  cond : Option (Fin 32)
  a    : RK 32
  b    : Fin 32
  size : BitVec 2
  sh   : BitVec 4
deriving DecidableEq, Repr

/-- The high part of a 32 x 32 product, or its low part (R219, VMUL). -/
inductive MulHalf where
  | lo | hs | hu
deriving DecidableEq, Repr

/-- The sign VFSGN gives (R222). -/
inductive SgnMode where
  | copy | neg | xor
deriving DecidableEq, Repr

/-- The registers PPACK and PUNPK name (R237). -/
inductive PGroup where
  | all | lo | hi
deriving DecidableEq, Repr

/-- The modes of PCNT (R238). -/
inductive PcntMode where
  | count | first | last
deriving DecidableEq, Repr

/-- The modes of VCMP48 (R246). -/
inductive C48Mode where
  | mask | zero | pack
deriving DecidableEq, Repr

/-- Scopes of a DRAIN (R150, Table 4 of spec/09_memory.md). -/
inductive Scope where
  | ctx | core | camp | dev | sys
deriving DecidableEq, Repr

/-- The element type of an atomic (R272, Table 2). -/
inductive AtT where
  | s | u | f
deriving DecidableEq, Repr

/-- The fields that the seven simple atomics share (R272); `w` selects four bytes. -/
structure AtArgs where
  acq : Bool
  rel : Bool
  w   : Bool
  t   : AtT
  d   : Fin 16
  a   : RK 16
  b   : Fin 16
deriving DecidableEq, Repr

/-- The amount of a TDEC (R276): 1 to 15 in the field, or a register. -/
inductive DecAmt where
  | imm (n : Fin 15)
  | reg (b : Fin 16)
deriving DecidableEq, Repr

/-- One hardware context: a core and a place in it (R17). -/
structure CtxRef where
  core : Fin 64
  ctx  : Fin 8
deriving DecidableEq, Repr

/-- A guy line (R20): one of a camp's lines 0 to 3, or a device line 4 to 15. -/
structure LineRef where
  camp : Option (Fin 8)
  line : Fin 16
deriving DecidableEq, Repr

/-- An engine with a queue of its own: a context's address queue (R200) or a copy queue (R280). -/
inductive EngineRef where
  | address (c : CtxRef)
  | copy (core : Fin 64) (q : Fin 4)
deriving DecidableEq, Repr

/-- A datagram as it reaches the device: the association it belongs to, a number that tells it apart, and its
bytes, the 24-byte header first (R409). The same structure names a message by the datagram that completed it; its
payload is then the message's. -/
structure FltMsg where
  assoc   : Fin 16
  msgId   : Nat
  payload : List (BitVec 8)
deriving DecidableEq, Repr

/-- The operations and events, one constructor for each row of the opcode table. Slot-0 operations
come first, then slots 1 to 7 in position order, then the packet kinds and the events. -/
inductive Instr where
  -- S slot (P0): R166 to R178
  | add (d : Fin 32) (src : SArgs)
  | sub (d : Fin 32) (src : SArgs)
  | mul (d : Fin 32) (src : SArgs)
  | mulhs (d : Fin 32) (src : SArgs)
  | mulhu (d : Fin 32) (src : SArgs)
  | and (d : Fin 32) (src : SArgs)
  | or (d : Fin 32) (src : SArgs)
  | xor (d : Fin 32) (src : SArgs)
  | andn (d : Fin 32) (src : SArgs)
  | shl (d : Fin 32) (src : SArgs)
  | shr (d : Fin 32) (src : SArgs)
  | sar (d : Fin 32) (src : SArgs)
  | min (d : Fin 32) (src : SArgs)
  | max (d : Fin 32) (src : SArgs)
  | minu (d : Fin 32) (src : SArgs)
  | maxu (d : Fin 32) (src : SArgs)
  | addi (d a : Fin 32) (imm : BitVec 12)
  | andi (d a : Fin 32) (imm : BitVec 12)
  | ori (d a : Fin 32) (imm : BitVec 12)
  | xori (d a : Fin 32) (imm : BitVec 12)
  | shli (d a : Fin 32) (sh : BitVec 6)
  | shri (d a : Fin 32) (sh : BitVec 6)
  | sari (d a : Fin 32) (sh : BitVec 6)
  | li (d : Fin 32) (imm : BitVec 17)
  | lis (d : Fin 32) (imm : BitVec 17)
  | cmp (cc : ICc) (q : Fin 8) (src : SArgs)
  | cmpi (cc : ICc) (q : Fin 8) (a : Fin 32) (imm : BitVec 11)
  | sel (d : Fin 32) (q : Fin 8) (src : SArgs)
  | clz (d : Fin 32) (a : RK 32)
  | popc (d : Fin 32) (a : RK 32)
  | mfsr (d : Fin 32) (sr : SReg)
  | mtsr (sr : SReg) (a : Fin 32)
  | kset (d : Fin 16) (a : RK 32)
  | kget (d : Fin 32) (a : Fin 16)
  | put (args : PutArgs)
  | get (d : Fin 32) (args : GetArgs)
  | chk (file : ChkFile) (a b : Fin 32) (n : Fin 8)
  | trapi (imm : BitVec 17)
  -- B slot (P4): R179 to R190
  | prep (b : Fin 8) (off : BitVec 17)
  | prepk (b : Fin 8) (k : Fin 16)
  | jmp (b : Fin 8)
  | br (q b : Fin 8)
  | brn (q b : Fin 8)
  | call (b : Fin 8)
  | loopi (len : BitVec 12) (nopre : Bool) (count : BitVec 9)
  | loopk (len : BitVec 12) (nopre : Bool) (k : Fin 16)
  | lset (lev : Fin 8) (k : Fin 16)
  | lbrk (lev : Fin 8) (now : Bool)
  | unprep (b : Fin 8)
  | skipz (z : Fin 8) (nz : Bool) (off : BitVec 15)
  | zset (z : Fin 8) (k : Fin 16)
  | brv (p b : Fin 8) (z : Bool)
  -- X slot (P1): R195 to R207
  | xadd (d : Fin 32) (a : RK 32) (b : Fin 32)
  | xsub (d : Fin 32) (a : RK 32) (b : Fin 32)
  | xmul (d : Fin 32) (a : RK 32) (b : Fin 32)
  | xand (d : Fin 32) (a : RK 32) (b : Fin 32)
  | xxor (d : Fin 32) (a : RK 32) (b : Fin 32)
  | xshl (d : Fin 32) (a : RK 32) (b : Fin 32)
  | xshr (d : Fin 32) (a : RK 32) (b : Fin 32)
  | xmin (u : Bool) (d : Fin 32) (a : RK 32) (b : Fin 32)
  | xmax (u : Bool) (d : Fin 32) (a : RK 32) (b : Fin 32)
  | xaddi (d : Fin 32) (a : RK 32) (imm : BitVec 20)
  | xshli (d : Fin 32) (a : RK 32) (sh : BitVec 5)
  | xshri (d : Fin 32) (a : RK 32) (sh : BitVec 5)
  | xli (d : Fin 32) (imm : BitVec 29)
  | xpopc (d : Fin 32) (a : RK 32)
  | xclz (d : Fin 32) (a : RK 32)
  | xldw (d : Fin 32) (a : RK 32) (imm : BitVec 20)
  | xadv (d : Fin 32) (a : RK 32) (b : Fin 32)
  | xsel (d c : Fin 32) (a : RK 32) (b : Fin 32)
  | aqg (sp : Bool) (args : PushArgs)
  | aqs (sp : Bool) (args : PushArgs)
  | aqsa (i32 : Bool) (args : PushArgs)
  | aqcnt (d : Fin 32)
  -- V slot (P2): R216 to R247
  | vadd (d : Fin 32) (a : RK 32) (b : Fin 32) (g : Guard)
  | vsub (d : Fin 32) (a : RK 32) (b : Fin 32) (g : Guard)
  | vmul (h : MulHalf) (d : Fin 32) (a : RK 32) (b : Fin 32) (g : Guard)
  | vmin (u : Bool) (d : Fin 32) (a : RK 32) (b : Fin 32) (g : Guard)
  | vmax (u : Bool) (d : Fin 32) (a : RK 32) (b : Fin 32) (g : Guard)
  | vand (d : Fin 32) (a : RK 32) (b : Fin 32) (g : Guard)
  | vor (d : Fin 32) (a : RK 32) (b : Fin 32) (g : Guard)
  | vxor (d : Fin 32) (a : RK 32) (b : Fin 32) (g : Guard)
  | vshl (d : Fin 32) (a : RK 32) (b : Fin 32) (g : Guard)
  | vshr (d : Fin 32) (a : RK 32) (b : Fin 32) (g : Guard)
  | vsar (d : Fin 32) (a : RK 32) (b : Fin 32) (g : Guard)
  | vadds (u sub : Bool) (d : Fin 32) (a : RK 32) (b : Fin 32) (g : Guard)
  | vfadd (rm : RM) (d : Fin 32) (a : RK 32) (b : Fin 32) (g : Guard)
  | vfsub (rm : RM) (d : Fin 32) (a : RK 32) (b : Fin 32) (g : Guard)
  | vfmul (rm : RM) (d : Fin 32) (a : RK 32) (b : Fin 32) (g : Guard)
  | vfma (rm : RM) (d : Fin 32) (a : RK 32) (b c : Fin 32) (g : Guard)
  | vfmin (nan : Bool) (d : Fin 32) (a : RK 32) (b : Fin 32) (g : Guard)
  | vfmax (nan : Bool) (d : Fin 32) (a : RK 32) (b : Fin 32) (g : Guard)
  | vfsgn (m : SgnMode) (d : Fin 32) (a : RK 32) (b : Fin 32) (g : Guard)
  | vfrcp (rm : RM) (d : Fin 32) (a : RK 32) (g : Guard)
  | vfrsq (rm : RM) (d : Fin 32) (a : RK 32) (g : Guard)
  | vfexp2 (rm : RM) (d : Fin 32) (a : RK 32) (g : Guard)
  | vflog2 (rm : RM) (d : Fin 32) (a : RK 32) (g : Guard)
  | vcmp (cc : ICc) (d : Fin 8) (a : RK 32) (b : Fin 32) (g : Guard)
  | vfcmp (cc : FCc) (d : Fin 8) (a : RK 32) (b : Fin 32) (g : Guard)
  | vsel (d : Fin 32) (c : Fin 8) (a : RK 32) (b : Fin 32) (g : Guard)
  | vcvt (rm : RMode) (sat : Bool) (d : Fin 32) (a : RK 32) (src dst : Fmt) (g : Guard)
  | vqnt (rm : RM) (sat : Bool) (d : Fin 32) (a : RK 32) (b : Fin 32) (fmt : Fmt) (g : Guard)
  | vdqnt (rm : RM) (mx : Bool) (d : Fin 32) (a : RK 32) (b : Fin 32) (fmt : Fmt) (g : Guard)
  | vrsum (rm : RM) (i32 : Bool) (seg : Fin 8) (d : Fin 32) (a : RK 32) (g : Guard)
  | vrmax (arg u nan i32 : Bool) (seg : Fin 8) (d : Fin 32) (a : RK 32) (g : Guard)
  | vrmin (arg u nan i32 : Bool) (seg : Fin 8) (d : Fin 32) (a : RK 32) (g : Guard)
  | vscan (rm : RM) (excl i32 : Bool) (seg : Fin 8) (d : Fin 32) (a : RK 32) (g : Guard)
  | vperm (z : Bool) (d : Fin 32) (a : RK 32) (b : Fin 32) (g : Guard)
  | vrot (d : Fin 32) (a : RK 32) (imm : BitVec 20) (g : Guard)
  | vbcst (d : Fin 32) (a : RK 32) (n : BitVec 7) (g : Guard)
  | vli (d : Fin 32) (imm : BitVec 29)
  | vmov (d : Fin 32) (a : RK 32) (g : Guard)
  | viota (rank : Option (Fin 8)) (d : Fin 32) (g : Guard)
  | plog (t : BitVec 4) (d a b : Fin 8) (g : Guard)
  | ppack (set : PGroup) (d : Fin 32) (g : Guard)
  | punpk (set : PGroup) (a : RK 32)
  | pcnt (m : PcntMode) (d : Fin 32) (a : Fin 8) (g : Guard)
  | vpop (d : Fin 32) (g : Guard)
  | vpushd (a : RK 32) (g : Guard)
  | gate (first final : Bool) (d : Fin 32) (a : RK 32) (b : Fin 32) (k : Fin 8) (chunk : Fin 4) (g : Guard)
  | dice (pos : Bool) (d : Fin 32) (g : Guard)
  | vdesc (init : Bool) (d : Fin 32) (a : RK 32) (b : Fin 32)
  | vcmp48 (m : C48Mode) (d : Fin 32) (a : RK 32) (fmt : Fmt) (g : Guard)
  -- L slot (P3): R208 to R215
  | ldv (d : Fin 32) (a : RK 16) (ma : Bool) (off : BitVec 19) (g : Guard)
  | stv (s : Fin 32) (a : RK 16) (ma : Bool) (off : BitVec 19) (g : Guard)
  | ldvs (d : Fin 32) (a : RK 16) (b : Fin 16) (ma : Bool) (g : Guard)
  | stvs (s : Fin 32) (a : RK 16) (b : Fin 16) (ma : Bool) (g : Guard)
  | ldve (d : Fin 32) (a : RK 16) (ma : Bool) (off : BitVec 19) (g : Guard)
  | ldb (d : Fin 8) (a : RK 16) (ma : Bool) (off : BitVec 19) (g : Guard)
  | stb (s : Fin 8) (a : RK 16) (ma : Bool) (off : BitVec 19) (g : Guard)
  | aadd (d : Fin 16) (a : RK 16) (b : Fin 16) (g : Guard)
  | aaddi (d : Fin 16) (a : RK 16) (imm : BitVec 20) (g : Guard)
  | ali (d : Fin 16) (imm : BitVec 29)
  | ldvh (d : Fin 32) (a : RK 16) (ma : Bool) (off : BitVec 19) (g : Guard)
  | stvh (s : Fin 32) (a : RK 16) (ma : Bool) (off : BitVec 19) (g : Guard)
  | lda (d : Fin 16) (a : RK 16) (ma : Bool) (off : BitVec 19) (g : Guard)
  | sta (s : Fin 16) (a : RK 16) (ma : Bool) (off : BitVec 19) (g : Guard)
  -- M slot (P5) and C slot (P6): R248 to R268
  | mma (mx : Bool) (mA mB : Fin 16) (fa fb : Fmt)
  | mmas (mA mB : Fin 16) (fa fb : Fmt)
  | azero (acc : Fin 16)
  | arel (acc : Fin 16)
  | acpy (rm : RM) (sat i : Bool) (acc : Fin 16) (a : RK 16) (fmt : Fmt)
  | ald (acc : Fin 16) (a : RK 16) (fmt : Fmt)
  | mset (pf : Bool) (d : Fin 16) (a : RK 16)
  | madd (aux : Bool) (d : Fin 16) (a : RK 16) (imm : BitVec 20)
  | scla (e8 : Bool) (d : Fin 8) (base : Option (Fin 16)) (imm : BitVec 20)
  | sclb (e8 : Bool) (d : Fin 8) (base : Option (Fin 16)) (imm : BitVec 20)
  | prom (neg : Bool) (acc : Fin 16) (sa sb : Fin 8) (rows : BitVec 7)
  | promz (neg : Bool) (acc : Fin 16) (sa sb : Fin 8) (rows : BitVec 7)
  | promx (neg : Bool) (acc : Fin 16) (sa sb : Fin 8) (rows : BitVec 7)
  | promi (neg : Bool) (acc : Fin 16) (rows : BitVec 7)
  | scli (d : Fin 8) (bits : BitVec 29)
  -- Q slot (P7): R269 to R298, R308, R320 to R326, R334 to R339, R350, R364 to R373
  | gld (sx : Bool) (sz : Fin 4) (d : Fin 16) (a : RK 16) (imm : BitVec 20)
  | gst (sz : Fin 4) (s : Fin 16) (a : RK 16) (imm : BitVec 20)
  | atadd (args : AtArgs)
  | atmin (args : AtArgs)
  | atmax (args : AtArgs)
  | atand (args : AtArgs)
  | ator (args : AtArgs)
  | atxch (args : AtArgs)
  | atcas (args : AtArgs) (c : Fin 16)
  | dcas (acq rel : Bool) (d : Fin 8) (a : RK 16) (b : Fin 16) (e n : Fin 8)
  | amov (acq rel : Bool) (d : Fin 16) (a : RK 16) (b c : Fin 16)
  | tdec (rel : Bool) (d : Fin 16) (a : RK 16) (amt : DecAmt)
  | drain (scope : Scope) (d : Fin 16)
  | qcpy (d : Fin 16) (a : RK 16) (q : Fin 4)
  | qred (i32 : Bool) (d : Fin 16) (a : RK 16) (b : Fin 16) (size : BitVec 2) (q : Fin 4)
  | qfence (d : Fin 16) (mask : BitVec 4)
  | qpoll (acq : Bool) (d : Fin 16) (a : RK 16)
  | tspawn (d : Fin 16) (a : RK 16) (b : Fin 16)
  | tarm (imm : BitVec 20)
  | tarmReg (a : RK 16)
  | xroute (d : Fin 16) (a : RK 16) (b : Fin 16)
  | xlook (d : Fin 16) (a : RK 16)
  | xfetch (l : Bool) (d : Fin 16) (a : RK 16) (b : Fin 16)
  | xpin (d : Fin 16) (a : RK 16)
  | xunpin (d : Fin 16) (a : RK 16)
  | xhint (d : Fin 16) (a : RK 16)
  | xswap (d : Fin 16) (a : RK 16) (b : Fin 16)
  | xstat (clr : Bool) (d : Fin 16) (a : RK 16) (n : Fin 13)
  | pkq (bf16 : Bool) (d : Fin 16) (a : RK 16) (b : Fin 16)
  | pks (d : Fin 16) (a : RK 16) (b : Fin 16)
  | pkk (d : Fin 16) (a : RK 16) (b : Fin 16)
  | gopen (d : Fin 16) (a : RK 16)
  | genter (d : Fin 16) (a : RK 16)
  | gresConfirm (d : Fin 16) (a : RK 16)
  | gresRefute (d : Fin 16) (a : RK 16)
  | gqry (d : Fin 16) (a : Option (RK 16))
  | tkcmt (lev : Fin 8) (pw zw snap : Bool) (d : Fin 16) (a : RK 16) (b : Fin 16)
  | seatr (d : Fin 16) (a : RK 16) (w : Fin 5)
  | seatw (d : Fin 16) (a : RK 16) (b : Fin 16) (w : Fin 5)
  | msg (bell : Bool) (size : BitVec 2) (d : Fin 16) (a : RK 16) (b : Fin 16)
  | a2a (d : Fin 16) (a : RK 16)
  -- ends of the packet kinds (R44)
  | yieldComplete (c : CtxRef)
  | syncArrive (c : CtxRef)
  | syncEpisodeComplete (line : LineRef)
  | rejoinComplete (leader : CtxRef)
  | endRetire (c : CtxRef)
  | holdEnd (c : CtxRef)
  -- Q-slot results and memory
  | gResultLand (id : Nat)
  | drainComplete (id : Nat)
  | atomicPerform (id : Nat)
  | dcasPerform (id : Nat)
  | decrementApply (id : Nat)
  | tspawnRecordWritten (id : Nat)
  | qfenceComplete (id : Nat)
  -- engines
  | copyElementStart (core : Fin 64) (q : Fin 4)
  | copyElementComplete (core : Fin 64) (q : Fin 4)
  | pipeResume (core : Fin 64) (q : Fin 4)
  | enginePortServe (core : Fin 64) (bank : Fin 32)
  | gatherEntryBegin (c : CtxRef)
  | gatherDataLand (c : CtxRef) (seq : BitVec 32)
  | scatterEntryPerform (c : CtxRef) (seq : BitVec 32)
  | engineFault (e : EngineRef)
  | gcap (id : Nat)
  | taggedWriteAtHome (id : Nat)
  | memeccLoadFault (id : Nat)
  -- translation, faults and interrupts
  | walkComplete (id : Nat)
  | shadowReturn (c : CtxRef)
  | faultRetire (c : CtxRef)
  | uiEntry (c : CtxRef)
  -- dispatch
  | bindTask (c : CtxRef)
  | preempt (c : CtxRef)
  | restoreTask (c : CtxRef)
  | admitLaunch (launch : Fin 256) (area : BitVec 48)
  | launchDispatchStart (launch : Fin 256)
  | watchdogExpiry (launch : Fin 256)
  | abortTimeout (c : CtxRef)
  | teardownStop (c : CtxRef)
  -- units
  | xrouteServe (id : Nat)
  | fetchStart (id : Nat)
  | fetchComplete (id : Nat)
  | fetchFail (id : Nat)
  | gresComplete (id : Nat)
  | msgDelivered (id : Nat) (causes : BitVec 4)
  | a2aDelivered (id : Nat) (causes : BitVec 4) (failed : BitVec 8)
  -- the host link
  | writeDeferredStart (assoc : Fin 16) (msgId : Nat)
  | readDeferredStart (assoc : Fin 16) (msgId : Nat)
  | ackTimer (assoc : Fin 16)
  | retransmitTimeout (assoc : Fin 16)
  | tsnGateTransmit (port : Fin 2) (queue : Fin 8)
  | tlbInvalidateComplete (assoc : Fin 16) (msgId : Nat)
  | storePerform (id : Nat)
  | fence (m : FltMsg)
  -- rows without operands, and what the host and the board send: last, so that the operations
  -- and events the device makes itself come first
  | nop
  | nopSlot0
  | uiret
  | ret
  | ipurge
  | yieldK
  | syncK
  | decoupleK
  | rejoinK
  | endK
  | breakK
  | energyUpdate (launch : Fin 256) (joules : Nat)
  | nvmeTimeout (core : Fin 64) (q : Fin 4)
  | hello (m : FltMsg)
  | launch (m : FltMsg)
  | write (m : FltMsg)
  | read (m : FltMsg)
  | reset (m : FltMsg)
  | abort (m : FltMsg)
  | peer (m : FltMsg)
  | fltUnknownType (m : FltMsg)
  | mgmtHandle (m : FltMsg)
  | mgmtCanopyPartition (m : FltMsg)
  | mgmtModelBind (m : FltMsg)
  | mgmtResidency (m : FltMsg)
  | mgmtProductKey (m : FltMsg)
  | mgmtDispatch (m : FltMsg)
  | mgmtTranslation (m : FltMsg)
  | mgmtTlbInvalidate (m : FltMsg)
  | mgmtPageResolve (m : FltMsg)
  | mgmtDebugResume (m : FltMsg)
  | mgmtPeerSet (m : FltMsg)
  | mgmtLink (m : FltMsg)
  | mgmtPower (m : FltMsg)
  | mgmtSensors (m : FltMsg)
  | mgmtAttest (m : FltMsg)
  | mgmtFirmwareUpdate (m : FltMsg)
  | mgmtNvmeAdmin (m : FltMsg)
  | clockChange (mhz : Nat)
  | thermalThrottle
  | thermalShutdown
  | deviceReset
  | acknowledgement (assoc : Fin 16) (number : Nat)
deriving DecidableEq, Repr

end Sys2Proof
end

