-- ==== Sys2Proof/Machine/Format.lean ====
section
/-!
DEFINITION. Number formats, rounding and conversion: R103 to R117 of spec/07_arithmetic.md, and exact
arithmetic on the values of those formats.
-/
namespace Sys2Proof.Machine

/-- The four sticky floating-point flags of STATUS (R61, R113). -/
structure Flags where
  iv : Bool := false
  ovf : Bool := false
  uf : Bool := false
  nx : Bool := false
deriving DecidableEq, Repr

/-- Flags accumulate (R126). -/
def Flags.or (a b : Flags) : Flags :=
  ⟨a.iv || b.iv, a.ovf || b.ovf, a.uf || b.uf, a.nx || b.nx⟩

def Flags.none : Flags := {}

/-- Invalid alone. -/
def Flags.invalid : Flags := { iv := true }

/-- The exact value of an element: a finite value is (-1)^neg × m × 2^e. A NaN keeps its sign bit, which
only an MX destination looks at (Table 5 of R111), and whether it is signalling (R106). -/
inductive FVal where
  | nan (neg sig : Bool)
  | inf (neg : Bool)
  | fin (neg : Bool) (m : Nat) (e : Int)
deriving DecidableEq, Repr

def FVal.isNan : FVal → Bool
  | .nan _ _ => true
  | _ => false

def FVal.isSig : FVal → Bool
  | .nan _ s => s
  | _ => false

def FVal.neg : FVal → Bool
  | .nan n _ => n
  | .inf n => n
  | .fin n _ _ => n

def FVal.isZero : FVal → Bool
  | .fin _ 0 _ => true
  | _ => false

/-- The value with its sign inverted. -/
def FVal.negate : FVal → FVal
  | .nan n s => .nan (!n) s
  | .inf n => .inf (!n)
  | .fin n m e => .fin (!n) m e

/-- Element widths (R103, Table 1); TF32 counts as stored. -/
def fmtWidth : Fmt → Nat
  | .bf16 | .fp16 => 16
  | .tf32 | .fp32 | .int32 => 32
  | .e4m3 | .e5m2 | .int8 | .uint8 | .e8m0 => 8
  | .e3m2 | .e2m3 => 6
  | .e2m1 | .int4 | .uint4 => 4

/-- What special encodings a float format has (R105, Table 2). -/
inductive Specials where
  | ieee | e4m3 | mx
deriving DecidableEq, Repr

/-- A float format: exponent and mantissa bits, bias, special encodings, and the place of its lowest
used bit (TF32 stands in bits [31:13], R104). -/
structure FSpec where
  ebits : Nat
  mbits : Nat
  bias  : Nat
  spec  : Specials
  shift : Nat
deriving DecidableEq, Repr

/-- The float formats (R103, Table 1). -/
def floatSpec : Fmt → Option FSpec
  | .bf16 => some ⟨8, 7, 127, .ieee, 0⟩
  | .fp16 => some ⟨5, 10, 15, .ieee, 0⟩
  | .tf32 => some ⟨8, 10, 127, .ieee, 13⟩
  | .e4m3 => some ⟨4, 3, 7, .e4m3, 0⟩
  | .e5m2 => some ⟨5, 2, 15, .ieee, 0⟩
  | .e3m2 => some ⟨3, 2, 3, .mx, 0⟩
  | .e2m3 => some ⟨2, 3, 1, .mx, 0⟩
  | .e2m1 => some ⟨2, 1, 1, .mx, 0⟩
  | .fp32 => some ⟨8, 23, 127, .ieee, 0⟩
  | _ => none

/-- The integer formats: width, and whether signed (R107). -/
def intSpec : Fmt → Option (Nat × Bool)
  | .int8 => some (8, true)
  | .uint8 => some (8, false)
  | .int4 => some (4, true)
  | .uint4 => some (4, false)
  | .int32 => some (32, true)
  | _ => none

/-- The exponent field of the largest finite magnitude. -/
def FSpec.maxE (s : FSpec) : Nat :=
  match s.spec with
  | .ieee => 2 ^ s.ebits - 2
  | _ => 2 ^ s.ebits - 1

/-- The mantissa field of the largest finite magnitude. -/
def FSpec.maxM (s : FSpec) : Nat :=
  match s.spec with
  | .e4m3 => 2 ^ s.mbits - 2
  | _ => 2 ^ s.mbits - 1

/-- The exponent of the lowest subnormal bit. -/
def FSpec.minQ (s : FSpec) : Int := 1 - (s.bias : Int) - (s.mbits : Int)

/-- The value of an encoding of a float format (R105, R106). -/
def floatVal (s : FSpec) (quiet : Bool) (x : Nat) : FVal :=
  let y := x / 2 ^ s.shift
  let neg := y / 2 ^ (s.ebits + s.mbits) % 2 == 1
  let e := y / 2 ^ s.mbits % 2 ^ s.ebits
  let m := y % 2 ^ s.mbits
  let special := e == 2 ^ s.ebits - 1
  match s.spec with
  | .ieee =>
    if special then
      if m = 0 then .inf neg else .nan neg (!quiet && m / 2 ^ (s.mbits - 1) % 2 == 0)
    else if e = 0 then .fin neg m s.minQ
    else .fin neg (2 ^ s.mbits + m) (s.minQ + (e : Int) - 1)
  | .e4m3 =>
    if special && m == 2 ^ s.mbits - 1 then .nan neg false
    else if e = 0 then .fin neg m s.minQ
    else .fin neg (2 ^ s.mbits + m) (s.minQ + (e : Int) - 1)
  | .mx =>
    if e = 0 then .fin neg m s.minQ
    else .fin neg (2 ^ s.mbits + m) (s.minQ + (e : Int) - 1)

/-- An integer as an exact value. -/
def intVal (x : Int) : FVal := .fin (decide (x < 0)) x.natAbs 0

/-- The exact value of an element's bits in a format (R103 to R107); bits above the width are
ignored. -/
def fval (f : Fmt) (x : Nat) : FVal :=
  match floatSpec f with
  | some s => floatVal s (f == .e5m2) x
  | none =>
    match intSpec f with
    | some (w, true) => intVal (toSigned w x)
    | some (w, false) => intVal (x % 2 ^ w : Nat)
    | none => if x % 256 = 255 then .nan false false else .fin false 1 ((x % 256 : Nat) - 127)

/-- The canonical NaN of a float format (R106). E4M3 has one NaN of either sign. -/
def FSpec.canonicalNan (s : FSpec) : Nat :=
  (match s.spec with
    | .ieee => (2 ^ s.ebits - 1) * 2 ^ s.mbits + 2 ^ (s.mbits - 1)
    | _ => (2 ^ s.ebits - 1) * 2 ^ s.mbits + (2 ^ s.mbits - 1)) * 2 ^ s.shift

/-- A sign bit in its place. -/
def FSpec.sign (s : FSpec) (neg : Bool) : Nat :=
  if neg then 2 ^ (s.ebits + s.mbits + s.shift) else 0

/-- The largest finite magnitude with a sign. -/
def FSpec.maxBits (s : FSpec) (neg : Bool) : Nat :=
  s.sign neg + (s.maxE * 2 ^ s.mbits + s.maxM) * 2 ^ s.shift

/-- An infinity. -/
def FSpec.infBits (s : FSpec) (neg : Bool) : Nat :=
  s.sign neg + ((2 ^ s.ebits - 1) * 2 ^ s.mbits) * 2 ^ s.shift

/-- The length of a number in bits. -/
def bitLen (m : Nat) : Nat := if m = 0 then 0 else m.log2 + 1

/-- A magnitude on a grid: `n` steps of 2^q, and whether that differs from the exact magnitude. -/
structure Rounded where
  n : Nat
  q : Int
  inexact : Bool
deriving DecidableEq, Repr

/-- Rounds the magnitude m × 2^e, or one strictly between it and (m+1) × 2^e when `sticky`, to a
multiple of 2^q (R108, R109). -/
def roundGrid (mode : RMode) (neg : Bool) (q : Int) (m : Nat) (e : Int) (sticky : Bool)
    (rand : Nat) : Rounded :=
  if q ≤ e then ⟨m * 2 ^ (e - q).toNat, q, sticky⟩
  else
    let k := (q - e).toNat
    let lo := m / 2 ^ k
    let rem := m % 2 ^ k
    let inexact := rem != 0 || sticky
    let up :=
      match mode with
      | .det .rne =>
        decide (2 ^ k < 2 * rem) || decide (2 ^ k = 2 * rem) && (sticky || lo % 2 == 1)
      | .det .rz => false
      | .det .rd => neg && inexact
      | .det .ru => !neg && inexact
      | .sr => decide (2 ^ 24 ≤ rem * 2 ^ 24 / 2 ^ k + rand % 2 ^ 24)
    ⟨if up then lo + 1 else lo, q, inexact⟩

/-- The grid of a float format at the magnitude m × 2^e: its precision, and its subnormal spacing
below the smallest normal (R108). -/
def FSpec.grid (s : FSpec) (m : Nat) (e : Int) : Int :=
  max ((bitLen m : Int) + e - (s.mbits + 1 : Nat)) s.minQ

/-- Whether n × 2^q lies above a format's largest finite magnitude. -/
def FSpec.over (s : FSpec) (r : Rounded) : Bool :=
  let qm : Int := s.minQ + (s.maxE : Int) - 1
  let mm := 2 ^ s.mbits + s.maxM
  if qm ≤ r.q then decide (mm < r.n * 2 ^ (r.q - qm).toNat)
  else decide (mm * 2 ^ (qm - r.q).toNat < r.n)

/-- Whether n × 2^q is nonzero and below the smallest normal magnitude (R113). -/
def FSpec.tiny (s : FSpec) (r : Rounded) : Bool :=
  r.n != 0 && decide ((bitLen r.n : Int) + r.q ≤ s.minQ + (s.mbits : Int))

/-- The bits of a rounded magnitude that does not overflow. -/
def FSpec.pack (s : FSpec) (neg : Bool) (r : Rounded) : Nat :=
  let n := if 2 ^ (s.mbits + 1) ≤ r.n then r.n / 2 else r.n
  let q := if 2 ^ (s.mbits + 1) ≤ r.n then r.q + 1 else r.q
  let body :=
    if n < 2 ^ s.mbits then n
    else (q - s.minQ + 1).toNat * 2 ^ s.mbits + (n - 2 ^ s.mbits)
  s.sign neg + body * 2 ^ s.shift

/-- What an overflow delivers: an infinity, or the largest finite magnitude (R111, Table 5). -/
def overflowsToInf (mode : RMode) (neg : Bool) : Bool :=
  match mode with
  | .det .rne => true
  | .sr => true
  | .det .rz => false
  | .det .rd => neg
  | .det .ru => !neg

/-- An infinity as a float destination delivers it (R111, Table 5; R113). -/
def FSpec.deliverInf (s : FSpec) (sat neg : Bool) : Nat × Flags :=
  match s.spec with
  | .ieee => if sat then (s.maxBits neg, { nx := true }) else (s.infBits neg, .none)
  | .e4m3 => (if sat then s.maxBits neg else s.canonicalNan, { iv := true, nx := true })
  | .mx => (s.maxBits neg, { iv := true, nx := true })

/-- A finite overflow (R111, Table 5). -/
def FSpec.deliverOver (s : FSpec) (mode : RMode) (sat neg : Bool) : Nat :=
  match s.spec with
  | .mx => s.maxBits neg
  | .ieee => if sat || !overflowsToInf mode neg then s.maxBits neg else s.infBits neg
  | .e4m3 => if sat || !overflowsToInf mode neg then s.maxBits neg else s.canonicalNan

/-- A finite magnitude m × 2^e (or a little more when `sticky`) in a float format (R108 to R113). -/
def FSpec.deliver (s : FSpec) (mode : RMode) (sat neg : Bool) (m : Nat) (e : Int) (sticky : Bool)
    (rand : Nat) : Nat × Flags :=
  let q := s.grid m e
  let r := roundGrid mode neg q m e sticky rand
  let rne := roundGrid (.det .rne) neg q m e sticky 0
  let decides := if mode = .sr then rne else r
  if s.over decides then (s.deliverOver mode sat neg, { ovf := true, nx := true })
  else if s.over r then (s.maxBits neg, { nx := true })
  else (s.pack neg r, { uf := s.tiny r && r.inexact, nx := r.inexact })

/-- The bounds of an integer format (R107). -/
def intBounds (w : Nat) (signed : Bool) : Int × Int :=
  if signed then (-(2 ^ (w - 1) : Nat), (2 ^ (w - 1) : Nat) - 1) else (0, (2 ^ w : Nat) - 1)

/-- A conversion to an integer format (R112, R113). -/
def cvtInt (w : Nat) (signed : Bool) (mode : RMode) (rand : Nat) : FVal → Nat × Flags
  | .nan _ _ => (0, .invalid)
  | .inf neg =>
    (ofSigned w (if neg then (intBounds w signed).1 else (intBounds w signed).2),
      { iv := true, nx := true })
  | .fin neg m e =>
    let r := roundGrid mode neg 0 m e false rand
    let x : Int := if neg then -(r.n : Int) else r.n
    let (lo, hi) := intBounds w signed
    if x < lo then (ofSigned w lo, { iv := true, nx := true })
    else if hi < x then (ofSigned w hi, { iv := true, nx := true })
    else (ofSigned w x, { nx := r.inexact })

/-- `cvt(x, f, mode, sat)` of R110 to R113: the bits of the exact value in a format, with the flags a
vector conversion sets. -/
def cvt (x : FVal) (f : Fmt) (mode : RMode) (sat : Bool) (rand : Nat) : Nat × Flags :=
  match floatSpec f with
  | some s =>
    match x with
    | .nan neg sig =>
      if s.spec = .mx then (s.maxBits neg, .invalid)
      else (s.canonicalNan, { iv := sig })
    | .inf neg => s.deliverInf sat neg
    | .fin neg m e => s.deliver mode sat neg m e false rand
  | none =>
    match intSpec f with
    | some (w, signed) => cvtInt w signed mode rand x
    | none => (0, .none)

/-! ## FP32 -/

/-- FP32. -/
def fp32Spec : FSpec := ⟨8, 23, 127, .ieee, 0⟩

/-- The exact value of an FP32 word. -/
def f32 (w : Word) : FVal := floatVal fp32Spec false w.toNat

/-- FP32's canonical NaN. -/
def nan32 : Word := 0x7FC00000#32

/-- A result rounded to FP32 with the vector engine's flags, sat clear (R220, R125). A NaN here is the
NaN of a quiet input: its flag is decided by the operation. -/
def to32 (rm : RM) : FVal → Word × Flags
  | .nan _ _ => (nan32, .none)
  | .inf neg => (BitVec.ofNat 32 (fp32Spec.infBits neg), .none)
  | .fin neg m e =>
    let (b, fl) := fp32Spec.deliver (.det rm) false neg m e false 0
    (BitVec.ofNat 32 b, fl)

/-- The signed integer n × 2^e as a value; an exact zero has the sign given. -/
def dyadic (n : Int) (e : Int) (zeroNeg : Bool) : FVal :=
  if n = 0 then .fin zeroNeg 0 0 else .fin (decide (n < 0)) n.natAbs e

/-- A finite value's integer at exponent `e`, which does not exceed its own. -/
def scaled (neg : Bool) (m : Nat) (e0 e : Int) : Int :=
  let x : Int := (m * 2 ^ (e0 - e).toNat : Nat)
  if neg then -x else x

/-- The exact sum, and whether it is an invalid operation (R220, R125). An exact zero of operands of
opposite sign is +0, and -0 under RD. -/
def addF (rm : RM) : FVal → FVal → FVal × Bool
  | .nan _ s, b => (.nan false false, s || b.isSig)
  | a, .nan _ s => (.nan false false, s || a.isSig)
  | .inf x, .inf y => if x = y then (.inf x, false) else (.nan false false, true)
  | .inf x, .fin _ _ _ => (.inf x, false)
  | .fin _ _ _, .inf y => (.inf y, false)
  | .fin n1 m1 e1, .fin n2 m2 e2 =>
    if m1 = 0 ∧ m2 = 0 ∧ n1 = n2 then (.fin n1 0 0, false)
    else
      let e := min e1 e2
      (dyadic (scaled n1 m1 e1 e + scaled n2 m2 e2 e) e (decide (rm = .rd)), false)

/-- The exact product, and whether it is an invalid operation. -/
def mulF : FVal → FVal → FVal × Bool
  | .nan _ s, b => (.nan false false, s || b.isSig)
  | a, .nan _ s => (.nan false false, s || a.isSig)
  | .inf x, b => if b.isZero then (.nan false false, true) else (.inf (x != b.neg), false)
  | a, .inf y => if a.isZero then (.nan false false, true) else (.inf (a.neg != y), false)
  | .fin n1 m1 e1, .fin n2 m2 e2 => (.fin (n1 != n2) (m1 * m2) (e1 + e2), false)

/-- A result with its flags. -/
def finish (rm : RM) (r : FVal × Bool) : Word × Flags :=
  let (w, fl) := to32 rm r.1
  (w, { fl with iv := fl.iv || r.2 })

/-- FP32 addition with flags. -/
def fadd (rm : RM) (a b : Word) : Word × Flags := finish rm (addF rm (f32 a) (f32 b))

/-- FP32 subtraction with flags. -/
def fsub (rm : RM) (a b : Word) : Word × Flags := finish rm (addF rm (f32 a) (f32 b).negate)

/-- FP32 multiplication with flags. -/
def fmul (rm : RM) (a b : Word) : Word × Flags := finish rm (mulF (f32 a) (f32 b))

/-- FP32 fused multiply and add: one rounding (R220). 0 × ∞ is invalid whatever c is. -/
def ffma (rm : RM) (a b c : Word) : Word × Flags :=
  let (p, i1) := mulF (f32 a) (f32 b)
  let (s, i2) := addF rm p (f32 c)
  finish rm (s, i1 || i2)

/-- round32 of a sum, by RNE and without flags. -/
def add32 (a b : Word) : Word := (fadd .rne a b).1

/-- round32 of a difference. -/
def sub32 (a b : Word) : Word := (fsub .rne a b).1

/-- round32 of a product. -/
def mul32 (a b : Word) : Word := (fmul .rne a b).1

/-- round32 of an exact value. -/
def round32 (x : FVal) : Word := (to32 .rne x).1

/-- Numeric order of FP32 words that are no NaN: equal zeros. -/
def numKey (w : Word) : Int :=
  let m : Int := (w.toNat % 2 ^ 31 : Nat)
  if w.msb then -m else m

/-- Order of FP32 words that are no NaN in which -0 stands below +0 (R221). -/
def ordKey (w : Word) : Int :=
  let m : Int := (w.toNat % 2 ^ 31 : Nat)
  if w.msb then -m - 1 else m

/-- A NaN's bits. -/
def isNan32 (w : Word) : Bool := decide (0x7F800000 < w.toNat % 2 ^ 31)

/-- A signalling NaN's bits (R106). -/
def isSig32 (w : Word) : Bool := isNan32 w && !w.getLsbD 22

/-- minimumNumber or minimum, maximumNumber or maximum (R221). -/
def fminmax (isMax nanp : Bool) (a b : Word) : Word :=
  if isNan32 a && isNan32 b then nan32
  else if isNan32 a then if nanp then nan32 else b
  else if isNan32 b then if nanp then nan32 else a
  else if isMax then if ordKey a < ordKey b then b else a
  else if ordKey b < ordKey a then b else a

/-- The FP tests of R77. -/
def fccHolds (cc : FCc) (a b : Word) : Bool :=
  let un := isNan32 a || isNan32 b
  match cc with
  | .eq => !un && numKey a == numKey b
  | .ne => un || numKey a != numKey b
  | .lt => !un && decide (numKey a < numKey b)
  | .le => !un && decide (numKey a ≤ numKey b)
  | .gt => !un && decide (numKey b < numKey a)
  | .ge => !un && decide (numKey b ≤ numKey a)
  | .un => un
  | .ord => !un

/-- An exact sum of exact values without rounding: NaN, an infinity, or a dyadic number (R119). -/
inductive ExSum where
  | nan
  | inf (neg : Bool)
  | num (n : Int) (e : Int)
deriving DecidableEq, Repr

/-- One more term. -/
def ExSum.add : ExSum → FVal → ExSum
  | .nan, _ => .nan
  | _, .nan _ _ => .nan
  | .inf a, .inf b => if a = b then .inf a else .nan
  | .inf a, .fin _ _ _ => .inf a
  | .num _ _, .inf b => .inf b
  | .num n e, .fin neg m e2 =>
    if m = 0 then .num n e
    else if n = 0 then .num (if neg then -(m : Int) else m) e2
    else
      let e0 := min e e2
      .num (n * (2 ^ (e - e0).toNat : Nat) + scaled neg m e2 e0) e0

/-- The sum of a list of terms. -/
def exactSum (xs : List FVal) : ExSum := xs.foldl ExSum.add (.num 0 0)

/-- The sum as a value. DESIGN CHOICE: an exact zero is +0, whatever the signs of its terms (R119 names none; log 43). -/
def ExSum.val : ExSum → FVal
  | .nan => .nan false false
  | .inf n => .inf n
  | .num n e => dyadic n e false

/-- The product of an element and its scale (R114, R228, R229), and whether it is an invalid operation. A NaN
keeps its sign bit, which an MX destination looks at; where both are NaNs, the scale's (log 20). -/
def scaleF (x scale : FVal) : FVal × Bool :=
  match scale, x with
  | .nan n g, x => (.nan n false, g || x.isSig)
  | _, .nan n g => (.nan n false, g)
  | scale, x => mulF x scale

/-- A term of a dot product: an invalid product is a NaN (R119). -/
def prodF (a b : FVal) : FVal := (mulF a b).1

end Sys2Proof.Machine
end

