-- ==== Sys2Proof/Machine/State.lean ====
section
/-!
DEFINITION. The state of the FQ-7800: everything the spec gives the machine, as plain data, and the
state after reset. INVENTORY.md lists every field with the rule that names it. Registers whose reset
value no rule states hold the values of log 1.
-/
namespace Sys2Proof.Machine

/-! ## Memories -/

/-- A byte memory: the bytes that differ from what an unlisted address reads as, by rising address
(log 2). `tag` is 0 for a memory whose unlisted bytes read 0; any other tag names contents that the
spec leaves undefined, each unlisted byte then being a free value of that tag (log 8). -/
structure Mem where
  cells : List Host.Cell
  tag   : Nat
deriving DecidableEq, Repr

/-- A memory with nothing listed. -/
def Mem.empty : Mem := ⟨[], 0⟩

/-! ## A context -/

/-- A prepared-branch register (R179): its target, the prepared bit, and what R183 asks of it: the
schedule cycle at which its last preparation landed, if its prefetch has not been lost since. -/
structure BReg where
  target   : PcWord
  prepared : Bool
  since    : Option Nat
deriving DecidableEq, Repr

/-- A loop level (R60, R189). -/
structure Loop where
  start   : PcWord
  last    : PcWord
  remain  : BitVec 24
  pending : Option (BitVec 24)
  nopre   : Bool
deriving DecidableEq, Repr

/-- How a promote row combines (R122, R123). -/
inductive PromKind where
  | prom | promz | promx | promi | promiNeg
deriving DecidableEq, Repr

/-- What a result with an exposed latency writes when it lands (R87). -/
inductive RegWrite where
  | s (i : Fin 32) (w : DWord)
  | k (i : Fin 16) (w : DWord)
  | q (i : Fin 8) (w : Bool)
  | x (i : Fin 32) (w : Word)
  | a (i : Fin 16) (w : Word)
  | g (i : Fin 16) (w : DWord)
  | m (i : Fin 16) (w : DWord)
  | z (i : Fin 8) (w : BitVec 24)
  | sb (i : Fin 8) (w : Word)
  | sa (i : Fin 8) (w : VReg)
  /-- Lanes of a v register: those of the mask (R76, R215). -/
  | v (i : Fin 32) (w : VReg) (mask : Pred)
  | p (i : Fin 8) (w : Pred) (mask : Pred)
  /-- A b register prepared with a target (R179). -/
  | b (i : Fin 8) (t : PcWord)
  | unprep (i : Fin 8)
  | sr (r : SReg) (w : DWord)
  /-- The pending count of a loop level (R190). -/
  | pend (lev : Fin 8) (n : BitVec 24)
  /-- Sticky bits of STATUS that are set (R126). -/
  | sticky (bits : BitVec 10)
  /-- One row of a promote: it reads the tile's row when it lands (R260). -/
  | promRow (slot : Fin 8) (row : Fin 128) (kind : PromKind) (psum scale : VReg)
  /-- One row of an ALD (R264). -/
  | aldRow (slot : Fin 8) (row : Fin 128) (w : VReg)
  /-- AZERO at the end of its issue cycle (R262). -/
  | zeroTile (slot : Fin 8)
  /-- An a or b register of a load that its guard left inactive: nothing lands, but the scoreboard counts the
  register as pending all the same (R93). -/
  | keepA (i : Fin 16)
  | keepB (i : Fin 8)
deriving DecidableEq, Repr

/-- A result in flight: it is seen by operations issued at schedule cycle `at_` or later (R87); `issued`
and `pos` decide between results that land together (R90). -/
structure Landing where
  at_    : Nat
  issued : Nat
  pos    : Fin 8
  write  : RegWrite
deriving DecidableEq, Repr

/-- The partial sums of an MMA or MMAS (R251 to R253): issued at `issued`, it occupies the array until
`free` and the port from `port` for its rows; `taken` once a promote has it. -/
structure Stream where
  issued : Nat
  free   : Nat
  port   : Nat
  ints   : Bool
  rows   : List VReg
  taken  : Bool
deriving DecidableEq, Repr

/-- The three kinds of address-queue entries (R201). -/
inductive AqKind where
  | gather | scatter | addF | addI
deriving DecidableEq, Repr

/-- An entry of the address queue (R200 to R206). -/
structure AqEntry where
  seq   : Word
  kind  : AqKind
  spad  : Bool
  addr  : BitVec 48
  size  : Nat
  gid   : BitVec 8
  /-- The data attached by VPUSHD and its byte enables; none while it awaits data. -/
  data  : Option (VReg × Pred)
  /-- The cycle at which the entry was pushed, and then that at which its data was attached (R205). -/
  at_   : Nat
  begun : Bool
  /-- Bytes that a begun scratchpad gather has read, by their place in the scratchpad. -/
  got   : List (Nat × Byte)
  /-- Requests that order it after them, as of a copy element. -/
  after : List Nat
  /-- The data-queue slot a begun gather has reserved. -/
  slot  : Option (Fin 32)
  /-- The physical address of a begun device-memory entry. -/
  pa    : Nat
  /-- Its gambit has been resolved: a tagged write is discarded (R354). -/
  voided : Bool
deriving DecidableEq, Repr

/-- A data-queue slot: reserved by the gather with this number, and its data once it has landed. -/
structure DqSlot where
  seq  : Word
  data : Option VReg
deriving DecidableEq, Repr

/-- Why a context's core is held (R31), or its next packet waits. -/
inductive Hold where
  /-- A g register whose result has not landed (R91). -/
  | g (i : Fin 16)
  /-- VPOP on an empty data queue (R204). -/
  | pop
  /-- A translation miss: the number of the walk (R394). -/
  | walk (id : Nat)
  /-- A side-array fill (R255): the sector's virtual address. -/
  | side (va : BitVec 48)
  /-- A BREAK stop (R398). -/
  | brk
  /-- Entry of a user-level interrupt, until this device cycle (R401). -/
  | ui (until_ : Nat)
deriving DecidableEq, Repr

/-- What a context drains for (R44). -/
inductive DrainFor where
  | yield | sync | rejoin | endTask | preempt | fault
deriving DecidableEq, Repr

/-- What a context is doing. -/
inductive Run where
  | free
  /-- Bound, and waiting for an issue turn or having it (R45). -/
  | ready
  | held (h : Hold)
  /-- Issued a YIELD or END, and draining (R44, R46). -/
  | draining (d : DrainFor)
  | parked
  /-- Drained and arrived, or about to arrive, at a group (R49, R50). -/
  | syncWait (group : BitVec 8) (arrived : Bool)
  /-- Arrived at a REJOIN packet of this address (R54). -/
  | rejoinWait (at_ : PcWord)
  /-- Waiting after the drain of an END (R46). -/
  | endWait
  /-- Stopped by a fault of the core that is not recoverable (R396). -/
  | faulted
deriving DecidableEq, Repr

/-- The interrupted point of a user-level interrupt (R401, R403): its next packet, its clock, its results
in flight, its streams and CAUSE. -/
structure Frozen where
  pc       : PcWord
  clock    : Nat
  landings : List Landing
  streams  : List Stream
  cause    : DWord
deriving DecidableEq, Repr

/-- The task a context is bound to: launch and task number, and the template's reserved handles. -/
structure TaskRef where
  launch : Fin 256
  task   : BitVec 28
  h      : Nat
deriving DecidableEq, Repr

/-- The kinds of access a page's permission allows (R406). -/
inductive Access where
  | read | write | readWrite | fetch
deriving DecidableEq, Repr

/-- A fault of an engine entry or element: code, detail, address, and whether it waits for a host page
fault, or for a tagged way (R399). -/
structure EngFault where
  code   : BitVec 8
  detail : BitVec 8
  faddr  : DWord
  waits  : Bool
  /-- The access that failed, which PAGEFAULT names (R405). -/
  access : Access
deriving DecidableEq, Repr

/-- A hardware context (R80, R81, R60). -/
structure Context where
  s : Vector DWord 32
  k : Vector DWord 16
  x : Vector Word 32
  v : Vector VReg 32
  p : Vector Pred 8
  a : Vector Word 16
  b : Vector BReg 8
  q : Vector Bool 8
  z : Vector (BitVec 24) 8
  m : Vector DWord 16
  acc : Vector (Option (Fin 8)) 16
  sa : Vector VReg 8
  sb : Vector Word 8
  g : Vector DWord 16
  /-- The bank of s28 to s31 that is not in use (R401). -/
  sBank : Vector DWord 4
  /-- The bank of g12 to g15 that is not in use. -/
  gBank : Vector DWord 4
  pc : PcWord
  /-- The loop stack, level 0 first (R189). -/
  loops : List Loop
  /-- The sticky bits [9:0] of STATUS (R61). -/
  sticky : BitVec 10
  uiact : Bool
  cls : Fin 4
  fusew : Fin 3
  leader : Bool
  decoup : Bool
  control : BitVec 4
  cause : DWord
  epc : DWord
  faddr : DWord
  finfo : BitVec 36
  gid : BitVec 8
  orphan : Bool
  syncsel : BitVec 8
  splim : BitVec 22
  uivec : BitVec 44
  uistat : DWord
  spbase : BitVec 9
  spsize : BitVec 22
  dkey : DWord
  dctrh : DWord
  dctrl : DWord
  /-- ROUTEPOL's selector (R306). -/
  rpsel : Fin 8
  task : Option TaskRef
  /-- The arm value (R44). -/
  arm : Word
  run : Run
  /-- Schedule cycles since binding (R30). -/
  clock : Nat
  landings : List Landing
  streams : List Stream
  /-- Accumulator rows pending is read off `landings`; g registers whose result is outstanding. -/
  gPending : Vector Bool 16
  /-- The same for the bank of g12 to g15 that is not in use. -/
  gPendBank : Vector Bool 4
  /-- g registers that hold a result whose reading is an acquire event (R163). -/
  gAcq : Vector Bool 16
  /-- The same for the bank of g12 to g15 that is not in use. -/
  gAcqBank : Vector Bool 4
  /-- A g register on which the next packet waits, after TKCMT, GOPEN, GENTER and GRES. -/
  gWait : Option (Fin 16)
  /-- The loop boundary at pc waits for a TKCMT's pending count (R370). -/
  defer : Bool
  frozen : Option Frozen
  /-- Waiting user-level interrupts, oldest first (R294). -/
  uiQueue : List Word
  /-- A TRAPI that waits for entry (R177). -/
  trap : Option (BitVec 17)
  aq : List AqEntry
  dq : Vector (Option DqSlot) 32
  aqSeq : Word
  /-- The fault at which the address queue is suspended, with its entry (R206, R399). -/
  aqFault : Option (Word × EngFault)
  /-- The gPTP time at which a fault stopped the context, whose retirement is due (R397). -/
  failed : Option Nat
  /-- An engine fault has stopped the context (R399). -/
  engineFaulted : Bool
  /-- The context stands at a point where R60 allows pre-emption, and has issued nothing since. -/
  atPoint : Bool
deriving DecidableEq, Repr

def BReg.reset : BReg := ⟨0#43, false, none⟩

/-- A context that no task is bound to: zero in every field (log 1). -/
def Context.reset : Context where
  s := Vector.replicate 32 0#64
  k := Vector.replicate 16 0#64
  x := Vector.replicate 32 0#32
  v := Vector.replicate 32 (splat 0#32)
  p := Vector.replicate 8 0#128
  a := Vector.replicate 16 0#32
  b := Vector.replicate 8 BReg.reset
  q := Vector.replicate 8 false
  z := Vector.replicate 8 0#24
  m := Vector.replicate 16 0#64
  acc := Vector.replicate 16 none
  sa := Vector.replicate 8 (splat 0#32)
  sb := Vector.replicate 8 0#32
  g := Vector.replicate 16 0#64
  sBank := Vector.replicate 4 0#64
  gBank := Vector.replicate 4 0#64
  pc := 0#43
  loops := []
  sticky := 0#10
  uiact := false
  cls := 0
  fusew := 0
  leader := true
  decoup := false
  control := 0#4
  cause := 0#64
  epc := 0#64
  faddr := 0#64
  finfo := 0#36
  gid := 0#8
  orphan := false
  syncsel := 0#8
  splim := 0#22
  uivec := 0#44
  uistat := 0#64
  spbase := 0#9
  spsize := 0#22
  dkey := 0#64
  dctrh := 0#64
  dctrl := 0#64
  rpsel := 0
  task := none
  arm := 0#32
  run := .free
  clock := 0
  landings := []
  streams := []
  gPending := Vector.replicate 16 false
  gPendBank := Vector.replicate 4 false
  gAcq := Vector.replicate 16 false
  gAcqBank := Vector.replicate 4 false
  gWait := none
  defer := false
  frozen := none
  uiQueue := []
  trap := none
  aq := []
  dq := Vector.replicate 32 none
  aqSeq := 0#32
  aqFault := none
  failed := none
  engineFaulted := false
  atPoint := false

/-! ## A core -/

/-- A leaf translation as a TLB holds it (R404, R407): the page's virtual and physical base, the number
of its offset bits, and its permissions. -/
structure TlbEntry where
  va   : Nat
  pa   : Nat
  bits : Nat
  r : Bool
  w : Bool
  x : Bool
deriving DecidableEq, Repr

/-- A valid 32-byte sector of an L1 (R144, R347): its physical sector number, the GID it was filled for,
its bytes, and the cycle of its fill. -/
structure L1Sector where
  sector : Nat
  gid    : BitVec 8
  data   : List Byte
  filled : Nat
deriving DecidableEq, Repr

/-- A prefetch stream (R179, R181): the b register that started it, its first packet and the packets it
holds, by physical packet number. -/
structure PStream where
  ctx     : Fin 8
  reg     : Fin 8
  first   : PcWord
  packets : List (Nat × BitVec 256)
deriving DecidableEq, Repr

/-- Whose access stands in a bank's engine queue (R133). -/
inductive AccOwner where
  | copy (core : Fin 64) (q : Fin 4) (seq : Word)
  | entry (c : CtxRef) (seq : Word)
  | req (id : Nat)
deriving DecidableEq, Repr

/-- A block access of an engine (R133): the block's address in the core's scratchpad, and the bytes it
writes by their place in the scratchpad, or none for a read. -/
structure BankAcc where
  owner : AccOwner
  block : Nat
  write : Option (List (Nat × Byte))
  /-- For a read: the byte addresses wanted of this block. -/
  reads : List Nat
deriving DecidableEq, Repr

/-- Where a copy element's row stands (R287, R291). -/
inductive RowPhase where
  /-- The row has not begun. -/
  | start
  /-- Source bytes are being read through bank queues; those collected so far, by source address. -/
  | reading (got : List (Nat × Byte))
  /-- Source bytes are being read at the home slices (R147): those collected, by their distance from the first, and
  the aligned units still to be read. -/
  | fetching (got : List (Nat × Byte)) (todo : List (Nat × Nat))
  /-- Writes are under way in bank queues. -/
  | writing
  /-- Units still to be written at the home slices (R147), by their distance from the destination address. -/
  | storing (todo : List (Int × List Byte))
  /-- Every row has performed. -/
  | finished
deriving DecidableEq, Repr

/-- Why a copy queue's first element is stopped. -/
inductive Susp where
  | none
  | pipe
  | fault (f : EngFault)
  /-- A 17th interrupt waits at completion (R294). -/
  | interrupts
deriving DecidableEq, Repr

/-- A copy or reduce element (R279 to R293): the sixteen words of its record (QRED makes its own), and
what it took at submission. -/
structure CopyElem where
  id    : Nat
  seq   : Word
  owner : CtxRef
  task  : Option TaskRef
  gid   : BitVec 8
  /-- The window of the submitting context: its base and size. -/
  base  : Nat
  size  : Nat
  words : Vector Word 16
  isRed : Bool
  dice  : DWord × DWord × DWord
  /-- Elements that a QFENCE makes it wait for (R159): queue and sequence number. -/
  fence : List (Fin 4 × Word)
  /-- Requests that order it after them: DRAINs and .acq atomics issued before (R151, R154). -/
  after : List Nat
  begun : Bool
  row   : Nat
  phase : RowPhase
  susp  : Susp
  /-- Its task has been retired: no decrement, no interrupt (R396). -/
  silent : Bool
  /-- Its gambit has been resolved: its tagged writes are discarded (R354). -/
  voided : Bool
  /-- It has written device memory or NVMe (R385). -/
  wrote  : Bool
deriving DecidableEq, Repr

/-- A copy queue (R158, R280). -/
structure CopyQueue where
  elems : List CopyElem
  sub   : Word
  comp  : Word
deriving DecidableEq, Repr

/-- A core (R15). -/
structure Core where
  ctxs : Vector Context 8
  spad : Mem
  canopy : Mem
  /-- Which accumulator slots are taken (R139). -/
  slotTaken : Vector Bool 8
  /-- Tile rows that are not zero, by slot × 128 + row (R15, R139). -/
  tiles : List (Nat × VReg)
  l1 : List L1Sector
  /-- Lines the L1 holds exclusive (R155). -/
  excl : List Nat
  tlb : List TlbEntry
  icache : List (Nat × BitVec 256)
  pstreams : List PStream
  /-- Metadata-cache sectors by virtual sector number (R163). -/
  metaCache : List (Nat × List Byte)
  bankq : Vector (List BankAcc) 32
  /-- Engine accesses that wait for room in a bank's queue (R133). -/
  upstream : List BankAcc
  /-- The cycle from which each bank's engine port serves again (R133). -/
  portFree : Vector Nat 32
  copyq : Vector CopyQueue 4
  /-- Canopy bytes that each queue's first element has written, until it finishes (R142). -/
  canopyIn : Vector (List (Nat × Byte)) 4
  /-- The context that has the issue turn, if any (R45). -/
  current : Option (Fin 8)
  /-- The context that last ended a segment (R45). -/
  lastEnd : Fin 8
  /-- The device cycle at which the core next issues. -/
  nextAt : Nat
deriving DecidableEq, Repr

def CopyQueue.reset : CopyQueue := ⟨[], 0#32, 0#32⟩

def Core.reset : Core where
  ctxs := Vector.replicate 8 Context.reset
  spad := Mem.empty
  canopy := Mem.empty
  slotTaken := Vector.replicate 8 false
  tiles := []
  l1 := []
  excl := []
  tlb := []
  icache := []
  pstreams := []
  metaCache := []
  bankq := Vector.replicate 32 []
  upstream := []
  portFree := Vector.replicate 32 0
  copyq := Vector.replicate 4 CopyQueue.reset
  canopyIn := Vector.replicate 4 []
  current := none
  lastEnd := 7
  nextAt := 0

/-! ## Requests that have left a core -/

/-- The atomics of R272. -/
inductive AtOp where
  | add | min | max | and | or | xch | cas
deriving DecidableEq, Repr

/-- The requests that a unit serves. -/
inductive UnitOp where
  | xroute | xlook | xfetch (l : Bool) | xpin | xunpin | xhint | xswap
  | xstat (clr : Bool) (n : Fin 13)
  | pkq (bf16 : Bool) | pks | pkk
  | gopen | genter | gres (refute : Bool) | gqry (self : Bool)
  | tkcmt (lev : Fin 8) (pw zw snap all : Bool) | seatr (w : Fin 5) | seatw (w : Fin 5)
  | msg (bell : Bool) (size : Nat) | a2a
deriving DecidableEq, Repr

/-- What a request is for. Addresses are physical once it has issued. -/
inductive ReqKind where
  | load (va pa n : Nat) (sx : Bool)
  | store (va pa n : Nat) (w : DWord)
  | atomic (op : AtOp) (va pa : Nat) (w : Bool) (t : AtT) (v c : DWord)
  | dcas (va1 pa1 va2 pa2 : Nat) (e1 e2 n1 n2 : DWord)
  | amov (va1 pa1 va2 pa2 : Nat) (c : DWord)
  | drain (scope : Scope)
  | tdec (task : Nat) (amt : Word)
  | tspawn (a b : DWord)
  /-- The mask, and the elements of masked queues submitted before. -/
  | qfence (mask : BitVec 4) (marks : List (Fin 4 × Word))
  /-- The operands and the scratchpad bytes read at issue (R269). -/
  | unit (op : UnitOp) (a b : DWord) (bytes : List Byte)
deriving DecidableEq, Repr

/-- How far a request has come. -/
inductive ReqState where
  | waiting
  /-- Served by its unit; its last writes or its result are still under way. -/
  | served
  /-- Its result stands formed. -/
  | formed
deriving DecidableEq, Repr

/-- A request of the Q slot (R149 to R156, and the units): requests of one context stand in issue
order. -/
structure Req where
  id    : Nat
  c     : CtxRef
  task  : Option TaskRef
  /-- The g registers the result goes to, if it has one. -/
  d     : Option (Fin 16)
  d2    : Option (Fin 16)
  kind  : ReqKind
  gid   : BitVec 8
  acq   : Bool
  rel   : Bool
  /-- The cycle of issue. -/
  cycle : Nat
  state : ReqState
  res   : DWord
  res2  : DWord
  /-- Its context is gone: it completes without effect on the context (R396). -/
  orphaned : Bool
  /-- Its gambit has been resolved: a tagged write is discarded (R354). -/
  voided : Bool
  /-- Issued by a user-level interrupt handler: its result goes to that bank of g (R401). -/
  ui : Bool
  /-- Scratchpad bytes it will write, by first byte and length, before they reach the banks (R137). -/
  outs : List (Nat × Nat)
  /-- The 64 KiB pages whose page faults the host has failed (R405). -/
  pageFailed : List Nat
  /-- Its unit has begun it, and it has waited for a page since. -/
  started : Bool
deriving DecidableEq, Repr

/-- A decrement on its way to its counter's home (R40). -/
structure Dec where
  id     : Nat
  launch : Fin 256
  task   : Nat
  amt    : Word
  /-- The camp of the core it came from, if any (R375). -/
  camp   : Option (Fin 8)
  /-- The TDEC that waits for the result. -/
  req    : Option Nat
deriving DecidableEq, Repr

/-- Who waits for a walk (R405, R407). -/
inductive WalkFor where
  /-- A core's held packet. -/
  | packet (c : CtxRef)
  | engine (e : EngineRef)
  | unit (req : Nat)
deriving DecidableEq, Repr

/-- A walk in progress; `fault` is the identifier of its PAGEFAULT event while the host has not
answered. -/
structure Walk where
  id     : Nat
  who    : WalkFor
  /-- The position of the packet's operation that needs it. -/
  pos    : Fin 8
  va     : Nat
  access : Access
  launch : Option (Fin 256)
  fault  : Option (BitVec 32)
deriving DecidableEq, Repr

/-! ## Launches and tasks -/

/-- The task states of Table 5 (R39). -/
inductive TState where
  | pending | ready | running | parked | saved | done | cancelled | faulted | orphan
deriving DecidableEq, Repr

/-- A task of a launch: its record (R39) and what the dispatcher keeps of it. -/
structure Task where
  num      : Nat
  state    : TState
  tmpl     : BitVec 8
  counter  : Word
  arg      : BitVec 48
  deps     : List (Nat × Nat)
  overflow : BitVec 48
  tile     : BitVec 48
  ctx      : Option CtxRef
  progress : Word
  retire   : BitVec 8
  member   : Nat
  memTask  : Nat
  cls      : Fin 4
  /-- The place of its first image in its launch's save area: while it is SAVED, and from its choice as a victim. -/
  slot     : Option Nat
  /-- The model's fields of a saved context that the image leaves to the device. -/
  saved    : List Context
deriving DecidableEq, Repr

/-- A template of a launch's image (R42). -/
structure Template where
  id      : BitVec 8
  width   : Nat
  h       : Nat
  entry   : Nat
  spsize  : Nat
  stack   : Nat
  control : BitVec 4
  deps    : Nat
  tilev   : Bool
  tileOff : Nat
deriving DecidableEq, Repr

/-- A group of a placed launch (R47): its members by device context number, and its line. -/
structure Group where
  members : List Nat
  line    : LineRef
deriving DecidableEq, Repr

/-- A pipe of a gang (R58, R59). -/
structure Pipe where
  name    : BitVec 16
  push    : BitVec 48
  pop     : BitVec 48
  entries : List (List Byte)
deriving DecidableEq, Repr

/-- How a launch stands. -/
inductive LaunchState where
  /-- In the admission queue (R36). -/
  | queued
  /-- Admitted; dispatch has not begun (R37). -/
  | admitted
  | running
  /-- Every task has retired and its event has been sent; its record area stays readable. -/
  | over
deriving DecidableEq, Repr

/-- A launch (R33, R412). -/
structure Launch where
  num      : Fin 256
  assoc    : Fin 16
  state    : LaunchState
  order    : Nat
  image    : Nat
  /-- Physical or virtual base of the image: a device virtual address. -/
  code     : Nat
  pclass   : Fin 3
  cls      : Fin 4
  budget   : Word
  used     : Nat
  remain   : Nat
  watchdog : Word
  timer    : Option Nat
  /-- A task of the launch has been dispatched (R385). -/
  started  : Bool
  lastSink : Nat
  argBase  : BitVec 48
  stride   : Nat
  count    : Nat
  templates : List Template
  members  : List (BitVec 8 × Nat)
  groups   : List Group
  /-- Named contexts of a placed launch's tasks, by task number. -/
  places   : List Nat
  placed   : Bool
  pipes    : List Pipe
  handles  : List (Nat × Bool × Bool)
  args     : List Byte
  area     : BitVec 48
  tasks    : List Task
  /-- Teardown: none, RESET or ABORT, and the cycle at which ABORT took effect (R387). -/
  teardown : Option Bool
  abortAt  : Nat
  saveBase : Nat
  saveImages : Nat
  /-- The launches, and the host messages by association and number, that it waits for before its dispatch
  begins (R37, R164). -/
  waits    : List (Fin 256)
  waitMsgs : List (Fin 16 × Nat)
deriving DecidableEq, Repr

/-- A buffer handle (R37, R38, R421). -/
structure Handle where
  base     : Nat
  length   : Nat
  writer   : Option (Fin 256)
  readers  : List (Fin 256)
  poisoned : Bool
deriving DecidableEq, Repr

/-- A task in a ready queue (R375, R378). -/
structure Queued where
  launch : Fin 256
  task   : Nat
  bypass : Nat
deriving DecidableEq, Repr

/-- An arrival at a group whose line carries another group's episode, or of the episode itself (R50). -/
structure Arrival where
  launch : Fin 256
  group  : BitVec 8
  c      : CtxRef
  cycle  : Nat
deriving DecidableEq, Repr

/-- A guy line (R20, R50). -/
structure Line where
  ref      : LineRef
  /-- The cycle on which the line was last freed. -/
  free     : Nat
  episode  : Option (Fin 256 × BitVec 8)
  arrivals : List Arrival
deriving DecidableEq, Repr

/-! ## The units -/

/-- The states of a tag-store entry (R303, Table 4). -/
inductive TagState where
  | absent | fetching | resident | evicting
deriving DecidableEq, Repr

/-- A tag-store entry (R303, Table 3), with the frames of its frame plan. -/
structure Tag where
  loc    : Nat
  id     : BitVec 20
  tier   : Nat
  fmt    : Nat
  ver    : Bool
  pin    : Bool
  scout  : Bool
  state  : TagState
  /-- DESIGN CHOICE: Table 3 gives REF 12 bits, and R312 sets no limit on references; the count goes on beyond 4,095
  (log 24). -/
  ref    : Nat
  /-- A stamp of 21 bits. -/
  age    : Nat
  /-- First frame and count on each core, once they are allocated: the frame list (R305). -/
  frames : List (Nat × Nat)
  /-- The bytes of the side section. -/
  side   : Nat
deriving DecidableEq, Repr

/-- A batch entry that waits for a fill, with its tokens in the order enqueued (R313): the entry's address,
token-list address, decrement amount and task, and the task that issued the XROUTE. -/
structure WaitBatch where
  fill   : Nat
  /-- The launch of the XROUTE, until it is over: its number may then be another's (R412). -/
  launch : Option (Fin 256)
  entry  : Nat
  list   : Nat
  amt    : Nat
  task   : Nat
  issuer : Nat
  toks   : List (Word × Word)
deriving DecidableEq, Repr

/-- A reference on a copy, held by a task (R312). -/
structure Reference where
  tag    : Nat
  launch : Fin 256
  task   : Nat
deriving DecidableEq, Repr

/-- A fetch (R315): the copy it fills, the expert record it works under, the way it has claimed, whether it
has found its room and begun, why it has failed if it has (log 17), and the decrements to send at its end
(R324). -/
structure Fill where
  id      : Nat
  expert  : BitVec 20
  fmt     : Nat
  canopy  : Bool
  ver     : Bool
  scout   : Bool
  pin     : Bool
  record  : List Byte
  tag     : Option Nat
  /-- Its place in the order of entry into FETCHING, once it has a way (R315). -/
  entered : Option Nat
  /-- Its version was retired while it was under way (R326). -/
  old     : Bool
  going   : Bool
  reason  : Nat
  /-- Of each XFETCH that asked for a decrement, the launch, the task decremented and the task that issued it. -/
  waiters : List (Fin 256 × Nat × Nat)
deriving DecidableEq, Repr

/-- The residency unit (R299 to R331). -/
structure Residency where
  bases    : Vector (Option Nat) 8
  policies : Vector (BitVec 32) 8
  wsBase : Nat
  wsSize : Nat
  rgBase : Nat
  rgSize : Nat
  /-- Entries that are not ABSENT, by set × 8 + way. -/
  tags   : List (Nat × Tag)
  age    : Nat
  waits  : List WaitBatch
  refs   : List Reference
  fills  : List Fill
  /-- Replacement records by expert (R326). -/
  records : List (Nat × List Byte)
  /-- Experts whose current version is B. -/
  versions : List Nat
  /-- Counters that are not zero, by model context × 16 + number (R325). -/
  counters : List (Nat × DWord)
deriving DecidableEq, Repr

/-- How far the seat store has come with the TKCMT that it serves (R364, R367, R368): seats to be committed, log words
of the last of them to be written, seats whose batch entries are to be taken, the words of the first of those read so
far, tokens committed, seats ended, and whether a log word was not written. -/
structure SeatTurn where
  req     : Nat
  commits : List Nat
  words   : List (Nat × Word)
  snaps   : List Nat
  got     : List Word
  tok     : Nat
  newDone : Nat
  logf    : Bool
deriving DecidableEq, Repr

/-- The product-key unit's binding (R332). -/
structure PkBind where
  key  : Nat
  grad : Nat
  val  : Nat
  n    : Nat
  d    : Nat
  f32  : Bool
deriving DecidableEq, Repr

/-- A live gambit besides the root (R342). -/
structure Gambit where
  parent : BitVec 8
  depth  : Nat
deriving DecidableEq, Repr

/-- A version of a sector under a gambit (R347). -/
structure Version where
  gid    : BitVec 8
  sector : Nat
  data   : List Byte
deriving DecidableEq, Repr

/-! ## The link and the platform -/

/-- A datagram that the module sends (R409, Table 1): its association, its message's type, the version in use, its
sequence number, whether it carries the LAST fragment, and its fragment. The acknowledgement and the time are put
in as it leaves. -/
structure OutMsg where
  assoc   : Fin 16
  type    : BitVec 8
  major   : BitVec 8
  minor   : BitVec 8
  seq     : Word
  last    : Bool
  payload : List Byte
deriving DecidableEq, Repr

/-- A datagram as it has left a port: the port, its 802.1Q priority (R416) and its bytes. -/
structure Datagram where
  port  : Fin 2
  prio  : BitVec 3
  assoc : Fin 16
  bytes : List Byte
deriving DecidableEq, Repr

/-- A datagram that the far end has not acknowledged (R410), and its kind of traffic (R416). -/
structure Unacked where
  out     : OutMsg
  kind    : Fin 3
  retries : Nat
  /-- The gPTP time of its last transmission, unless it waits for its gate. -/
  sentAt  : Option Nat
deriving DecidableEq, Repr

/-- An association (R408 to R411). -/
structure Assoc where
  peer    : Option (Fin 8)
  opened  : Bool
  major   : Nat
  minor   : Nat
  txSeq   : Word
  /-- The number below which every datagram has been received. -/
  rxSeq   : Word
  /-- The fragments so far of a message whose LAST has not come, with its type (R409). -/
  part    : Option (BitVec 8 × List Byte)
  /-- Datagrams received since the last acknowledgement, and the time of the first of them. -/
  rxUnacked : Nat
  rxSince   : Nat
  unacked : List Unacked
deriving DecidableEq, Repr

/-- A host message that waits for launches on its handle (R164), for a TLB invalidate to complete
(R407), or for stores to perform (R414). -/
inductive Deferred where
  | write (m : FltMsg) (handle : Nat) (waits : List (Fin 256))
  | read (m : FltMsg) (handle : Nat) (waits : List (Fin 256))
  /-- A WRITE some of whose units have been written, with the offset, address and length of those to come (R147), and
  its handle, unless it names memory by an address, which nothing orders (R165). -/
  | writing (m : FltMsg) (handle : Option Nat) (todo : List (Nat × Nat × Nat))
  /-- A READ with the bytes it has, by offset, and the units to come (R147), and its handle, as of a WRITE. -/
  | reading (m : FltMsg) (handle : Option Nat) (got : List (Nat × Byte)) (todo : List (Nat × Nat × Nat))
  | invalidate (m : FltMsg) (base length : Nat)
  /-- A FENCE, with the requests, entries and elements that it waits for (R414). -/
  | fence (m : FltMsg) (reqs : List Nat) (entries : List (CtxRef × Word)) (elems : List Nat)
deriving DecidableEq, Repr

/-- A port's gates and queues (R416). -/
structure Port where
  prio    : Vector (BitVec 3) 3
  queue   : Vector (Fin 8) 3
  base    : Nat
  period  : Nat
  gates   : List (BitVec 8 × Nat)
  /-- Datagrams whose queue's gate is not open yet, with their queues and priorities. -/
  waiting : List (Fin 8 × BitVec 3 × OutMsg)
deriving DecidableEq, Repr

/-- A peer set (R417). -/
structure PeerSet where
  own     : Fin 8
  members : BitVec 8
  addrs   : List (List Byte)
deriving DecidableEq, Repr

/-- A MSG or an A2A whose PEER messages have been sent (R296, R297): the peers whose results are to come, and the
causes and the failed peers so far. -/
structure NetWait where
  id     : Nat
  peers  : BitVec 8
  causes : BitVec 4
  failed : BitVec 8
deriving DecidableEq, Repr

/-- A namespace of an NVMe drive (R418): 1 to 7, of logical blocks of 512 bytes or, with `large`, of 4 KiB. -/
structure Namespace where
  drive  : Fin 4
  nsid   : Fin 8
  large  : Bool
  length : Nat
  data   : Mem
deriving DecidableEq, Repr

/-- What the board measures (R421, setting 0x0E). -/
structure Sensors where
  junction : BitVec 16
  board    : BitVec 16
  power    : Word
  corrected   : DWord
  uncorrected : DWord
deriving DecidableEq, Repr

/-- Where an uncorrectable error lies (R146). -/
inductive BadSpace where
  /-- A byte of device memory at the point of coherence: in DRAM, in the L2, or in a line that an L1 holds
  exclusive; written back, it is marked bad there. -/
  | dram
  | spad (core : Fin 64)
  | canopy (core : Fin 64)
  /-- A tile row of a core's accumulator store, by slot × 128 + row. -/
  | acc (core : Fin 64)
  /-- A register of a context, by its number in Table 8 of spec/05_packets_encoding.md taken file by file. -/
  | regs (c : CtxRef)
  /-- A physical byte in a shared sector of a core's L1. -/
  | l1 (core : Fin 64)
  /-- A task record in the task cache, by launch × 2^28 + task. -/
  | task
  /-- An entry of the tag store, by set × 8 + way. -/
  | tag
  | nvme (drive : Fin 4) (nsid : Fin 8)
deriving DecidableEq, Repr

/-! ## The machine -/

/-- The operation under execution: its context and position, the packet's transfer if one has been taken,
and the scratchpad writes that wait for the end of the packet's issue (R135). Fields of the model, not of
the spec (log 6). -/
structure Focus where
  c        : CtxRef
  /-- The packet's address. -/
  at_      : PcWord
  pos      : Fin 8
  transfer : Option PcWord
  /-- Fetch-wait cycles before the next packet (R183). -/
  wait     : Nat
  /-- A UIRET has resumed an interrupted point, whose schedule clock stands as it was (R403). -/
  resumed  : Bool
  stores   : List (Fin 64 × Nat × Byte)
deriving DecidableEq, Repr

/-- The state of the module. -/
structure State where
  cores  : Vector Core 64
  /-- The camp TLBs (R19, R407). -/
  campTlb : Vector (List TlbEntry) 8
  /-- CYCLE (R393). -/
  cycle  : Nat
  /-- gPTP time in ns (R416). -/
  gptp   : Nat
  /-- Device memory at the point of coherence, by physical address (R143, R145). -/
  dram   : Mem
  /-- Lines present in the L2, by home slice × 256 + set, most recently used first (R145). -/
  l2     : List (Nat × List Nat)
  versions : List Version
  gambits  : List (Nat × Gambit)
  /-- Requests of the Q slot that have not finished (R149 to R156, and the units'). -/
  reqs   : List Req
  decs   : List Dec
  walks  : List Walk
  launches : List (Nat × Launch)
  handles  : List (Nat × Handle)
  ready    : Vector (List Queued) 32
  lines    : List Line
  /-- The cycle from which each camp's fuse line serves again (R19, R54). -/
  fuse     : Vector Nat 8
  /-- Reservations of contexts: for a waiting launch, or for a blocked task (R36, R381). -/
  reserved : List (CtxRef × Fin 256 × Option Nat)
  bypass   : BitVec 8
  poolBase : Nat
  poolSize : Nat
  resid    : Residency
  pk       : Option PkBind
  /-- Words of the seat store that are not zero, by (model context × 64 + seat) × 8 + word (R357). -/
  seats    : List (Nat × DWord)
  /-- Control words (R359). -/
  seatCtl  : Vector DWord 8
  /-- The TKCMT that the seat store is serving, if any. -/
  seatTurn : Option SeatTurn
  canopyC  : Nat
  root     : Option Nat
  assocs   : Vector (Option Assoc) 16
  /-- Messages received whole and not acted on yet, with the datagrams that completed them, oldest first. -/
  inbox    : List (FltMsg × List Byte)
  deferred : List Deferred
  netWaits : List NetWait
  sent     : List Datagram
  ports    : Vector Port 2
  peers    : PeerSet
  limitW   : Nat
  standby  : Bool
  mhz      : Nat
  powered  : Bool
  sensors  : Sensors
  firmware : Vector Mem 2
  fwVersion : Word
  /-- The firmware slot that runs, if one was valid at boot (R422). -/
  fwSlot   : Option (Fin 2)
  drives   : List Namespace
  bad      : List (BadSpace × Nat)
  pfNext   : BitVec 32
  /-- The model's own fields: events that are due, open choices, the counter of free values, request
  numbers, the operation under execution (logs 5, 6, 8). -/
  agenda   : List Instr
  choices  : List Nat
  fresh    : Nat
  nextId   : Nat
  focus    : Focus
deriving DecidableEq, Repr

def Residency.reset : Residency where
  bases := Vector.replicate 8 none
  policies := Vector.replicate 8 0x70000000#32
  wsBase := 0
  wsSize := 0
  rgBase := 0
  rgSize := 0
  tags := []
  age := 0
  waits := []
  refs := []
  fills := []
  records := []
  versions := []
  counters := []

def Port.reset : Port where
  prio := Vector.replicate 3 0#3
  queue := Vector.replicate 3 0
  base := 0
  period := 0
  gates := []
  waiting := []

def Focus.reset : Focus where
  c := ⟨0, 0⟩
  at_ := 0#43
  pos := 0
  transfer := none
  wait := 0
  resumed := false
  stores := []

/-- The module right after reset. -/
def State.reset : State where
  cores := Vector.replicate 64 Core.reset
  campTlb := Vector.replicate 8 []
  cycle := 0
  gptp := 0
  dram := Mem.empty
  l2 := []
  versions := []
  gambits := []
  reqs := []
  decs := []
  walks := []
  launches := []
  handles := []
  ready := Vector.replicate 32 []
  lines := []
  fuse := Vector.replicate 8 0
  reserved := []
  bypass := 8#8
  poolBase := 0
  poolSize := 0
  resid := Residency.reset
  pk := none
  seats := []
  seatCtl := Vector.replicate 8 0#64
  seatTurn := none
  canopyC := 0
  root := none
  assocs := Vector.replicate 16 none
  inbox := []
  deferred := []
  netWaits := []
  sent := []
  ports := Vector.replicate 2 Port.reset
  peers := ⟨0, 0#8, []⟩
  limitW := 380
  standby := false
  mhz := 2100
  powered := true
  sensors := ⟨0#16, 0#16, 0#32, 0#64, 0#64⟩
  firmware := Vector.replicate 2 Mem.empty
  fwVersion := 0#32
  fwSlot := some 0
  drives := []
  bad := []
  pfNext := 0#32
  agenda := []
  choices := []
  fresh := 0
  nextId := 0
  focus := Focus.reset

/-! ## Stops -/

/-- Why the machine stops. -/
inductive Fault where
  /-- The module has powered down (R423) and no rule says what a packet or a message does then: raised by
  `step`, unless a device reset is due; safe. -/
  | poweredDown
deriving DecidableEq, Repr

/-- Why the model has no step. -/
inductive Refusal where
  /-- The instruction has no meaning yet: raised by its arm of `exec`; safe. -/
  | notModelled (mnemonic : String)
deriving DecidableEq, Repr

end Sys2Proof.Machine
end

