-- ==== Sys2Proof/Machine/Ops.lean ====
section
/-!
DEFINITION. The named operations over the state: memories, contexts, results in flight, holds, taking a
fault, entering and leaving a user-level interrupt handler. The meanings are written over these.
-/
namespace Sys2Proof.Machine

/-- What every meaning answers. -/
abbrev Out := Host.Outcome State Fault Refusal

/-! ## Memories -/

/-- What an unlisted address reads as (log 2, log 8). -/
def Mem.unlisted (m : Mem) (a : Nat) : Byte := if m.tag = 0 then 0#8 else Config.openByte m.tag a

/-- The byte at an address among cells, if it is listed. -/
def cellAt : List Host.Cell → Nat → Option Byte
  | [], _ => none
  | (k, b) :: rest, a => if k = a then some b else if a < k then none else cellAt rest a

/-- The byte at an address. -/
def Mem.get (m : Mem) (a : Nat) : Byte := (cellAt m.cells a).getD (m.unlisted a)

/-- Cells with an address set. -/
def cellSet (a : Nat) (b : Byte) : List Host.Cell → List Host.Cell
  | [] => [(a, b)]
  | (k, c) :: rest =>
    if a < k then (a, b) :: (k, c) :: rest
    else if a = k then (a, b) :: rest
    else (k, c) :: cellSet a b rest

/-- Cells without an address. -/
def cellErase (a : Nat) : List Host.Cell → List Host.Cell
  | [] => []
  | (k, c) :: rest =>
    if a < k then (k, c) :: rest else if a = k then rest else (k, c) :: cellErase a rest

/-- The memory with one byte written; the list keeps its canonical form. A byte of undefined contents is
listed whatever its value, since no value can be compared with it. -/
def Mem.set (m : Mem) (a : Nat) (b : Byte) : Mem :=
  if m.tag = 0 ∧ b = 0#8 then { m with cells := cellErase a m.cells }
  else { m with cells := cellSet a b m.cells }

/-- Addresses strictly rising. -/
def cellsRise : List Host.Cell → Bool
  | [] => true
  | [_] => true
  | (a, _) :: (b, c) :: rest => decide (a < b) && cellsRise ((b, c) :: rest)

/-- The canonical form: addresses strictly rising, and no entry that an unlisted address reads as. -/
def Mem.wf (m : Mem) : Bool :=
  cellsRise m.cells && (m.tag != 0 || m.cells.all fun c => c.2 != 0#8)

/-- Bytes written from an address up. -/
def Mem.setBytes (m : Mem) (a : Nat) : List Byte → Mem
  | [] => m
  | b :: bs => (m.set a b).setBytes (a + 1) bs

/-- Bytes written at the addresses given, in order. -/
def Mem.setCells (m : Mem) : List (Nat × Byte) → Mem
  | [] => m
  | (a, b) :: cs => (m.set a b).setCells cs

/-- `n` bytes from an address up. -/
def Mem.bytes (m : Mem) (a : Nat) : Nat → List Byte
  | 0 => []
  | n + 1 => m.get a :: m.bytes (a + 1) n

/-- The little-endian number of `n` bytes at an address. -/
def Mem.num (m : Mem) (a n : Nat) : Nat := leNat (m.bytes a n)

/-! ## Cores and contexts -/

/-- A core. -/
def State.core (s : State) (i : Fin 64) : Core := s.cores[i]

/-- The state with a core replaced. -/
def State.setCore (s : State) (i : Fin 64) (k : Core) : State :=
  { s with cores := s.cores.set i k }

/-- The state with a core changed. -/
def State.modCore (s : State) (i : Fin 64) (f : Core → Core) : State := s.setCore i (f (s.core i))

/-- A core with a context replaced. -/
def Core.setCtx (k : Core) (i : Fin 8) (x : Context) : Core := { k with ctxs := k.ctxs.set i x }

/-- A context. -/
def State.ctx (s : State) (r : CtxRef) : Context := (s.core r.core).ctxs[r.ctx]

/-- The state with a context replaced. -/
def State.setCtx (s : State) (r : CtxRef) (x : Context) : State :=
  s.setCore r.core ((s.core r.core).setCtx r.ctx x)

/-- Whether a context's address queue is suspended (R206). -/
def Context.aqSusp (x : Context) : Bool := x.aqFault.isSome

/-- The state with a context changed. -/
def State.modCtx (s : State) (r : CtxRef) (f : Context → Context) : State :=
  s.setCtx r (f (s.ctx r))

/-- The context that executes. -/
def State.me (s : State) : Context := s.ctx s.focus.c

/-- The state with the executing context replaced. -/
def State.setMe (s : State) (x : Context) : State := s.setCtx s.focus.c x

/-- The core that executes. -/
def State.mine (s : State) : Core := s.core s.focus.c.core

/-- Every context of the device, in order. -/
def allCtxs : List CtxRef :=
  (List.finRange 64).flatMap fun c => (List.finRange 8).map fun x => ⟨c, x⟩

/-- The camp of a core (R17). -/
def campOf (c : Fin 64) : Fin 8 := ⟨c.val / 8, by omega⟩

/-- The device context number (R17). -/
def CtxRef.num (r : CtxRef) : Nat := r.core.val * 8 + r.ctx.val

/-- The context with a device context number. -/
def ctxOfNum (n : Nat) : CtxRef := ⟨Fin.ofNat 64 (n / 8), Fin.ofNat 8 n⟩

/-- The width of a fused set (R61). -/
def widthOf (f : Fin 3) : Nat := 2 ^ f.val

/-- The contexts of a context's fused set, leader first (R18, R52). -/
def State.fusedSet (s : State) (r : CtxRef) : List CtxRef :=
  let w := widthOf (s.ctx r).fusew
  tabulate (fun i => ⟨Fin.ofNat 64 (r.core.val / w * w + i), r.ctx⟩) w

/-- The contexts that issue with a context: its coupled set, or itself. -/
def State.issueSet (s : State) (r : CtxRef) : List CtxRef :=
  if (s.ctx r).decoup then [r] else s.fusedSet r

/-- The leader of a context's fused set. -/
def State.leaderOf (s : State) (r : CtxRef) : CtxRef := ((s.fusedSet r).head?).getD r

/-! ## Open choices -/

/-- The next open choice among `n` (log 5): the tape's head, 0 when the tape is empty. -/
def State.choose (s : State) (n : Nat) : Nat × State :=
  match s.choices with
  | [] => (0, s)
  | c :: cs => (c % n, { s with choices := cs })

/-- A fresh request number. -/
def State.newId (s : State) : Nat × State := (s.nextId, { s with nextId := s.nextId + 1 })

/-- An event made due (log 6). -/
def State.due (s : State) (e : Instr) : State := { s with agenda := s.agenda ++ [e] }

/-- An engine has met a fault and has not detected it yet: no record of it is written, and no result shows its
queue suspended (R399; log 36). -/
def State.faultDue (s : State) (e : EngineRef) : Bool := s.agenda.contains (.engineFault e)

/-- ENGINE_FAULT due, once. -/
def State.dueFault (s : State) (e : EngineRef) : State := if s.faultDue e then s else s.due (.engineFault e)

/-! ## Results in flight -/

/-- A result in flight: it lands at the end of schedule cycle t + L - 1 (R87). -/
def Context.land (x : Context) (lat : Nat) (pos : Fin 8) (w : RegWrite) : Context :=
  { x with landings := x.landings ++ [⟨x.clock + lat, x.clock, pos, w⟩] }

/-- A result of the executing operation, by its exposed latency. -/
def State.land (s : State) (lat : Nat) (w : RegWrite) : State :=
  s.setMe (s.me.land lat s.focus.pos w)

/-- A lane of a predicate. -/
def laneOn (p : Pred) (i : Nat) : Bool := p.getLsbD i

/-- One loop level changed. -/
def putLoop (f : Loop → Loop) (lev : Nat) (ls : List Loop) : List Loop := modifyAt f lev ls

/-- A special register takes a value that MTSR, DICE or a copy record writes (R173, R392, R400). -/
def Context.writeSr (x : Context) (r : SReg) (w : DWord) : Context :=
  match r with
  | .status => { x with sticky := x.sticky &&& w.setWidth 10 }
  | .control => { x with control := w.setWidth 4 }
  | .finfo => { x with finfo := (w.setWidth 32).setWidth 36 }
  | .syncsel => { x with syncsel := w.setWidth 8 }
  | .splim => { x with splim := w.setWidth 22 }
  | .uivec => { x with uivec := w.extractLsb' 5 43 ++ w.extractLsb' 0 1 }
  | .uistat => { x with uistat := x.uistat.extractLsb' 32 32 ++ w.setWidth 32 }
  | .dkey => { x with dkey := w }
  | .dctrh => { x with dctrh := w }
  | .dctrl => { x with dctrl := w }
  | .routepol => { x with rpsel := Fin.ofNat 8 (w.toNat / 2 ^ 61) }
  | .cause | .epc | .faddr | .gid | .spbase | .spsize | .lc _ | .taskid | .ctxid | .coreid | .cycle
  | .energy => x

/-- Tile rows of a core: what a slot's row holds; rows not listed hold zero (R139). -/
def tileRow (tiles : List (Nat × VReg)) (slot : Fin 8) (row : Nat) : VReg :=
  (lookupNat tiles (slot.val * 128 + row)).getD (splat 0#32)

/-- The tile rows with one set; a row of zeros is not listed. -/
def setTileRow (tiles : List (Nat × VReg)) (slot : Fin 8) (row : Nat) (w : VReg) :
    List (Nat × VReg) :=
  if w = splat 0#32 then eraseNat (slot.val * 128 + row) tiles
  else insertNat (slot.val * 128 + row) w tiles

/-- The tile rows with a slot zeroed. -/
def zeroTile (tiles : List (Nat × VReg)) (slot : Fin 8) : List (Nat × VReg) :=
  tiles.filter fun t => t.1 / 128 != slot.val

/-- One element of a promote (R122, R123), and whether it saturated. `scale` holds s for PROM and PROMZ,
and the sum of the two E8M0 codes for PROMX, 0x1FF where one is 255. -/
def promElem (kind : PromKind) (acc psum scale : Word) : Word × Bool :=
  match kind with
  | .prom => (add32 acc (mul32 psum scale), false)
  | .promz => (mul32 psum scale, false)
  | .promx =>
    let p :=
      if scale = 0x1FF#32 then nan32
      else round32 (mulF (f32 psum) (.fin false 1 ((scale.toNat : Int) - 254))).1
    (add32 acc p, false)
  | .promi | .promiNeg =>
    let x := if kind = .promi then acc.toInt + psum.toInt else acc.toInt - psum.toInt
    if x < -2147483648 then (0x80000000#32, true)
    else if 2147483647 < x then (0x7FFFFFFF#32, true)
    else (BitVec.ofInt 32 x, false)

/-- STATUS.ISAT (R61). -/
def isatBit : BitVec 10 := 0x010#10

/-- A result lands in context `i` of a core; `pre` is the core at the start of the cycle, from which a
promote row reads its tile (R260); `cyc` is the schedule cycle from which it is seen. -/
def Core.apply (k pre : Core) (i : Fin 8) (cyc : Nat) (w : RegWrite) : Core :=
  let x := k.ctxs[i]
  match w with
  | .s j w => k.setCtx i { x with s := x.s.set j w }
  | .k j w => k.setCtx i { x with k := x.k.set j w }
  | .q j w => k.setCtx i { x with q := x.q.set j w }
  | .x j w => k.setCtx i { x with x := x.x.set j w }
  | .a j w => k.setCtx i { x with a := x.a.set j w }
  | .g j w => k.setCtx i { x with g := x.g.set j w, gAcq := x.gAcq.set j false }
  | .m j w => k.setCtx i { x with m := x.m.set j w }
  | .z j w => k.setCtx i { x with z := x.z.set j w }
  | .sb j w => k.setCtx i { x with sb := x.sb.set j w }
  | .sa j w => k.setCtx i { x with sa := x.sa.set j w }
  | .v j w mask => k.setCtx i { x with v := x.v.set j (mergeLanes (laneOn mask) w x.v[j]) }
  | .p j w mask =>
    k.setCtx i { x with p := x.p.set j (w &&& mask ||| x.p[j] &&& ~~~mask) }
  | .b j t => k.setCtx i { x with b := x.b.set j ⟨t, true, some cyc⟩ }
  | .unprep j => k.setCtx i { x with b := x.b.set j { x.b[j] with prepared := false, since := none } }
  | .sr r w => k.setCtx i (x.writeSr r w)
  | .pend lev n => k.setCtx i { x with loops := putLoop (fun l => { l with pending := some n }) lev x.loops }
  | .sticky b => k.setCtx i { x with sticky := x.sticky ||| b }
  | .promRow slot row kind psum scale =>
    let old := tileRow pre.tiles slot row
    let el (j : Nat) := promElem kind (lane old j) (lane psum j) (lane scale j)
    let sat := (List.range 128).any fun j => (el j).2
    let k := { k with tiles := setTileRow k.tiles slot row (lanes fun j => (el j).1) }
    if sat then k.setCtx i { x with sticky := x.sticky ||| isatBit } else k
  | .aldRow slot row w => { k with tiles := setTileRow k.tiles slot row w }
  | .zeroTile slot => { k with tiles := zeroTile k.tiles slot }
  | .keepA _ | .keepB _ => k

/-- Landing order (R90): by cycle, then by the packet issued later, then by the higher position. -/
def Landing.before (a b : Landing) : Bool :=
  decide (a.at_ < b.at_) || a.at_ == b.at_ &&
    (decide (a.issued < b.issued) || a.issued == b.issued && decide (a.pos < b.pos))

/-- Results in landing order applied one by one; `pre` is the core at the start of the cycle of `last`. -/
def Core.landAll (k pre : Core) (i : Fin 8) (last : Nat) : List Landing → Core
  | [] => k
  | l :: ls =>
    let pre' := if l.at_ = last then pre else k
    (k.apply pre' i l.at_ l.write).landAll pre' i l.at_ ls

/-- Every result of a context that has landed by its clock is applied (R87, R90). -/
def Core.landDue (k : Core) (i : Fin 8) : Core :=
  let x := k.ctxs[i]
  let due := sortBy Landing.before (x.landings.filter fun l => l.at_ ≤ x.clock)
  (k.setCtx i { x with landings := x.landings.filter fun l => !decide (l.at_ ≤ x.clock) }).landAll
    k i x.clock due

/-- Whether a policy word may be written: no reserved bit, and PREF a copy format (R306, R301). -/
def policyOk (w : DWord) : Bool :=
  w.extractLsb' 32 29 == 0#29 && w.extractLsb' 24 3 == 0#3 && w.extractLsb' 16 2 == 0#2 &&
    [3, 4, 5, 6, 7, 8, 10].contains (w.extractLsb' 28 4).toNat

/-- ROUTEPOL's write at the unit (R306): the policy of the model context named. -/
def Residency.writePolicy (u : Residency) (w : DWord) : Residency :=
  if policyOk w then
    { u with policies := u.policies.set (Fin.ofNat 8 (w.toNat / 2 ^ 61)) (w.setWidth 32) }
  else u

/-- The policy writes among results that land. -/
def Residency.landPolicies (u : Residency) : List Landing → Residency
  | [] => u
  | l :: ls =>
    match l.write with
    | .sr .routepol w => (u.writePolicy w).landPolicies ls
    | _ => u.landPolicies ls

/-- The physical address that a TLB's entries give a virtual address, with the page's entry. -/
def tlbFind (es : List TlbEntry) (va : Nat) : Option TlbEntry :=
  es.find? fun e => e.va == va / 2 ^ e.bits * 2 ^ e.bits

/-- The physical address under an entry (R404). -/
def TlbEntry.phys (e : TlbEntry) (va : Nat) : Nat := e.pa + va % 2 ^ e.bits

/-- A packet's 256 bits at a physical packet number. -/
def Mem.packet (m : Mem) (pn : Nat) : BitVec 256 := BitVec.ofNat 256 (m.num (pn * 32) 32)

/-- Whether an uncorrectable error lies among bytes (R146). -/
def State.isBad (s : State) (sp : BadSpace) (a n : Nat) : Bool :=
  s.bad.any fun b => b.1 == sp && decide (a ≤ b.2) && decide (b.2 < a + n)

/-- What is overwritten whole holds no uncorrectable error any more (R146; log 40). -/
def State.mend (s : State) (sp : BadSpace) (a n : Nat) : State :=
  { s with bad := s.bad.filter fun b => !(b.1 == sp && decide (a ≤ b.2) && decide (b.2 < a + n)) }

/-- The same for bytes at places of their own. -/
def State.mendCells (s : State) (sp : BadSpace) (cells : List (Nat × Byte)) : State :=
  { s with bad := s.bad.filter fun b => !(b.1 == sp && cells.any fun c => c.1 == b.2) }

/-- The registers or tile rows that a result overwrites whole, as the places of an uncorrectable error: their space,
the first number and how many. -/
def RegWrite.whole (c : CtxRef) : RegWrite → Option (BadSpace × Nat × Nat)
  | .s i _ => some (.regs c, i.val, 1)
  | .k i _ => some (.regs c, 32 + i.val, 1)
  | .q i _ => some (.regs c, 48 + i.val, 1)
  | .x i _ => some (.regs c, 56 + i.val, 1)
  | .v i _ on => if on = BitVec.allOnes 128 then some (.regs c, 88 + i.val, 1) else none
  | .p i _ on => if on = BitVec.allOnes 128 then some (.regs c, 120 + i.val, 1) else none
  | .a i _ => some (.regs c, 128 + i.val, 1)
  | .b i _ => some (.regs c, 144 + i.val, 1)
  | .z i _ => some (.regs c, 152 + i.val, 1)
  | .m i _ => some (.regs c, 160 + i.val, 1)
  | .sa i _ => some (.regs c, 176 + i.val, 1)
  | .sb i _ => some (.regs c, 184 + i.val, 1)
  | .g i _ => some (.regs c, 192 + i.val, 1)
  | .promRow slot row _ _ _ => some (.acc c.core, slot.val * 128 + row.val, 1)
  | .aldRow slot row _ => some (.acc c.core, slot.val * 128 + row.val, 1)
  | .zeroTile slot => some (.acc c.core, slot.val * 128, 128)
  | .unprep _ | .sr _ _ | .pend _ _ | .sticky _ | .keepA _ | .keepB _ => none

/-- The same for results that land. -/
def State.mendLanded (s : State) (r : CtxRef) (ls : List Landing) : State :=
  { s with bad := s.bad.filter fun b => !ls.any fun l => (l.write.whole r).any fun w =>
      b.1 == w.1 && decide (w.2.1 ≤ b.2) && decide (b.2 < w.2.1 + w.2.2) }

/-- The packets that a prefetch reads from a target on: those its core's TLB translates to a page that may
be fetched; a prefetch that cannot be translated or fetched raises nothing (R181). -/
def State.prefetched (s : State) (core : Fin 64) (pc : PcWord) : Nat → List (Nat × BitVec 256)
  | 0 => []
  | n + 1 =>
    let va := pc.toNat * 32
    match tlbFind ((s.core core).tlb ++ s.campTlb[campOf core]) va with
    | some e =>
      let pn := e.phys va / 32
      if e.x && !s.isBad .dram (pn * 32) 32 then
        (pn, s.dram.packet pn) :: s.prefetched core (pc + 1#43) n
      else []
    | none => []

/-- A prefetch starts for a b register (R179, R181): it takes a free stream, or the one whose prefetch
started least recently. DESIGN CHOICE: a register that owns a stream gives that one up and takes no other's (log
38). Whether the stream reads memory now or later is an open choice (log 5). -/
def State.startPrefetch (s : State) (r : CtxRef) (reg : Fin 8) (target : PcWord) : State :=
  let (c, s) := s.choose 2
  let k := s.core r.core
  let new : PStream := ⟨r.ctx, reg, target, if c = 1 then s.prefetched r.core target 8 else []⟩
  let old := k.pstreams.filter fun p => !(p.ctx == r.ctx && p.reg == reg)
  s.setCore r.core { k with pstreams := (if old.length < 4 then old else old.drop 1) ++ [new] }

/-- The prefetches of b registers among results that have landed. -/
def State.startPrefetches (s : State) (r : CtxRef) : List Landing → State
  | [] => s
  | l :: ls =>
    match l.write with
    | .b j t => (s.startPrefetch r j t).startPrefetches r ls
    | _ => s.startPrefetches r ls

/-- `n` schedule cycles of a context pass (R30): its results that have landed by then are applied, and their prefetches
start, in landing order (R90, R181). -/
def State.tick (s : State) (r : CtxRef) (n : Nat) : State :=
  let k := s.core r.core
  let x := k.ctxs[r.ctx]
  let due := sortBy Landing.before (x.landings.filter fun l => l.at_ ≤ x.clock + n)
  (({ s.setCore r.core ((k.setCtx r.ctx { x with clock := x.clock + n }).landDue r.ctx) with
    resid := s.resid.landPolicies due }).mendLanded r due).startPrefetches r due

/-- The schedule cycle by which every result in flight has landed, and every partial sum of an MMA has reached
the port (R44). -/
def Context.lastLanding (x : Context) : Nat :=
  x.streams.foldl (fun n y => max n (y.port + y.rows.length)) (x.landings.foldl (fun n l => max n l.at_) x.clock)

/-- A context drains: every result lands, and streams that no promote took are discarded (R44, R261). -/
def State.drainCtx (s : State) (r : CtxRef) : State :=
  let x := s.ctx r
  (s.tick r (x.lastLanding - x.clock)).modCtx r fun x => { x with streams := [] }

/-! ## Faults -/

/-- The cause codes of Table 1 (R389). -/
inductive Cause where
  | illegal | unprepared | nonuniform | earlyread | wawconflict | dupmismatch | stacklimit | spadrange
  | accrange | metadata | translation | protection | align | memecc | aqoverflow | dqunderflow | gcap
  | orphan | gdepth | dicesat | loopdepth | qfull | preempt | trapi | pkrange
deriving DecidableEq, Repr

def Cause.code : Cause → BitVec 8
  | .illegal => 0x01#8 | .unprepared => 0x02#8 | .nonuniform => 0x03#8 | .earlyread => 0x04#8
  | .wawconflict => 0x05#8 | .dupmismatch => 0x06#8 | .stacklimit => 0x07#8 | .spadrange => 0x08#8
  | .accrange => 0x09#8 | .metadata => 0x0A#8 | .translation => 0x0B#8 | .protection => 0x0C#8
  | .align => 0x0D#8 | .memecc => 0x0E#8 | .aqoverflow => 0x10#8 | .dqunderflow => 0x11#8
  | .gcap => 0x12#8 | .orphan => 0x13#8 | .gdepth => 0x14#8 | .dicesat => 0x15#8
  | .loopdepth => 0x16#8 | .qfull => 0x17#8 | .preempt => 0x18#8 | .trapi => 0x1A#8 | .pkrange => 0x1C#8

/-- CAUSE written whole (R390, Table 2). -/
def causeWord (src : BitVec 4) (eng : Bool) (pos : Fin 8) (detail code : BitVec 8) : DWord :=
  ((src ++ BitVec.ofBool eng ++ BitVec.ofNat 3 pos.val ++ detail ++ code : BitVec 24)).setWidth 64

/-- EPC (R391, Table 3). -/
def epcWord (pos : Fin 8) (ldepth : Nat) (pc : PcWord) : DWord :=
  BitVec.ofNat 3 pos.val ++ BitVec.ofNat 3 ldepth ++ 0#10 ++ pc ++ 0#5

/-- A packet's device virtual address (R63). -/
def pcAddr (pc : PcWord) : DWord := (pc ++ 0#5).setWidth 64

/-- A context stops with a fault of the core: the fault registers are written, and its retirement is due
(R389 to R396). `pc` is the packet EPC names. -/
def Context.stopWith (x : Context) (pos : Fin 8) (cause : Cause) (detail : BitVec 8) (pc : PcWord)
    (faddr : DWord) (now : Nat) : Context :=
  { x with cause := causeWord 0#4 false pos detail cause.code, epc := epcWord pos x.loops.length pc,
           faddr := faddr, run := .faulted, failed := some now }

/-- Taking a fault: every context of the coupled set takes it, the rest of a fused set stops, and the task's
retirement is due (R85, R396). Nothing else changes: the packet has not issued. A context that a fault has
stopped already takes no other. -/
def State.takeFault (s : State) (r : CtxRef) (pos : Fin 8) (cause : Cause) (detail : BitVec 8)
    (pc : PcWord) (faddr : DWord) : State :=
  if (s.ctx r).run = .faulted then s
  else
    let s := (s.issueSet r).foldl (fun s m => s.modCtx m fun x => x.stopWith pos cause detail pc faddr s.gptp) s
    let s := (s.fusedSet r).foldl (fun s m => s.modCtx m fun x => { x with run := .faulted }) s
    s.due (.faultRetire (s.leaderOf r))

/-- The executing operation's packet fails a check at issue (R267, R269): EPC names it. -/
def State.raiseD (s : State) (cause : Cause) (detail : BitVec 8) (faddr : DWord) : Out :=
  .next (s.takeFault s.focus.c s.focus.pos cause detail s.me.pc faddr)

/-- The same with detail 0. -/
def State.raise (s : State) (cause : Cause) (faddr : DWord) : Out := s.raiseD cause 0x00#8 faddr

/-- The executing packet cannot issue yet: the cores that issue it are held (R31, R32, R52). DEDUCED: a core of a
decoupled set, which issues on its own (R53), is held alone (log 38). -/
def State.holdFor (s : State) (h : Hold) : State :=
  (s.issueSet s.focus.c).foldl (fun s m => s.modCtx m fun x => { x with run := .held h }) s

/-! ## User-level interrupts (R400 to R403) -/

/-- UIVEC's valid bit and handler. -/
def Context.uiValid (x : Context) : Bool := x.uivec.getLsbD 0
def Context.uiHandler (x : Context) : PcWord := x.uivec.extractLsb' 1 43

/-- CONTROL's bits (R62). -/
def Context.sbchk (x : Context) : Bool := x.control.getLsbD 0
def Context.pendchk (x : Context) : Bool := x.control.getLsbD 1
def Context.dsattrap (x : Context) : Bool := x.control.getLsbD 2
def Context.uien (x : Context) : Bool := x.control.getLsbD 3

/-- s28 to s31 and g12 to g15 change places with their other bank (R401). -/
def Context.swapBanks (x : Context) : Context :=
  { x with
    s := (((x.s.set 28 x.sBank[0]).set 29 x.sBank[1]).set 30 x.sBank[2]).set 31 x.sBank[3]
    sBank := #v[x.s[28], x.s[29], x.s[30], x.s[31]]
    g := (((x.g.set 12 x.gBank[0]).set 13 x.gBank[1]).set 14 x.gBank[2]).set 15 x.gBank[3]
    gBank := #v[x.g[12], x.g[13], x.g[14], x.g[15]]
    gPending := (((x.gPending.set 12 x.gPendBank[0]).set 13 x.gPendBank[1]).set 14 x.gPendBank[2]).set 15
      x.gPendBank[3]
    gPendBank := #v[x.gPending[12], x.gPending[13], x.gPending[14], x.gPending[15]]
    gAcq := (((x.gAcq.set 12 x.gAcqBank[0]).set 13 x.gAcqBank[1]).set 14 x.gAcqBank[2]).set 15 x.gAcqBank[3]
    gAcqBank := #v[x.gAcq[12], x.gAcq[13], x.gAcq[14], x.gAcq[15]] }

/-- UISTAT (R400, Table 4). -/
def uistatWord (noneBit trap : Bool) (pend : Nat) (cookie : Word) : DWord :=
  ((BitVec.ofBool noneBit ++ BitVec.ofBool trap ++ 0#4 ++ BitVec.ofNat 5 pend ++ cookie :
    BitVec 43)).setWidth 64

/-- Entry of the handler (R401): the exposed results and CAUSE are put aside, the banks switch, UISTAT and
CAUSE are written, and the handler's first packet is next. -/
def Context.enterUi (x : Context) (noneBit trap : Bool) (cookie : Word) (pend : Nat) : Context :=
  { x.swapBanks with
    frozen := some ⟨x.pc, x.clock, x.landings, x.streams, x.cause⟩
    landings := []
    streams := []
    uiact := true
    uistat := uistatWord noneBit trap pend cookie
    cause := causeWord 0#4 false 0 0x00#8 (if trap then 0x1A#8 else 0x00#8)
    pc := x.uiHandler }

/-- Return from the handler (R403): the banks switch back, CAUSE and the interrupted point come back with
every result in flight at its own schedule cycle. The handler's own results have landed (log 16). -/
def Context.leaveUi (x : Context) : Context :=
  match x.frozen with
  | none => x
  | some f =>
    { x.swapBanks with
      frozen := none, uiact := false, cause := f.cause, pc := f.pc, clock := f.clock,
      landings := f.landings, streams := f.streams }

end Sys2Proof.Machine
end

