-- ==== Sys2Proof/Machine/Flags.lean ====
section
/-!
DEFINITION. STATUS, its sticky flags, the special registers as MFSR reads them, and the integer tests:
R61, R77, R81, R113 and R173.
-/
namespace Sys2Proof.Machine

/-- The sticky bits that floating-point flags set (R61, Table 9). -/
def Flags.sticky (f : Flags) : BitVec 10 :=
  0#6 ++ BitVec.ofBool f.nx ++ BitVec.ofBool f.uf ++ BitVec.ofBool f.ovf ++ BitVec.ofBool f.iv

/-- The other sticky bits. -/
def wawBit : BitVec 10 := 0x020#10
def dsatBit : BitVec 10 := 0x040#10
def pwrapBit : BitVec 10 := 0x080#10
def rjmisBit : BitVec 10 := 0x100#10
def syncnmBit : BitVec 10 := 0x200#10

/-- The integer tests of R77 on words of `n` bits. -/
def iccHolds {n : Nat} (cc : ICc) (a b : BitVec n) : Bool :=
  match cc with
  | .eq => a == b
  | .ne => a != b
  | .lt => a.slt b
  | .le => a.sle b
  | .gt => b.slt a
  | .ge => b.sle a
  | .ltu => a.ult b
  | .geu => b.ule a

/-- Whether a packet address lies in a level's body. -/
def Loop.inBody (l : Loop) (pc : PcWord) : Bool := (pc - l.start).ule (l.last - l.start)

/-- Inside an iteration of a nopre level (R192): such an iteration holds no loop entry and no transfer, so
its level is level 0 and its packet lies in the body. DEDUCED: a handler that interrupts such an iteration does not run
in it, so NOPRE reads 0 there (log 38). -/
def Context.inNopre (x : Context) : Bool :=
  match x.loops with
  | [] => false
  | l :: _ => l.nopre && l.inBody x.pc

/-- STATUS (R61, Table 9). -/
def Context.status (x : Context) : DWord :=
  ((BitVec.ofNat 4 x.loops.length ++ BitVec.ofBool x.uiact ++ BitVec.ofBool x.inNopre ++
    BitVec.ofNat 2 x.cls.val ++ BitVec.ofBool x.leader ++ BitVec.ofBool x.decoup ++
    BitVec.ofNat 2 x.fusew.val ++ 0#2 ++ x.sticky : BitVec 24)).setWidth 64

/-- A launch of the device. -/
def State.launch? (s : State) (n : Fin 256) : Option Launch := lookupNat s.launches n.val

/-- ENERGY (R379, Table 2). -/
def Launch.energy (l : Launch) : DWord :=
  BitVec.ofNat 32 (if l.budget = 0#32 then 0xFFFFFFFF else l.remain) ++
    BitVec.ofNat 32 (min l.used 0xFFFFFFFF)

/-- A special register as MFSR reads it (R81). -/
def State.readSr (s : State) (r : CtxRef) (sr : SReg) : DWord :=
  let x := s.ctx r
  match sr with
  | .status => x.status
  | .control => x.control.setWidth 64
  | .cause => x.cause
  | .epc => x.epc
  | .faddr => x.faddr
  | .finfo => x.finfo.setWidth 64
  | .gid => x.gid.setWidth 64
  | .syncsel => x.syncsel.setWidth 64
  | .splim => x.splim.setWidth 64
  | .uivec => ((x.uiHandler ++ 0#4 ++ BitVec.ofBool x.uiValid : BitVec 48)).setWidth 64
  | .uistat => x.uistat
  | .spbase => ((x.spbase ++ 0#12 : BitVec 21)).setWidth 64
  | .spsize => x.spsize.setWidth 64
  | .lc i => ((x.loops[i.val]?).map fun l => l.remain.setWidth 64).getD 0#64
  | .dkey => x.dkey
  | .dctrh => x.dctrh
  | .dctrl => x.dctrl
  | .taskid => (x.task.map fun t => t.task.setWidth 64).getD 0#64
  | .ctxid => BitVec.ofNat 64 r.ctx.val
  | .coreid => BitVec.ofNat 64 r.core.val
  | .cycle => BitVec.ofNat 64 s.cycle
  | .energy => ((x.task.bind fun t => s.launch? t.launch).map Launch.energy).getD 0#64
  | .routepol => BitVec.ofNat 3 x.rpsel.val ++ 0#29 ++ s.resid.policies[x.rpsel]

end Sys2Proof.Machine
end

