-- ==== Sys2Proof/Machine/Translate.lean ====
section
/-!
DEFINITION. Events to the host (R415), the L2's lines (R145), and translation of device virtual addresses: tables,
walks, TLBs, permissions and guarded regions (R404 to R407, R59, R304, R333, R383).
-/
namespace Sys2Proof.Machine

/-! ## Events (R415) -/

/-- An EVENT's payload: the word of R415, the gPTP time, the contents (log 17). -/
def eventBytes (code : Nat) (launch : Option (Fin 256)) (time : Nat) (contents : List Byte) : List Byte :=
  leBytes 4 (2 ^ 24 + code * 2 ^ 16 + (match launch with | some n => n.val | none => 2 ^ 8))
    ++ leBytes 8 time ++ contents

/-- The three kinds of traffic (R416): 0 Control, 1 Bulk, 2 Stream. A PEER's result is a PEER message; a FENCE's reply
and a bare acknowledgement go as Control (log 17). -/
def trafficKind (type : BitVec 8) (stream : Bool) : Fin 3 :=
  if stream then 2
  else match type.toNat with
    | 0x06 | 0x09 | 0x89 => 2
    | 0x83 | 0x84 => 1
    | _ => 0

/-- A datagram's header (Table 1): the acknowledgement is of every datagram below a number, if there is one. -/
def OutMsg.header (m : OutMsg) (ack : Option Word) (time : Nat) : List Byte :=
  let flags : Nat := (if m.last then 4 else 0) + (if ack.isSome then 2 else 0)
  [BitVec.ofNat 8 flags, m.type, m.minor, m.major] ++ leBytes 4 m.seq.toNat ++ leBytes 4 ((ack.getD 0#32).toNat) ++
    leBytes 2 m.payload.length ++ [0#8, 0#8] ++ leBytes 8 time

/-- A datagram of an association has left: what has been received is acknowledged by it, and its own
acknowledgement is waited for from now on (R410). -/
def Assoc.left (x : Assoc) (m : OutMsg) (now : Nat) : Assoc :=
  { x with
    rxUnacked := 0
    unacked := x.unacked.map fun u => if u.out = m then { u with sentAt := some now } else u }

/-- A datagram leaves a port (R409, R416). -/
def State.leave (s : State) (p : Fin 2) (prio : BitVec 3) (m : OutMsg) : State :=
  let ack := (s.assocs[m.assoc]).bind fun x => if x.opened then some x.rxSeq else none
  { s with
    sent := s.sent ++ [⟨p, prio, m.assoc, m.header ack s.gptp ++ m.payload⟩]
    assocs := match s.assocs[m.assoc] with
      | some x => s.assocs.set m.assoc (some (x.left m s.gptp))
      | none => s.assocs }

/-- A datagram leaves through a port, at once or when its queue's gate opens (R416). Which port is an open
choice (log 5). -/
def State.transmit (s : State) (kind : Fin 3) (m : OutMsg) : State :=
  let (n, s) := s.choose 2
  let p : Fin 2 := Fin.ofNat 2 n
  let x := s.ports[p]
  if x.gates = [] then s.leave p x.prio[kind] m
  else
    let q := x.queue[kind]
    { s with ports := s.ports.set p { x with waiting := x.waiting ++ [(q, x.prio[kind], m)] } }.due (.tsnGateTransmit p q)

/-- The fragment bytes of the largest datagram: 9,000 with its header (R409). -/
def datagramBytes : Nat := 8976

/-- A message's fragments, in byte order (R409). -/
def fragments : Nat → List Byte → List (List Byte)
  | 0, bs => [bs]
  | n + 1, bs => if bs.length ≤ datagramBytes then [bs] else bs.take datagramBytes :: fragments n (bs.drop datagramBytes)

/-- A message's datagrams on an association: in sequence from its next number on (R410). -/
def Assoc.datagrams (x : Assoc) (a : Fin 16) (type : BitVec 8) (payload : List Byte) : List OutMsg :=
  let fs := fragments payload.length payload
  fs.zipIdx.map fun f =>
    ⟨a, type, BitVec.ofNat 8 x.major, BitVec.ofNat 8 x.minor, x.txSeq + BitVec.ofNat 32 f.2, f.2 + 1 == fs.length, f.1⟩

/-- A message's datagrams are sent on an association, and stand unacknowledged (R410). -/
def State.sendOn (s : State) (x : Assoc) (kind : Fin 3) (a : Fin 16) (type : BitVec 8) (payload : List Byte) : State :=
  let ms := x.datagrams a type payload
  let s := if x.unacked.isEmpty then s.due (.retransmitTimeout a) else s
  let y := { x with
    txSeq := x.txSeq + BitVec.ofNat 32 ms.length
    unacked := x.unacked ++ ms.map fun m => ⟨m, kind, 0, none⟩ }
  ms.foldl (fun s m => s.transmit kind m) { s with assocs := s.assocs.set a (some y) }

/-- A message is sent on an association, if it is open; else it is discarded (R410). -/
def State.sendAs (s : State) (stream : Bool) (a : Fin 16) (type : BitVec 8) (payload : List Byte) : State :=
  match s.assocs[a] with
  | none => s
  | some x => if x.opened then s.sendOn x (trafficKind type stream) a type payload else s
def State.send (s : State) (a : Fin 16) (type : BitVec 8) (payload : List Byte) : State :=
  s.sendAs false a type payload

/-- An event of the module: to every open association. -/
def State.moduleEvent (s : State) (code : Nat) (contents : List Byte) : State :=
  (List.finRange 16).foldl
    (fun s a => s.send a 0x06#8 (eventBytes code none s.gptp contents)) s

/-- A sink of the watchdog (R385): a launch's timer is started again, once a task has been dispatched. The
timer holds the gPTP time of its last start. -/
def State.sink (s : State) (launch : Option (Fin 256)) : State :=
  match launch with
  | none => s
  | some n =>
    match lookupNat s.launches n.val with
    | none => s
    | some l =>
      let run := l.watchdog != 0#32 && l.started
      let s := if run && l.timer.isNone then s.due (.watchdogExpiry n) else s
      let timer := if run then some s.gptp else none
      { s with launches := insertNat n.val { l with timer := timer, lastSink := s.gptp } s.launches }

/-- An event of a launch: to the association that sent the LAUNCH; all but a hang report are sinks (R385). -/
def State.launchEvent (s : State) (n : Fin 256) (code : Nat) (contents : List Byte) : State :=
  match s.launch? n with
  | some l =>
    let s := s.send l.assoc 0x06#8 (eventBytes code (some n) s.gptp contents)
    if code = 0x06 then s else s.sink (some n)
  | none => s

/-- A BREAK stop's event names the next packet (R398; log 17). -/
def State.breakEvent (s : State) (c : CtxRef) : State :=
  let x := s.ctx c
  match x.task with
  | some t => s.launchEvent t.launch 0x08 (leBytes 4 t.task.toNat ++ leBytes 4 (CtxRef.num c) ++
      leBytes 8 (epcWord 0 x.loops.length x.pc).toNat)
  | none => s

/-! ## Tables and walks (R404, R405) -/

/-- How a walk ends (R405), or where it meets an uncorrectable error (R146). -/
inductive WalkEnd where
  | leaf (e : TlbEntry)
  | invalid
  | malformed
  | hostFault
  | ecc (pa : Nat)
deriving DecidableEq, Repr

/-- The number of offset bits of a page or of a table's span at a level. -/
def levelBits : Nat → Nat
  | 0 => 39
  | 1 => 30
  | 2 => 21
  | _ => 16

/-- The index of an address at a level (Table 6). -/
def levelIndex (level va : Nat) : Nat := bits va (levelBits level) (if level = 3 then 5 else 9)

/-- The alignment of a table at a level. -/
def tableAlign (level : Nat) : Nat := if level = 3 then 256 else 4096

/-- A table entry's ADDR, and whether its reserved bits are 0 (Table 5). -/
def entryAddr (e : Nat) : Nat := bits e 8 30 * 256
def entryClean (e : Nat) : Bool := bits e 38 26 == 0 && bits e 6 2 == 0

/-- The leaf that an entry gives for an address at a level. -/
def leafEntry (level va e : Nat) : TlbEntry :=
  ⟨va / 2 ^ levelBits level * 2 ^ levelBits level, entryAddr e, levelBits level, e.testBit 2,
    e.testBit 3, e.testBit 4⟩

/-- The end of a walk at one entry, or the next table's address. -/
def walkEntry (level va e : Nat) : WalkEnd ⊕ Nat :=
  if !e.testBit 0 then
    if !entryClean e then .inl .malformed
    else .inl (if e.testBit 5 then .hostFault else .invalid)
  else if !entryClean e then .inl .malformed
  else if e.testBit 1 then
    if level = 0 ∨ entryAddr e % 2 ^ levelBits level ≠ 0 then .inl .malformed
    else .inl (.leaf (leafEntry level va e))
  else if level = 3 ∨ entryAddr e % tableAlign (level + 1) ≠ 0 then .inl .malformed
  else .inr (entryAddr e)

/-- The levels of a walk from a table on: each entry is read at its home slice (R405). -/
def walkFrom (m : Mem) (va : Nat) : Nat → Nat → Nat → WalkEnd
  | 0, _, _ => .malformed
  | fuel + 1, level, table =>
    match walkEntry level va (m.num (table + 8 * levelIndex level va) 8) with
    | .inl r => r
    | .inr next => walkFrom m va fuel (level + 1) next

/-- What the tables give for an address; until a root is set every walk is invalid (R404). -/
def State.pageOf (s : State) (va : Nat) : WalkEnd :=
  match s.root with
  | some r => walkFrom s.dram va 4 0 r
  | none => .invalid

/-- The physical addresses of the entries that a walk reads, in order. -/
def walkReads (m : Mem) (va : Nat) : Nat → Nat → Nat → List Nat
  | 0, _, _ => []
  | fuel + 1, level, table =>
    let a := table + 8 * levelIndex level va
    match walkEntry level va (m.num a 8) with
    | .inl _ => [a]
    | .inr next => a :: walkReads m va fuel (level + 1) next

/-- The entries that a walk from the root reads. -/
def State.walkReads (s : State) (va : Nat) : List Nat :=
  match s.root with
  | some r => Machine.walkReads s.dram va 4 0 r
  | none => []

/-- A walk: what the tables give, or the first entry read that holds an uncorrectable error (R146). -/
def State.walk (s : State) (va : Nat) : WalkEnd :=
  match (s.walkReads va).find? fun a => s.isBad .dram a 8 with
  | some a => .ecc a
  | none => s.pageOf va

/-- Bytes in a table at a level. -/
def tableSize (level : Nat) : Nat := if level = 3 then 256 else 4096

/-- The tables that the entries of a table name, by the listed bytes that hold a V bit. -/
def nextTables (m : Mem) (level table : Nat) : List (Nat × Nat) :=
  m.cells.filterMap fun c =>
    if table ≤ c.1 ∧ c.1 < table + tableSize level ∧ (c.1 - table) % 8 = 0 ∧ c.2.getLsbD 0 ∧
        !c.2.getLsbD 1 ∧ level < 3 then
      some (level + 1, entryAddr (m.num c.1 8))
    else none

/-- Whether bytes lie in a table reached from tables at hand. -/
def inTablesFrom (m : Mem) (pa n : Nat) : Nat → List (Nat × Nat) → Bool
  | 0, _ => false
  | fuel + 1, ts =>
    ts.any (fun t => decide (pa < t.2 + tableSize t.1) && decide (t.2 < pa + n)) ||
      (!ts.isEmpty && inTablesFrom m pa n fuel (ts.flatMap fun t => nextTables m t.1 t.2))

/-- Whether bytes lie in a translation table (R404). -/
def State.inTables (s : State) (pa n : Nat) : Bool :=
  match s.root with
  | some r => inTablesFrom s.dram pa n 4 [(0, r)]
  | none => false

/-! ## Permissions -/

/-- Whether a leaf allows an access (R406, Table 7). -/
def TlbEntry.allows (e : TlbEntry) : Access → Bool
  | .read => e.r
  | .write => e.w
  | .readWrite => e.r && e.w
  | .fetch => e.x

/-- Two spans of bytes share one. -/
def overlap (a n b m : Nat) : Bool := decide (a < b + m) && decide (b < a + n)

/-! ## Home slices (R145) -/

/-- The product-key regions (R332): base and bytes of the keys, the gradients and the values. -/
def PkBind.regions (p : PkBind) : List (Nat × Nat) :=
  [(p.key, 0x80000), (p.grad, 0x100000), (p.val, p.n * p.d * (if p.f32 then 4 else 2))]

/-- A line's home slice: the exclusive or of five groups of address bits. -/
def homeSlice (pa : Nat) : Nat :=
  bits pa 8 6 ^^^ bits pa 14 6 ^^^ bits pa 20 6 ^^^ bits pa 26 6 ^^^ bits pa 32 6

/-- A line's set. -/
def homeSet (pa : Nat) : Nat := bits pa 14 8

/-- The set of a slice in which a line lies, as one number. -/
def l2Key (pa : Nat) : Nat := homeSlice pa * 256 + homeSet pa

/-- Two addresses of one 256-byte line. -/
def sameLine (a b : Nat) : Bool := a / 256 == b / 256

/-- The tagged line versions in a line's set, by gambit and line (R348). -/
def State.taggedLines (s : State) (key : Nat) : List (BitVec 8 × Nat) :=
  (s.versions.filterMap fun v =>
    if l2Key (v.sector * 32) = key then some (v.gid, v.sector * 32 / 256) else none).eraseDups

/-- Physical bytes of the pages that map the product-key regions, which no cache holds (R145, R333). -/
def State.uncached (s : State) (pa n : Nat) : Bool :=
  match s.pk with
  | none => false
  | some p => p.regions.any fun r =>
    (List.range (r.2 / 65536 + 2)).any fun i =>
      let from_ := max r.1 ((r.1 / 65536 + i) * 65536)
      let to_ := min (r.1 + r.2) ((r.1 / 65536 + i + 1) * 65536)
      decide (from_ < to_) && match s.pageOf from_ with
        | .leaf e => overlap (e.phys from_) (to_ - from_) pa n
        | _ => false

/-- An ordinary line is used at its slice (R145): it becomes the set's most recent; lines beyond the
ways that tagged versions leave are evicted, the least recent first. DEDUCED: the gang pipes, which R59 and R145 hold
outside the ways of tagged lines and which are never chosen, take no way from ordinary lines either (log 12). A line of
the product-key regions is reached around the L2. -/
def State.useLine (s : State) (pa : Nat) : State :=
  if s.uncached (pa / 256 * 256) 256 then s
  else
    let key := l2Key pa
    let lines := (lookupNat s.l2 key).getD []
    let lines := (pa / 256) :: lines.filter (· != pa / 256)
    { s with l2 := insertNat key (lines.take (16 - (s.taggedLines key).length)) s.l2 }

/-- The lines of a span are used (R145). -/
def State.useSpan (s : State) (pa n : Nat) : State :=
  if n = 0 then s
  else (List.range ((pa + n - 1) / 256 - pa / 256 + 1)).foldl
    (fun s i => s.useLine ((pa / 256 + i) * 256)) s

/-- Lines of a span leave every L1 that holds them exclusive, but for one core's (R144, R155). -/
def State.recall (s : State) (keep : Option (Fin 64)) (pa n : Nat) : State :=
  (List.finRange 64).foldl (fun s c =>
    if some c = keep ∨ (s.core c).excl = [] then s
    else s.modCore c fun k =>
      { k with excl := k.excl.filter fun l => !overlap (l * 256) 256 pa n }) s

/-- The entries that a walk reads at their home slices, up to one with an uncorrectable error, are used there (R145,
R405). -/
def State.walked (s : State) (va : Nat) : State :=
  let all := s.walkReads va
  let n := (all.findIdx fun a => s.isBad .dram a 8) + 1
  (all.take n).foldl (fun s a => (s.recall none a 8).useLine a) s

/-! ## Guarded regions -/

/-- Bytes of a pipe's push or pop address (R59); the pipes of a launch that waits have none yet. -/
def State.inPipe (s : State) (va n : Nat) : Bool :=
  s.launches.any fun l => l.2.state != .queued && l.2.pipes.any fun p =>
    overlap va n p.push.toNat 512 || overlap va n p.pop.toNat 512

/-- Bytes of the residency workspace or expert region (R304), or of the save pool (R383). -/
def State.inUnitArea (s : State) (va n : Nat) : Bool :=
  overlap va n s.resid.wsBase s.resid.wsSize || overlap va n s.resid.rgBase s.resid.rgSize ||
    overlap va n s.poolBase s.poolSize

/-- Bytes of the product-key regions. -/
def State.inPk (s : State) (va n : Nat) : Bool :=
  match s.pk with
  | some p => p.regions.any fun r => overlap va n r.1 r.2
  | none => false

/-- What touches device memory, for the guards of PROTECTION detail 0x02 (R390). -/
inductive Toucher where
  | load | store | atomic | engRead | engWrite | engReduce
deriving DecidableEq, Repr

/-- An access that a guard forbids (R59, R304, R333, R383, R404). -/
def State.guardsAgainst (s : State) (t : Toucher) (va pa n : Nat) : Bool :=
  s.inPipe va n ||
    match t with
    | .load | .engRead => false
    | .store | .engWrite => s.inUnitArea va n || s.inTables pa n
    | .atomic | .engReduce => s.inUnitArea va n || s.inTables pa n || s.inPk va n

/-! ## TLBs (R407) -/

/-- A translation kept in a TLB of a given size; which entry a full TLB drops is an open choice (log 5). -/
def tlbFill (es : List TlbEntry) (size drop : Nat) (e : TlbEntry) : List TlbEntry :=
  let es := es.filter fun x => !(x.va == e.va && x.bits == e.bits)
  (if es.length < size then es else es.eraseIdx (drop % size)) ++ [e]

def State.fillCoreTlb (s : State) (c : Fin 64) (e : TlbEntry) : State :=
  let (n, s) := s.choose 64
  s.modCore c fun k => { k with tlb := tlbFill k.tlb 64 n e }

def State.fillCampTlb (s : State) (g : Fin 8) (e : TlbEntry) : State :=
  let (n, s) := s.choose 2048
  { s with campTlb := s.campTlb.set g (tlbFill s.campTlb[g] 2048 n e) }

/-- The translation that a core's TLB or its camp's holds. -/
def State.tlbLookup (s : State) (c : Fin 64) (va : Nat) : Option TlbEntry :=
  match tlbFind (s.core c).tlb va with
  | some e => some e
  | none => tlbFind s.campTlb[campOf c] va

/-- A walk begins for a held packet (R394, R405). -/
def State.startWalk (s : State) (who : WalkFor) (pos : Fin 8) (va : Nat) (access : Access)
    (launch : Option (Fin 256)) : Nat × State :=
  let (id, s) := s.newId
  (id, { s with walks := s.walks ++ [⟨id, who, pos, va, access, launch, none⟩] })

/-- The executing packet's access at a virtual address: translated and its permission checked, then the
guards; a miss in both TLBs holds the core for a walk (R394, R405, R406). `k` gets the physical address. -/
def State.withPage (s : State) (va n : Nat) (access : Access) (t : Toucher) (k : Nat → Out) : Out :=
  if s.inPipe va n then s.raiseD .protection 0x02#8 (BitVec.ofNat 64 va)
  else match s.tlbLookup s.focus.c.core va with
  | some e =>
    if !e.allows access then s.raiseD .protection 0x01#8 (BitVec.ofNat 64 va)
    else if s.guardsAgainst t va (e.phys va) n then
      s.raiseD .protection 0x02#8 (BitVec.ofNat 64 va)
    else k (e.phys va)
  | none =>
    let (id, s) := s.startWalk (.packet s.focus.c) s.focus.pos va access (s.me.task.map (·.launch))
    .next ((s.holdFor (.walk id)).due (.walkComplete id))

/-- The result of a translation by an engine or a unit, which walks on its own (R407). -/
inductive Trans where
  | ok (pa : Nat)
  | bad (code detail : BitVec 8)
  | host
  /-- An entry with an uncorrectable error, by its physical address (R146; log 40). -/
  | ecc (pa : Nat)
deriving DecidableEq, Repr

/-- One address under an entry. -/
def TlbEntry.trans (e : TlbEntry) (va : Nat) (access : Access) : Trans :=
  if e.allows access then .ok (e.phys va) else .bad 0x0C#8 0x01#8

/-- One address through a walk; the leaf walked is given for a TLB. -/
def State.transWalk (s : State) (va : Nat) (access : Access) : Trans × Option TlbEntry :=
  match s.walk va with
  | .leaf e => (e.trans va access, some e)
  | .invalid => (.bad 0x0B#8 0x01#8, none)
  | .malformed => (.bad 0x0B#8 0x02#8, none)
  | .hostFault => (.host, none)
  | .ecc pa => (.ecc pa, none)

/-- An engine's translation through its camp's TLB, which keeps what was walked (R407). -/
def State.transEngine (s : State) (g : Fin 8) (va : Nat) (access : Access) : Trans × State :=
  match tlbFind s.campTlb[g] va with
  | some e => (e.trans va access, s)
  | none =>
    match s.transWalk va access with
    | (r, some e) => (r, (s.walked va).fillCampTlb g e)
    | (r, none) => (r, s.walked va)

/-- A unit's translation, through a walker (R407). -/
def State.transUnit (s : State) (va : Nat) (access : Access) : Trans × State := ((s.transWalk va access).1, s.walked va)

/-- The physical bytes' addresses of a span, page by page of 64 KiB; the first failure stops it, with its
virtual address. `pages` bounds the pages. -/
def State.transSpan (s : State) (g : Option (Fin 8)) (access : Access) (va : Nat) :
    Nat → Nat → List (Nat × Nat) → (Trans ⊕ List (Nat × Nat)) × Nat × State
  | 0, _, acc => (.inr acc, va, s)
  | pages + 1, n, acc =>
    if n = 0 then (.inr acc, va, s)
    else
      let len := min n (65536 - va % 65536)
      let (r, s) := match g with
        | some g => s.transEngine g va access
        | none => s.transUnit va access
      match r with
      | .ok pa => s.transSpan g access (va + len) pages (n - len) (acc ++ [(pa, len)])
      | r => (.inl r, va, s)

/-! ## The events of a walk -/

/-- PAGEFAULT (R405, R415): the identifier, the address and the access kind (log 17). -/
def accessCode : Access → Nat
  | .read => 0
  | .write => 1
  | .readWrite => 2
  | .fetch => 3

/-- The host is told of a page fault, and the walk waits for its answer. -/
def State.pageFault (s : State) (w : Walk) : State :=
  let id := s.pfNext
  let s := { s with
    pfNext := s.pfNext + 1#32
    walks := s.walks.filter (fun x : Walk => x.id != w.id) ++ [{ w with fault := some id }] }
  let bytes := leBytes 4 id.toNat ++ leBytes 8 w.va ++ leBytes 4 (accessCode w.access)
  match w.launch with
  | some n => s.launchEvent n 0x09 bytes
  | none => s.moduleEvent 0x09 bytes

/-- A walk without a waiter any more. -/
def State.dropWalk (s : State) (id : Nat) : State :=
  { s with walks := s.walks.filter fun x => x.id != id }

/-- The packet whose walk failed takes TRANSLATION (R405), or MEMECC with the address of the entry read (R146). -/
def State.walkFails (s : State) (w : Walk) (c : CtxRef) (cause : Cause) (detail : BitVec 8) (faddr : Nat) : State :=
  (s.dropWalk w.id).takeFault c w.pos cause detail (s.ctx c).pc (BitVec.ofNat 64 faddr)

/-- WALK_COMPLETE (R405) of a held packet's walk. -/
def execWalkComplete (id : Nat) (s : State) : Out :=
  match s.walks.find? (fun w => w.id == id && w.fault.isNone) with
  | none => .next s
  | some w =>
    match w.who with
    | .engine _ | .unit _ => .next (s.dropWalk id)
    | .packet c =>
      let t := s.walked w.va
      match s.walk w.va with
      | .leaf e =>
        .next ((((t.fillCampTlb (campOf c.core) e).fillCoreTlb c.core e).dropWalk id).due (.shadowReturn c))
      | .invalid => .next (t.walkFails w c .translation 0x01#8 w.va)
      | .malformed => .next (t.walkFails w c .translation 0x02#8 w.va)
      | .hostFault => .next (t.pageFault w)
      | .ecc pa => .next (t.walkFails w c .memecc 0x00#8 pa)

end Sys2Proof.Machine
end

