-- ==== Sys2Proof/Machine/Branch.lean ====
section
/-!
DEFINITION. The B slot (P4): prepared branches, skips and hardware loops, R179 to R193 of
spec/11_scalar_branch_instructions.md. In a coupled fused set the leader executes these operations (R52).
-/
namespace Sys2Proof.Machine

/-! ## Prepared registers (R179, R180) -/

def execPrep (b : Fin 8) (off : BitVec 17) (s : State) : Out :=
  .next (s.land 1 (.b b (s.me.pc + off.signExtend 43)))
def execPrepk (b : Fin 8) (k : Fin 16) (s : State) : Out :=
  .next (s.land 1 (.b b (s.me.k[k].extractLsb' 5 43)))

/-- UNPREP: the bit clears with latency 1 and the register's stream is freed. -/
def execUnprep (b : Fin 8) (s : State) : Out :=
  .next ((s.land 1 (.unprep b)).modCore s.focus.c.core fun k =>
    { k with pstreams := k.pstreams.filter fun p => !(p.ctx == s.focus.c.ctx && p.reg == b) })

/-! ## Transfers (R182 to R184) -/

/-- The bound on fetch-wait cycles that the model takes; the spec gives none (log 5). -/
def fetchWaitBound : Nat := 65536

/-- The packet transfers to a target; without the conditions of R183 it may spend fetch-wait cycles. -/
def State.transferTo (s : State) (t : PcWord) (ready : Bool) : State :=
  if ready then { s with focus := { s.focus with transfer := some t } }
  else
    let (n, s) := s.choose fetchWaitBound
    { s with focus := { s.focus with transfer := some t, wait := n } }

/-- A packet that the instruction cache or a prefetch stream holds, by its physical number. -/
def Core.cached (k : Core) (pn : Nat) : Option (BitVec 256) :=
  match lookupNat k.icache pn with
  | some p => some p
  | none => k.pstreams.findSome? fun st => lookupNat st.packets pn

/-- Whether a packet is at hand on a core: a sequential fetch of it has no wait. -/
def State.packetAtHand (s : State) (c : Fin 64) (pc : PcWord) : Bool :=
  let va := pc.toNat * 32
  match s.tlbLookup c va with
  | none => false
  | some e => ((s.core c).cached (e.phys va / 32)).isSome

/-- Whether a b register of the executing context owns a prefetch stream of its core. -/
def State.hasStream (s : State) (b : Fin 8) : Bool :=
  s.mine.pstreams.any fun p => p.ctx == s.focus.c.ctx && p.reg == b

/-- Whether a transfer through a register has no fetch wait (R183): it is seen since 16 cycles, and its stream is
still its own. A register copied from another core's at DECOUPLE has no stream on its core (log 38). -/
def State.readyTarget (s : State) (b : Fin 8) : Bool :=
  match s.me.b[b].since with
  | some t => decide (t + 16 ≤ s.me.clock) && s.hasStream b
  | none => false

/-- A transfer names a b register: one that an IPURGE has left prepared without a stream starts its prefetch again
(R185). -/
def State.useB (s : State) (b : Fin 8) : State :=
  let r := s.me.b[b]
  if r.prepared && r.since.isNone && !s.hasStream b then s.startPrefetch s.focus.c b r.target else s

/-- A transfer through a b register if `take`; the prepared check comes first (R182). -/
def State.transferIf (s : State) (b : Fin 8) (take : Bool) : Out :=
  let r := s.me.b[b]
  if !r.prepared then s.raise .unprepared (pcAddr s.me.pc)
  else if take then .next ((s.useB b).transferTo r.target (s.readyTarget b))
  else .next (s.useB b)

def execJmp (b : Fin 8) (s : State) : Out := s.transferIf b true
def execBr (q b : Fin 8) (s : State) : Out := s.transferIf b s.me.q[q]
def execBrn (q b : Fin 8) (s : State) : Out := s.transferIf b (!s.me.q[q])

/-- CALL: b7 takes the return address; the transfer goes to the old value of the register named. -/
def execCall (b : Fin 8) (s : State) : Out :=
  if !s.me.b[b].prepared then s.raise .unprepared (pcAddr s.me.pc)
  else
    let r := s.me.b[b]
    .next (((s.useB b).land 1 (.b 7 (s.me.pc + 1#43))).transferTo r.target (s.readyTarget b))

def execRet (s : State) : Out := s.transferIf 7 true

/-- BRV's predicates: p of every core of the set that issues (R184). -/
def State.uniform (s : State) (p : Fin 8) : Option Bool :=
  let ps := (s.issueSet s.focus.c).map fun m => (s.ctx m).p[p]
  if ps.all (· == BitVec.allOnes 128) then some true
  else if ps.all (· == 0#128) then some false
  else none

def execBrv (p b : Fin 8) (z : Bool) (s : State) : Out :=
  if !s.me.b[b].prepared then s.raise .unprepared (pcAddr s.me.pc)
  else match s.uniform p with
    | none => s.raise .nonuniform (pcAddr s.me.pc)
    | some u => s.transferIf b (u != z)

/-! ## IPURGE and skips (R185 to R187) -/

/-- A core loses its instruction cache and its prefetch streams; no b register has its prefetch now. -/
def Core.purge (k : Core) : Core :=
  { k with
    icache := [], pstreams := []
    ctxs := k.ctxs.map fun x => { x with b := x.b.map fun r => { r with since := none } } }

def execIpurge (s : State) : Out :=
  .next ((s.issueSet s.focus.c).foldl (fun s m => s.modCore m.core Core.purge) s)

def execZset (z : Fin 8) (k : Fin 16) (s : State) : Out :=
  .next (s.land 1 (.z z (s.me.k[k].setWidth 24)))

/-- SKIPZ: a skip of up to 16 packets has no fetch wait. -/
def execSkipz (z : Fin 8) (nz : Bool) (off : BitVec 15) (s : State) : Out :=
  if (s.me.z[z] == 0#24) != nz then
    .next (s.transferTo (s.me.pc + 1#43 + off.setWidth 43) (decide (off.toNat ≤ 16)))
  else .next s

/-! ## Loops (R188 to R190) -/

/-- The greatest loop count. -/
def loopMax : Nat := 16777215

/-- Loop entry (R189): the next packet is the one after the loop instruction, or the one after the body; where it
misses the instruction cache the core may spend fetch-wait cycles (R183). -/
def State.enterLoop (s : State) (len : BitVec 12) (nopre : Bool) (count : Nat) : Out :=
  let x := s.me
  let p := x.pc
  let l := len.setWidth 43 + 1#43
  let go (s : State) (t : PcWord) : Out := .next (s.transferTo t (s.packetAtHand s.focus.c.core t))
  if x.loops.length = 6 then s.raise .loopdepth 6#64
  else if count = 0 then go s (p + 1#43 + l)
  else
    go (s.setMe { x with loops := ⟨p + 1#43, p + l, BitVec.ofNat 24 (count - 1), none, nopre⟩ :: x.loops }) (p + 1#43)

def execLoopi (len : BitVec 12) (nopre : Bool) (count : BitVec 9) (s : State) : Out :=
  s.enterLoop len nopre count.toNat
def execLoopk (len : BitVec 12) (nopre : Bool) (k : Fin 16) (s : State) : Out :=
  s.enterLoop len nopre (min s.me.k[k].toNat loopMax)

/-- A named level must be on the stack (R190). -/
def State.withLevel (s : State) (lev : Fin 8) (k : Out) : Out :=
  if s.me.loops.length ≤ lev.val then s.raise .loopdepth (BitVec.ofNat 64 lev.val) else k

def execLset (lev : Fin 8) (k : Fin 16) (s : State) : Out :=
  s.withLevel lev (.next (s.land 1 (.pend lev (BitVec.ofNat 24 (min s.me.k[k].toNat loopMax)))))

def execLbrk (lev : Fin 8) (now : Bool) (s : State) : Out :=
  s.withLevel lev <|
    if now then .next (s.setMe { s.me with loops := s.me.loops.drop (lev.val + 1) })
    else .next (s.land 1 (.pend lev 0#24))

/-- The boundaries at a packet (R189): level 0 is tested, and the new level 0 after a pop. The stack
afterwards, and the next packet. -/
def loopBoundary (pc : PcWord) : List Loop → List Loop × PcWord
  | [] => ([], pc + 1#43)
  | l :: ls =>
    if l.last = pc then
      let n := l.pending.getD l.remain
      if n = 0#24 then
        let (rest, next) := loopBoundary pc ls
        (rest, next)
      else ({ l with remain := n - 1#24, pending := none } :: ls, l.start)
    else (l :: ls, pc + 1#43)

end Sys2Proof.Machine
end

