-- ==== Sys2Proof/Decode.lean ====
section
/-!
DEFINITION. Decoding of one slot (R66 to R86 of spec/05_packets_encoding.md, the encoding parts of
the instruction chapters), total on every 32-bit word and rejecting with the detail of Table 18;
then the encoder; then the decoding of a row of the opcode table. Packet-wide checks and the checks
that need the state are in Machine/Step.lean.
-/
namespace Sys2Proof

/-- Bits `[lo+n-1:lo]` of a slot's word as a number. -/
def fld (w : Word) (lo n : Nat) : Nat := w.toNat / 2 ^ lo % 2 ^ n

/-- A slot position, by the name of its engine (R64, Table 1). -/
inductive Pos where
  | S | X | V | L | B | M | C | Q
deriving DecidableEq, Repr

/-- P0 to P7 (R64). -/
def Pos.num : Pos → Fin 8
  | .S => 0 | .X => 1 | .V => 2 | .L => 3 | .B => 4 | .M => 5 | .C => 6 | .Q => 7

/-- What the bundle's header says of one slot (R67): its GRANT bit, and its EXT byte if the bundle
has a header. -/
structure Hdr where
  grant : Bool
  ext   : Option (BitVec 8)
deriving DecidableEq, Repr

/-- A slot of a bundle without a header. -/
def Hdr.none : Hdr := ⟨false, .none⟩

/-- An EXT byte that is there and not zero (R68). -/
def Hdr.extSet (h : Hdr) : Bool :=
  match h.ext with
  | .none => false
  | some e => e != 0#8

/-- The immediate of F1I after R68, as 20 bits. -/
def Hdr.imm20 (h : Hdr) (n : Nat) : BitVec 20 :=
  match h.ext with
  | .none => (BitVec.ofNat 12 n).signExtend 20
  | some e => e ++ BitVec.ofNat 12 n

/-- The immediate of F1W after R68, as 29 bits. -/
def Hdr.imm29 (h : Hdr) (n : Nat) : BitVec 29 :=
  match h.ext with
  | .none => (BitVec.ofNat 21 n).signExtend 29
  | some e => e ++ BitVec.ofNat 21 n

/-- The pattern of SCLI (R257): bits [31:3] of what sb receives. -/
def Hdr.pat29 (h : Hdr) (n : Nat) : BitVec 29 :=
  match h.ext with
  | .none => BitVec.ofNat 21 n ++ 0#8
  | some e => e ++ BitVec.ofNat 21 n

/-- The first check that fails gives the detail; else the instruction (R84). -/
def checks : List (Bool × BitVec 8) → Instr → Except (BitVec 8) Instr
  | [], i => .ok i
  | (bad, d) :: cs, i => if bad then .error d else checks cs i

/-- What a slot's opcode names: the operation that its fields give, and the slot's checks in the order of Table 18. -/
abbrev Row := List (Bool × BitVec 8) × Instr

def row (cs : List (Bool × BitVec 8)) (i : Instr) : Except (BitVec 8) Row := .ok (cs, i)

/-- A register number of a file of `n` registers. -/
def reg (n : Nat) [NeZero n] (x : Nat) : Fin n := Fin.ofNat n x

/-- The a field of a slot of positions 1 to 3 (R69). -/
def rk (n : Nat) [NeZero n] (h : Hdr) (x : Nat) : RK n :=
  if h.grant then .k (reg 16 x) else .r (reg n x)

/-- The a field names no register: outside its file, or bit 4 set under GRANT (R69, R74). -/
def badRk (n : Nat) (h : Hdr) (x : Nat) : Bool := if h.grant then 16 ≤ x else n ≤ x

/-- The a field of an S operation in F0R under KA (R166). -/
def sk (ka : Bool) (x : Nat) : RK 32 := if ka then .k (reg 16 x) else .r (reg 32 x)

/-- The two sources of an S operation under KA and KB (R166). -/
def sargs (ka kb : Bool) (a b : Nat) : SArgs :=
  if ka then .ks (reg 16 a) (reg 32 b) else if kb then .sk (reg 32 a) (reg 16 b)
  else .ss (reg 32 a) (reg 32 b)

/-- Guard codes (R75, Table 6); code 8 is refused beforehand. -/
def guardOf (g : Nat) : Guard :=
  if g = 0 then .all else if g < 8 then .pos (Fin.ofNat 7 (g - 1)) else .neg (Fin.ofNat 7 (g - 9))

/-- Condition codes (R77). -/
def iccOf : Nat → ICc
  | 0 => .eq | 1 => .ne | 2 => .lt | 3 => .le | 4 => .gt | 5 => .ge | 6 => .ltu | _ => .geu

/-- Condition codes of floating-point tests (R77). -/
def fccOf : Nat → FCc
  | 0 => .eq | 1 => .ne | 2 => .lt | 3 => .le | 4 => .gt | 5 => .ge | 6 => .un | _ => .ord

/-- Format codes (R103, Table 1); code 15 is refused beforehand. -/
def fmtOf : Nat → Fmt
  | 0 => .bf16 | 1 => .fp16 | 2 => .tf32 | 3 => .e4m3 | 4 => .e5m2 | 5 => .e3m2 | 6 => .e2m3
  | 7 => .e2m1 | 8 => .int8 | 9 => .uint8 | 10 => .int4 | 11 => .uint4 | 12 => .fp32
  | 13 => .int32 | _ => .e8m0

/-- Rounding modes (R108, Table 3). -/
def rmOf : Nat → RM
  | 0 => .rne | 1 => .rz | 2 => .rd | _ => .ru

/-- Rounding modes with code 4, stochastic. -/
def rmodeOf (n : Nat) : RMode := if n = 4 then .sr else .det (rmOf n)

/-- The special registers that are assigned (R81, Table 9). -/
def sregOf : Nat → Option SReg
  | 0x000 => some .status | 0x001 => some .control | 0x002 => some .cause | 0x003 => some .epc
  | 0x004 => some .faddr | 0x005 => some .finfo | 0x008 => some .gid | 0x009 => some .syncsel
  | 0x00A => some .splim | 0x00B => some .uivec | 0x00C => some .uistat | 0x00D => some .spbase
  | 0x00E => some .spsize | 0x010 => some (.lc 0) | 0x011 => some (.lc 1) | 0x012 => some (.lc 2)
  | 0x013 => some (.lc 3) | 0x014 => some (.lc 4) | 0x015 => some (.lc 5) | 0x018 => some .dkey
  | 0x019 => some .dctrh | 0x01A => some .dctrl | 0x020 => some .taskid | 0x021 => some .ctxid
  | 0x022 => some .coreid | 0x023 => some .cycle | 0x024 => some .energy
  | 0x028 => some .routepol | _ => none

/-- The registers MTSR may name (R81, Table 9). -/
def SReg.writable : SReg → Bool
  | .status | .control | .finfo | .syncsel | .splim | .uivec | .uistat | .dkey | .dctrh | .dctrl
  | .routepol => true
  | _ => false

/-- The number of registers of a file that CHK compares (R80, R176). -/
def ChkFile.size : ChkFile → Nat
  | .s | .x | .v => 32
  | .p => 8
  | .a | .m | .g => 16

/-- CHK's file codes (R176); codes above 6 are refused beforehand. -/
def chkOf : Nat → ChkFile
  | 0 => .s | 1 => .x | 2 => .v | 3 => .p | 4 => .a | 5 => .m | _ => .g

def mulHalfOf : Nat → MulHalf
  | 0 => .lo | 1 => .hs | _ => .hu

def sgnOf : Nat → SgnMode
  | 0 => .copy | 1 => .neg | _ => .xor

def psetOf : Nat → PGroup
  | 0 => .all | 1 => .lo | _ => .hi

def pcntOf : Nat → PcntMode
  | 0 => .count | 1 => .first | _ => .last

def c48Of : Nat → C48Mode
  | 0 => .mask | 1 => .zero | _ => .pack

/-- Scope codes (Table 4 of spec/09_memory.md). -/
def scopeOf : Nat → Scope
  | 0 => .ctx | 1 => .core | 2 => .camp | 3 => .dev | _ => .sys

def atTOf : Nat → AtT
  | 0 => .s | 1 => .u | _ => .f

def bit (n k : Nat) : Bool := n / 2 ^ k % 2 == 1

def fmtIn (cs : List Nat) (c : Nat) : Bool := cs.contains c

/-- The codes of VQNT, and of VDQNT without MX (R228, R229). -/
def vqntCodes : List Nat := [0, 1, 3, 4, 5, 6, 7, 8, 9, 10, 11]

/-- PUT's operands (R175). -/
def putOf (file : Nat) (bc ka kb : Bool) (d a b : Nat) : PutArgs :=
  match file with
  | 0 => .x (reg 32 d) (sk ka a)
  | 1 => .a (reg 16 d) (sk ka a)
  | 2 => .g (reg 16 d) (sk ka a)
  | 3 => if bc then .vbc (reg 32 d) (sk ka a) else .v (reg 32 d) (sargs ka kb a b)
  | 4 => .m (reg 16 d) (sk ka a)
  | 5 => .sb (reg 8 d) (sk ka a)
  | _ => .p (reg 8 d) (sargs ka kb a b)

/-- GET's operands (R175). -/
def getOf (file : Nat) (kb : Bool) (a b : Nat) : GetArgs :=
  match file with
  | 0 => .x (reg 32 a)
  | 1 => .a (reg 16 a)
  | 2 => .g (reg 16 a)
  | 3 => .v (reg 32 a) (sk kb b)
  | 4 => .m (reg 16 a)
  | 5 => .sb (reg 8 a)
  | _ => .p (reg 8 a) (sk kb b)

/-- The size of a file by PUT and GET's code (R175, Table 2). -/
def moveFileSize : Nat → Nat
  | 0 => 32 | 3 => 32 | 5 => 8 | 6 => 8 | _ => 16

/-- The S slot (P0): the operation in bits [27:0] (R72, R166 to R178). -/
def rowS (w : Word) : Except (BitVec 8) Row :=
  let op := fld w 22 6
  let d := fld w 17 5
  let a := fld w 12 5
  let b := fld w 7 5
  let fn := fld w 0 7
  let imm := fld w 0 12
  let ka := bit fn 0
  let kb := bit fn 1
  let two (mk : Fin 32 → SArgs → Instr) : Except (BitVec 8) Row :=
    row [(ka && kb, 0x11#8), (fn / 4 != 0, 0x12#8), (ka && 16 ≤ a || kb && 16 ≤ b, 0x13#8)]
      (mk (reg 32 d) (sargs ka kb a b))
  let one (mk : Fin 32 → RK 32 → Instr) : Except (BitVec 8) Row :=
    row [(kb, 0x11#8), (fn / 4 != 0 || b != 0, 0x12#8), (ka && 16 ≤ a, 0x13#8)]
      (mk (reg 32 d) (sk ka a))
  let immOp (mk : Fin 32 → Fin 32 → BitVec 12 → Instr) : Except (BitVec 8) Row :=
    row [] (mk (reg 32 d) (reg 32 a) (BitVec.ofNat 12 imm))
  let shOp (mk : Fin 32 → Fin 32 → BitVec 6 → Instr) : Except (BitVec 8) Row :=
    row [(imm / 64 != 0, 0x12#8)] (mk (reg 32 d) (reg 32 a) (BitVec.ofNat 6 imm))
  match op with
  | 0x00 => if fld w 0 28 = 0 then row [] .nopSlot0 else .error 0x12#8
  | 0x01 => two .add
  | 0x02 => two .sub
  | 0x03 => two .mul
  | 0x04 => two .mulhs
  | 0x05 => two .mulhu
  | 0x06 => two .and
  | 0x07 => two .or
  | 0x08 => two .xor
  | 0x09 => two .andn
  | 0x0A => two .shl
  | 0x0B => two .shr
  | 0x0C => two .sar
  | 0x0D => two .min
  | 0x0E => two .max
  | 0x0F => two .minu
  | 0x10 => two .maxu
  | 0x11 => immOp .addi
  | 0x12 => immOp .andi
  | 0x13 => immOp .ori
  | 0x14 => immOp .xori
  | 0x15 => shOp .shli
  | 0x16 => shOp .shri
  | 0x17 => shOp .sari
  | 0x18 => row [] (.li (reg 32 d) (BitVec.ofNat 17 (fld w 0 17)))
  | 0x19 => row [] (.lis (reg 32 d) (BitVec.ofNat 17 (fld w 0 17)))
  | 0x1A => row [(ka && kb, 0x11#8), (fn / 4 % 4 != 0, 0x12#8),
      (8 ≤ d || ka && 16 ≤ a || kb && 16 ≤ b, 0x13#8)]
      (.cmp (iccOf (fn / 16)) (reg 8 d) (sargs ka kb a b))
  | 0x1B => row [] (.cmpi (iccOf (fld w 16 3)) (reg 8 (fld w 19 3)) (reg 32 (fld w 11 5))
      (BitVec.ofNat 11 (fld w 0 11)))
  | 0x1C => row [(ka && kb, 0x11#8), (fn / 4 % 4 != 0, 0x12#8),
      (ka && 16 ≤ a || kb && 16 ≤ b, 0x13#8)]
      (.sel (reg 32 d) (reg 8 (fn / 16)) (sargs ka kb a b))
  | 0x1D => one .clz
  | 0x1E => one .popc
  | 0x1F => row [(a != 0, 0x12#8), ((sregOf imm).isNone, 0x17#8)]
      (.mfsr (reg 32 d) ((sregOf imm).getD .status))
  | 0x20 => row [(d != 0, 0x12#8),
      (!((sregOf imm).map SReg.writable).getD false, 0x17#8)]
      (.mtsr ((sregOf imm).getD .status) (reg 32 a))
  | 0x21 => row [(kb, 0x11#8), (fn / 4 != 0 || b != 0, 0x12#8),
      (16 ≤ d || ka && 16 ≤ a, 0x13#8)] (.kset (reg 16 d) (sk ka a))
  | 0x22 => row [(ka || kb, 0x11#8), (fn / 4 != 0 || b != 0, 0x12#8), (16 ≤ a, 0x13#8)]
      (.kget (reg 32 d) (reg 16 a))
  | 0x23 =>
    let file := fn / 16
    let bc := bit fn 3
    let indexed := file == 6 || file == 3 && !bc
    if file = 7 then .error 0x11#8 else
    row [(bc && file != 3 || ka && kb || kb && !indexed, 0x11#8),
      (bit fn 2 || !indexed && b != 0, 0x12#8),
      (moveFileSize file ≤ d || ka && 16 ≤ a || kb && 16 ≤ b, 0x13#8)]
      (.put (putOf file bc ka kb d a b))
  | 0x24 =>
    let file := fn / 16
    let indexed := file == 6 || file == 3
    row [(file == 7 || bit fn 3 || ka || kb && !indexed, 0x11#8),
      (bit fn 2 || !indexed && b != 0, 0x12#8),
      (moveFileSize file ≤ a || kb && 16 ≤ b, 0x13#8)]
      (.get (reg 32 d) (getOf file kb a b))
  | 0x25 =>
    let f := chkOf (fn / 8)
    let n := fn % 8
    row [(7 ≤ fn / 8, 0x11#8), (d != 0, 0x12#8), (f.size ≤ a || f.size ≤ b, 0x13#8),
      (f.size ≤ a + n || f.size ≤ b + n, 0x18#8)] (.chk f (reg 32 a) (reg 32 b) (reg 8 n))
  | 0x26 => row [(d != 0, 0x12#8)] (.trapi (BitVec.ofNat 17 (fld w 0 17)))
  | 0x27 => row [(fld w 0 22 != 0, 0x12#8)] .uiret
  | _ => .error 0x10#8

/-- The B slot (P4): the operation in bits [27:0] (R72, R179 to R190). -/
def rowB (w : Word) : Except (BitVec 8) Row :=
  let op := fld w 22 6
  let d := fld w 17 5
  let a := fld w 12 5
  let b := fld w 7 5
  let fn := fld w 0 7
  let tb := fld w 19 3
  let tq := fld w 16 3
  let neg := bit (fld w 15 1) 0
  let off := fld w 0 15
  match op with
  | 0x00 => if fld w 0 28 = 0 then row [] .nopSlot0 else .error 0x12#8
  | 0x01 => row [(8 ≤ d, 0x13#8)] (.prep (reg 8 d) (BitVec.ofNat 17 (fld w 0 17)))
  | 0x02 => row [(b != 0 || fn != 0, 0x12#8), (8 ≤ d || 16 ≤ a, 0x13#8)]
      (.prepk (reg 8 d) (reg 16 a))
  | 0x03 => row [(tq != 0 || neg || off != 0, 0x12#8)] (.jmp (reg 8 tb))
  | 0x04 => row [(off != 0, 0x12#8)]
      (if neg then .brn (reg 8 tq) (reg 8 tb) else .br (reg 8 tq) (reg 8 tb))
  | 0x05 => row [(tq != 0 || neg || off != 0, 0x12#8)] (.call (reg 8 tb))
  | 0x06 => row [(tb != 7 || tq != 0 || neg || off != 0, 0x12#8)] .ret
  | 0x07 => row [] (.loopi (BitVec.ofNat 12 (fld w 10 12)) (bit (fld w 9 1) 0)
      (BitVec.ofNat 9 (fld w 0 9)))
  | 0x08 => row [(fld w 0 5 != 0, 0x12#8)]
      (.loopk (BitVec.ofNat 12 (fld w 10 12)) (bit (fld w 5 1) 0) (reg 16 (fld w 6 4)))
  | 0x09 => row [(d != 0 || b != 0 || fn / 8 != 0, 0x12#8), (16 ≤ a, 0x13#8)]
      (.lset (reg 8 fn) (reg 16 a))
  | 0x0A => row [(d != 0 || a != 0 || b != 0 || fn / 16 != 0, 0x12#8)]
      (.lbrk (reg 8 fn) (bit fn 3))
  | 0x0B => row [(tq != 0 || neg || off != 0, 0x12#8)] (.unprep (reg 8 tb))
  | 0x0C => row [(fld w 0 22 != 0, 0x12#8)] .ipurge
  | 0x0D => row [(tq != 0, 0x12#8)] (.skipz (reg 8 tb) neg (BitVec.ofNat 15 off))
  | 0x0E => row [(b != 0 || fn != 0, 0x12#8), (8 ≤ d || 16 ≤ a, 0x13#8)]
      (.zset (reg 8 d) (reg 16 a))
  | 0x0F => row [(off != 0, 0x12#8)] (.brv (reg 8 tq) (reg 8 tb) neg)
  | _ => .error 0x10#8

/-- The X slot (P1) (R73, R195 to R207). -/
def rowX (w : Word) (h : Hdr) : Except (BitVec 8) Row :=
  let op := fld w 26 6
  let d := fld w 21 5
  let a := fld w 16 5
  let b := fld w 11 5
  let fn := fld w 4 7
  let g := fld w 0 4
  let imm := h.imm20 (fld w 4 12)
  let three (mk : Fin 32 → RK 32 → Fin 32 → Instr) : Except (BitVec 8) Row :=
    row [(fn != 0 || g != 0, 0x12#8), (badRk 32 h a, 0x13#8), (h.extSet, 0x15#8)]
      (mk (reg 32 d) (rk 32 h a) (reg 32 b))
  let minmax (mk : Bool → Fin 32 → RK 32 → Fin 32 → Instr) : Except (BitVec 8) Row :=
    row [(fn / 2 != 0 || g != 0, 0x12#8), (badRk 32 h a, 0x13#8), (h.extSet, 0x15#8)]
      (mk (bit fn 0) (reg 32 d) (rk 32 h a) (reg 32 b))
  let one (mk : Fin 32 → RK 32 → Instr) : Except (BitVec 8) Row :=
    row [(b != 0 || fn != 0 || g != 0, 0x12#8), (badRk 32 h a, 0x13#8), (h.extSet, 0x15#8)]
      (mk (reg 32 d) (rk 32 h a))
  let shOp (mk : Fin 32 → RK 32 → BitVec 5 → Instr) : Except (BitVec 8) Row :=
    row [(g != 0, 0x12#8), (badRk 32 h a, 0x13#8), (32 ≤ imm.toNat, 0x18#8)]
      (mk (reg 32 d) (rk 32 h a) (imm.setWidth 5))
  let push (mk : Bool → PushArgs → Instr) : Except (BitVec 8) Row :=
    row [(g / 2 != 0 || !bit g 0 && d != 0, 0x12#8), (badRk 32 h a, 0x13#8),
      (h.extSet, 0x15#8)]
      (mk (bit fn 6) ⟨if bit g 0 then some (reg 32 d) else none, rk 32 h a, reg 32 b,
        BitVec.ofNat 2 (fn / 16), BitVec.ofNat 4 fn⟩)
  match op with
  | 0x00 => if w != 0#32 then .error 0x12#8 else row [(h.grant || h.extSet, 0x15#8)] .nop
  | 0x01 => three .xadd
  | 0x02 => three .xsub
  | 0x03 => three .xmul
  | 0x04 => three .xand
  | 0x05 => three .xxor
  | 0x06 => three .xshl
  | 0x07 => three .xshr
  | 0x08 => minmax .xmin
  | 0x09 => minmax .xmax
  | 0x0A => row [(g != 0, 0x12#8), (badRk 32 h a, 0x13#8)] (.xaddi (reg 32 d) (rk 32 h a) imm)
  | 0x0B => shOp .xshli
  | 0x0C => shOp .xshri
  | 0x0D => row [(h.grant, 0x15#8)] (.xli (reg 32 d) (h.imm29 (fld w 0 21)))
  | 0x0E => one .xpopc
  | 0x0F => one .xclz
  | 0x10 => row [(g != 0, 0x12#8), (badRk 32 h a, 0x13#8)] (.xldw (reg 32 d) (rk 32 h a) imm)
  | 0x11 => three .xadv
  | 0x12 => row [(fn / 32 != 0 || g != 0, 0x12#8), (badRk 32 h a, 0x13#8), (h.extSet, 0x15#8)]
      (.xsel (reg 32 d) (reg 32 fn) (rk 32 h a) (reg 32 b))
  | 0x13 => push .aqg
  | 0x14 => push .aqs
  | 0x15 => push .aqsa
  | 0x16 => row [(a != 0 || b != 0 || fn != 0 || g != 0, 0x12#8), (h.grant || h.extSet, 0x15#8)]
      (.aqcnt (reg 32 d))
  | _ => .error 0x10#8

/-- The V slot (P2) (R73, R216 to R247). -/
def rowV (w : Word) (h : Hdr) : Except (BitVec 8) Row :=
  let op := fld w 26 6
  let d := fld w 21 5
  let a := fld w 16 5
  let b := fld w 11 5
  let fn := fld w 4 7
  let g := fld w 0 4
  let gd := guardOf g
  let D := reg 32 d
  let A := rk 32 h a
  let B := reg 32 b
  -- F1R with the a field as a v source: unassigned function, reserved, then the common checks
  let v (bad11 bad12 bad13 bad16 : Bool) (i : Instr) : Except (BitVec 8) Row :=
    row [(bad11, 0x11#8), (bad12, 0x12#8), (bad13 || badRk 32 h a, 0x13#8), (g == 8, 0x14#8),
      (h.extSet, 0x15#8), (bad16, 0x16#8)] i
  -- F1R whose a field is not a v source
  let n (bad11 bad12 bad13 : Bool) (i : Instr) : Except (BitVec 8) Row :=
    row [(bad11, 0x11#8), (bad12, 0x12#8), (bad13, 0x13#8), (g == 8, 0x14#8),
      (h.grant || h.extSet, 0x15#8)] i
  let three (mk : Fin 32 → RK 32 → Fin 32 → Guard → Instr) : Except (BitVec 8) Row :=
    v false (fn != 0) false false (mk D A B gd)
  let fp (mk : RM → Fin 32 → RK 32 → Fin 32 → Guard → Instr) : Except (BitVec 8) Row :=
    v false (fn % 32 != 0) false false (mk (rmOf (fn / 32)) D A B gd)
  let fn1 (mk : RM → Fin 32 → RK 32 → Guard → Instr) : Except (BitVec 8) Row :=
    v false (fn % 32 != 0 || b != 0) false false (mk (rmOf (fn / 32)) D A gd)
  let flag (mk : Bool → Fin 32 → RK 32 → Fin 32 → Guard → Instr) : Except (BitVec 8) Row :=
    v false (fn / 2 != 0) false false (mk (bit fn 0) D A B gd)
  let t := bit fn 0
  let seg := reg 8 (fn / 2)
  match op with
  | 0x00 => if w != 0#32 then .error 0x12#8 else row [(h.grant || h.extSet, 0x15#8)] .nop
  | 0x01 => three .vadd
  | 0x02 => three .vsub
  | 0x03 => v (fn % 4 == 3) (fn / 4 != 0) false false (.vmul (mulHalfOf (fn % 4)) D A B gd)
  | 0x04 => flag .vmin
  | 0x05 => flag .vmax
  | 0x06 => three .vand
  | 0x07 => three .vor
  | 0x08 => three .vxor
  | 0x09 => three .vshl
  | 0x0A => three .vshr
  | 0x0B => three .vsar
  | 0x0C => v false (fn / 4 != 0) false false (.vadds (bit fn 0) (bit fn 1) D A B gd)
  | 0x10 => fp .vfadd
  | 0x11 => fp .vfsub
  | 0x12 => fp .vfmul
  | 0x13 => v false false false false (.vfma (rmOf (fn / 32)) D A B (reg 32 fn) gd)
  | 0x14 => flag .vfmin
  | 0x15 => flag .vfmax
  | 0x16 => v (fn % 4 == 3) (fn / 4 != 0) false false (.vfsgn (sgnOf (fn % 4)) D A B gd)
  | 0x17 => fn1 .vfrcp
  | 0x18 => fn1 .vfrsq
  | 0x19 => fn1 .vfexp2
  | 0x1A => fn1 .vflog2
  | 0x1C => v false (fn / 8 != 0) (8 ≤ d) false (.vcmp (iccOf (fn % 8)) (reg 8 d) A B gd)
  | 0x1D => v false (fn / 8 != 0) (8 ≤ d) false (.vfcmp (fccOf (fn % 8)) (reg 8 d) A B gd)
  | 0x1E => v false (fn / 8 != 0) false false (.vsel D (reg 8 fn) A B gd)
  | 0x20 =>
    let src := fld w 11 4
    let dst := fld w 7 4
    let rm := fld w 4 3
    v (5 ≤ rm) false false (src == 15 || dst == 2 || 14 ≤ dst || src == 14 && dst != 12)
      (.vcvt (rmodeOf rm) (bit (fld w 15 1) 0) D A (fmtOf src) (fmtOf dst) gd)
  | 0x21 => v false false false (!fmtIn vqntCodes (fn / 8))
      (.vqnt (rmOf (fn / 2 % 4)) (bit fn 0) D A B (fmtOf (fn / 8)) gd)
  | 0x22 => v false false false
      (!fmtIn (if bit fn 0 then [3, 4, 5, 6, 7] else vqntCodes) (fn / 8))
      (.vdqnt (rmOf (fn / 2 % 4)) (bit fn 0) D A B (fmtOf (fn / 8)) gd)
  | 0x24 => v false (b != 0 || t && fn / 32 != 0 || bit fn 4) false false
      (.vrsum (rmOf (fn / 32)) t seg D A gd)
  | 0x25 => v false (b != 0 || bit fn 5 && !t || bit fn 4 && t) false false
      (.vrmax (bit fn 6) (bit fn 5) (bit fn 4) t seg D A gd)
  | 0x26 => v false (b != 0 || bit fn 5 && !t || bit fn 4 && t) false false
      (.vrmin (bit fn 6) (bit fn 5) (bit fn 4) t seg D A gd)
  | 0x27 => v false (b != 0 || t && fn / 32 != 0) false false
      (.vscan (rmOf (fn / 32)) (bit fn 4) t seg D A gd)
  | 0x28 => flag .vperm
  | 0x29 => row [(badRk 32 h a, 0x13#8), (g == 8, 0x14#8)]
      (.vrot D A (h.imm20 (fld w 4 12)) gd)
  | 0x2A => row [(badRk 32 h a, 0x13#8), (g == 8, 0x14#8),
      (128 ≤ (h.imm20 (fld w 4 12)).toNat, 0x18#8)]
      (.vbcst D A ((h.imm20 (fld w 4 12)).setWidth 7) gd)
  | 0x2B => row [(h.grant, 0x15#8)] (.vli D (h.imm29 (fld w 0 21)))
  | 0x2C => v false (b != 0 || fn != 0) false false (.vmov D A gd)
  | 0x2D => n false (a != 0 || b != 0 || fn / 16 != 0) false
      (.viota (if bit fn 0 then some (reg 8 (fn / 2)) else none) D gd)
  | 0x30 => n false (fn / 16 != 0) (8 ≤ d || 8 ≤ a || 8 ≤ b)
      (.plog (BitVec.ofNat 4 fn) (reg 8 d) (reg 8 a) (reg 8 b) gd)
  | 0x31 => n (fn % 4 == 3) (fn / 4 != 0 || a != 0 || b != 0) false (.ppack (psetOf (fn % 4)) D gd)
  | 0x32 => if fn % 4 = 3 then .error 0x11#8 else
    row [(fn / 4 != 0 || d != 0 || b != 0, 0x12#8),
      (badRk 32 h a, 0x13#8), (g == 8, 0x14#8), (h.extSet, 0x15#8), (g != 0, 0x18#8)]
      (.punpk (psetOf (fn % 4)) A)
  | 0x33 => n (fn % 4 == 3) (fn / 4 != 0 || b != 0) (8 ≤ a)
      (.pcnt (pcntOf (fn % 4)) D (reg 8 a) gd)
  | 0x34 => n false (a != 0 || b != 0 || fn != 0) false (.vpop D gd)
  | 0x35 => v false (d != 0 || b != 0 || fn != 0) false false (.vpushd A gd)
  | 0x38 => v false false false false
      (.gate (bit fn 1) (bit fn 0) D A B (reg 8 (fn / 16)) (reg 4 (fn / 4)) gd)
  | 0x39 => n false (a != 0 || b != 0 || fn / 2 != 0) false (.dice (bit fn 0) D gd)
  | 0x3A => row [(fn / 2 != 0, 0x12#8), (badRk 32 h a, 0x13#8), (g == 8, 0x14#8),
      (h.extSet, 0x15#8), (g != 0, 0x18#8)] (.vdesc (bit fn 0) D A B)
  | 0x3B => v (fn % 4 == 3) (bit fn 2 || b != 0) false
      (!fmtIn [0, 1, 3, 4, 8, 9, 12, 13] (fn / 8)) (.vcmp48 (c48Of (fn % 4)) D A (fmtOf (fn / 8)) gd)
  | _ => .error 0x10#8

/-- The L slot (P3) (R73, R79, R208 to R212). -/
def rowL (w : Word) (h : Hdr) : Except (BitVec 8) Row :=
  let op := fld w 26 6
  let d := fld w 21 5
  let a := fld w 16 5
  let b := fld w 11 5
  let fn := fld w 4 7
  let g := fld w 0 4
  let gd := guardOf g
  let imm := h.imm20 (fld w 4 12)
  let A := rk 16 h a
  let acc (nd : Nat) (i : Instr) : Except (BitVec 8) Row :=
    row [(nd ≤ d || badRk 16 h a, 0x13#8), (g == 8, 0x14#8)] i
  let ma := imm.getLsbD 0
  let off := imm.extractLsb' 1 19
  let strided (i : Instr) : Except (BitVec 8) Row :=
    row [(fn / 2 != 0, 0x12#8), (badRk 16 h a || 16 ≤ b, 0x13#8), (g == 8, 0x14#8),
      (h.extSet, 0x15#8)] i
  match op with
  | 0x00 => if w != 0#32 then .error 0x12#8 else row [(h.grant || h.extSet, 0x15#8)] .nop
  | 0x01 => acc 32 (.ldv (reg 32 d) A ma off gd)
  | 0x02 => acc 32 (.stv (reg 32 d) A ma off gd)
  | 0x03 => strided (.ldvs (reg 32 d) A (reg 16 b) (bit fn 0) gd)
  | 0x04 => strided (.stvs (reg 32 d) A (reg 16 b) (bit fn 0) gd)
  | 0x05 => acc 32 (.ldve (reg 32 d) A ma off gd)
  | 0x06 => acc 8 (.ldb (reg 8 d) A ma off gd)
  | 0x07 => acc 8 (.stb (reg 8 d) A ma off gd)
  | 0x08 => row [(fn != 0, 0x12#8), (16 ≤ d || badRk 16 h a || 16 ≤ b, 0x13#8), (g == 8, 0x14#8),
      (h.extSet, 0x15#8)] (.aadd (reg 16 d) A (reg 16 b) gd)
  | 0x09 => acc 16 (.aaddi (reg 16 d) A imm gd)
  | 0x0A => row [(16 ≤ d, 0x13#8), (h.grant, 0x15#8)] (.ali (reg 16 d) (h.imm29 (fld w 0 21)))
  | 0x0B => acc 32 (.ldvh (reg 32 d) A ma off gd)
  | 0x0C => acc 32 (.stvh (reg 32 d) A ma off gd)
  | 0x0D => acc 16 (.lda (reg 16 d) A ma off gd)
  | 0x0E => acc 16 (.sta (reg 16 d) A ma off gd)
  | _ => .error 0x10#8

/-- One operand pair the array cannot take (R118, R251). -/
def badPair (mx : Bool) (fa fb : Nat) : Bool :=
  12 ≤ fa || 12 ≤ fb || decide (fa < 8) != decide (fb < 8) || mx && !(5 ≤ fb && fb ≤ 7)

/-- The M slot (P5) (R73, R249 to R268). -/
def rowM (w : Word) (h : Hdr) : Except (BitVec 8) Row :=
  let op := fld w 26 6
  let fa := fld w 22 4
  let fb := fld w 18 4
  let acc := fld w 14 4
  let mA := fld w 9 5
  let mB := fld w 4 5
  let flags := fld w 0 4
  let d := fld w 21 5
  let a := fld w 16 5
  let b := fld w 11 5
  let fn := fld w 4 7
  match op with
  | 0x00 => if w != 0#32 then .error 0x12#8 else row [(h.grant || h.extSet, 0x15#8)] .nop
  | 0x01 => row [(acc != 0 || flags / 2 != 0, 0x12#8), (16 ≤ mA || 16 ≤ mB, 0x13#8),
      (h.grant || h.extSet, 0x15#8), (badPair (bit flags 0) fa fb, 0x16#8)]
      (.mma (bit flags 0) (reg 16 mA) (reg 16 mB) (fmtOf fa) (fmtOf fb))
  | 0x02 => row [(acc != 0 || flags != 0, 0x12#8), (16 ≤ mA || 16 ≤ mB, 0x13#8),
      (h.grant || h.extSet, 0x15#8),
      (badPair false fa fb || !fmtIn [3, 4, 8, 9] fa || !fmtIn [3, 4, 8, 9] fb, 0x16#8)]
      (.mmas (reg 16 mA) (reg 16 mB) (fmtOf fa) (fmtOf fb))
  | 0x03 => row [(fld w 18 8 != 0 || fld w 0 14 != 0, 0x12#8), (h.grant || h.extSet, 0x15#8)]
      (.azero (reg 16 acc))
  | 0x04 => row [(fld w 18 8 != 0 || fld w 0 14 != 0, 0x12#8), (h.grant || h.extSet, 0x15#8)]
      (.arel (reg 16 acc))
  | 0x05 => row [(b != 0 || flags / 2 != 0, 0x12#8), (16 ≤ d || badRk 16 h a, 0x13#8),
      (h.extSet, 0x15#8), (!fmtIn [0, 1, 3, 4, 5, 6, 7, 8, 9, 10, 11, 12, 13] (fn / 8), 0x16#8)]
      (.acpy (rmOf (fn / 2 % 4)) (bit fn 0) (bit flags 0) (reg 16 d) (rk 16 h a) (fmtOf (fn / 8)))
  | 0x06 => row [(b != 0 || fn % 8 != 0 || flags != 0, 0x12#8),
      (16 ≤ d || badRk 16 h a, 0x13#8), (h.extSet, 0x15#8),
      (!fmtIn [0, 1, 12, 13] (fn / 8), 0x16#8)] (.ald (reg 16 d) (rk 16 h a) (fmtOf (fn / 8)))
  | 0x07 => row [(b != 0 || fn != 0 || flags / 2 != 0, 0x12#8),
      (16 ≤ d || badRk 16 h a, 0x13#8), (h.extSet, 0x15#8)]
      (.mset (bit flags 0) (reg 16 d) (rk 16 h a))
  | 0x08 => row [(flags / 2 != 0, 0x12#8), (16 ≤ d || badRk 16 h a, 0x13#8)]
      (.madd (bit flags 0) (reg 16 d) (rk 16 h a) (h.imm20 (fld w 4 12)))
  | _ => .error 0x10#8

/-- The C slot (P6) (R73, R257, R258). -/
def rowC (w : Word) (h : Hdr) : Except (BitVec 8) Row :=
  let op := fld w 26 6
  let d := fld w 21 5
  let a := fld w 16 5
  let g := fld w 0 4
  let imm := h.imm20 (fld w 4 12)
  let scale (mk : Bool → Fin 8 → Option (Fin 16) → BitVec 20 → Instr) : Except (BitVec 8) Row :=
    row [(g / 2 != 0 || !h.grant && a != 0, 0x12#8), (8 ≤ d || h.grant && 16 ≤ a, 0x13#8)]
      (mk (bit g 0) (reg 8 d) (if h.grant then some (reg 16 a) else none) imm)
  let bad12 := fld w 15 1 != 0 || fld w 1 7 != 0
  let neg := bit (fld w 0 1) 0
  let acc := reg 16 (fld w 22 4)
  let rows := BitVec.ofNat 7 (fld w 8 7)
  let promote (mk : Bool → Fin 16 → Fin 8 → Fin 8 → BitVec 7 → Instr) : Except (BitVec 8) Row :=
    row [(bad12, 0x12#8), (h.grant || h.extSet, 0x15#8)]
      (mk neg acc (reg 8 (fld w 19 3)) (reg 8 (fld w 16 3)) rows)
  match op with
  | 0x00 => if w != 0#32 then .error 0x12#8 else row [(h.grant || h.extSet, 0x15#8)] .nop
  | 0x01 => scale .scla
  | 0x02 => scale .sclb
  | 0x03 => promote .prom
  | 0x04 => promote .promz
  | 0x05 => promote .promx
  | 0x06 => row [(bad12 || fld w 16 6 != 0, 0x12#8), (h.grant || h.extSet, 0x15#8)]
      (.promi neg acc rows)
  | 0x07 => row [(8 ≤ d, 0x13#8), (h.grant, 0x15#8)] (.scli (reg 8 d) (h.pat29 (fld w 0 21)))
  | _ => .error 0x10#8

/-- The Q slot (P7) (R73, and the chapters R82 names). -/
def rowQ (w : Word) (h : Hdr) : Except (BitVec 8) Row :=
  let op := fld w 26 6
  let d := fld w 21 5
  let a := fld w 16 5
  let b := fld w 11 5
  let fn := fld w 4 7
  let g := fld w 0 4
  let imm := h.imm20 (fld w 4 12)
  let D := reg 16 d
  let A := rk 16 h a
  let B := reg 16 b
  -- F1R with a g or k in the a field
  let q (bad11 bad12 bad13 : Bool) (i : Instr) : Except (BitVec 8) Row :=
    row [(bad11, 0x11#8), (bad12, 0x12#8), (16 ≤ d || bad13 || badRk 16 h a, 0x13#8),
      (h.extSet, 0x15#8)] i
  let atomic (ts : List Nat) (cOk : Bool) (i : AtArgs → Instr) : Except (BitVec 8) Row :=
    let t := fn / 4 % 4
    q (!fmtIn ts t || t == 2 && !bit fn 4) (fn % 4 != 0 || !cOk && g != 0) (16 ≤ b)
      (i ⟨bit fn 6, bit fn 5, bit fn 4, atTOf t, D, A, B⟩)
  let two (mk : Fin 16 → RK 16 → Fin 16 → Instr) : Except (BitVec 8) Row :=
    q false (fn != 0 || g != 0) (16 ≤ b) (mk D A B)
  let one (mk : Fin 16 → RK 16 → Instr) : Except (BitVec 8) Row :=
    q false (b != 0 || fn != 0 || g != 0) false (mk D A)
  match op with
  | 0x00 => if w != 0#32 then .error 0x12#8 else row [(h.grant || h.extSet, 0x15#8)] .nop
  | 0x01 => row [(bit g 3, 0x12#8), (16 ≤ d || badRk 16 h a, 0x13#8)]
      (.gld (bit g 2) (reg 4 g) D A imm)
  | 0x02 => row [(g / 4 != 0, 0x12#8), (16 ≤ d || badRk 16 h a, 0x13#8)] (.gst (reg 4 g) D A imm)
  | 0x04 => atomic [0, 2] false .atadd
  | 0x05 => atomic [0, 1, 2] false .atmin
  | 0x06 => atomic [0, 1, 2] false .atmax
  | 0x07 => atomic [0] false .atand
  | 0x08 => atomic [0] false .ator
  | 0x09 => atomic [0] false .atxch
  | 0x0A => atomic [0] true (fun x => .atcas x (reg 16 g))
  | 0x0B => row [(bit fn 4, 0x12#8), (16 ≤ d || 16 ≤ b || badRk 16 h a, 0x13#8),
      (h.extSet, 0x15#8), (bit d 0 || bit g 0 || bit fn 0, 0x18#8)]
      (.dcas (bit fn 6) (bit fn 5) (reg 8 (d / 2)) A B (reg 8 (g / 2)) (reg 8 (fn % 16 / 2)))
  | 0x0C => q false (fn % 32 != 0) (16 ≤ b) (.amov (bit fn 6) (bit fn 5) D A B (reg 16 g))
  | 0x0D =>
    let amt := fn % 16
    q (!bit fn 4 && amt == 0) (g != 0 || bit fn 5 || bit fn 4 && amt != 0 || !bit fn 4 && b != 0)
      (16 ≤ b) (.tdec (bit fn 6) D A (if bit fn 4 then .reg B else .imm (Fin.ofNat 15 (amt - 1))))
  | 0x0E => row [(5 ≤ fn % 8, 0x11#8), (a != 0 || b != 0 || fn / 8 != 0 || g != 0, 0x12#8),
      (16 ≤ d, 0x13#8), (h.grant || h.extSet, 0x15#8)] (.drain (scopeOf (fn % 8)) D)
  | 0x10 => q false (b != 0 || fn / 4 != 0 || g != 0) false (.qcpy D A (reg 4 fn))
  | 0x12 => q false (fn / 32 != 0 || g != 0) (16 ≤ b)
      (.qred (bit fn 2) D A B (BitVec.ofNat 2 (fn / 8)) (reg 4 fn))
  | 0x13 => row [((h.imm29 (fld w 0 21)).toNat / 16 != 0, 0x12#8), (16 ≤ d, 0x13#8),
      (h.grant, 0x15#8)] (.qfence D (BitVec.ofNat 4 (fld w 0 21)))
  | 0x14 => q false (b != 0 || fn % 64 != 0 || g != 0) false (.qpoll (bit fn 6) D A)
  | 0x15 => two .tspawn
  | 0x16 =>
    if bit g 0 then
      row [(d != 0 || fld w 4 12 != 0 || h.extSet || g / 2 != 0, 0x12#8), (badRk 16 h a, 0x13#8)]
        (.tarmReg A)
    else row [(d != 0 || a != 0 || g / 2 != 0, 0x12#8), (h.grant, 0x15#8)] (.tarm imm)
  | 0x18 => two .xroute
  | 0x19 => one .xlook
  | 0x1A => q false (fn / 2 != 0 || g != 0) (16 ≤ b) (.xfetch (bit fn 0) D A B)
  | 0x1B => one .xpin
  | 0x1C => one .xunpin
  | 0x1D => one .xhint
  | 0x1E => two .xswap
  | 0x1F => q (13 ≤ fn % 16) (b != 0 || fn / 32 != 0 || g != 0) false
      (.xstat (bit fn 4) D A (reg 13 (fn % 16)))
  | 0x20 => q false (fn / 2 != 0 || g != 0) (16 ≤ b) (.pkq (bit fn 0) D A B)
  | 0x21 => two .pks
  | 0x22 => two .pkk
  | 0x24 => one .gopen
  | 0x25 => one .genter
  | 0x26 => q false (b != 0 || fn / 2 != 0 || g != 0) false
      (if bit fn 0 then .gresRefute D A else .gresConfirm D A)
  | 0x27 =>
    if bit fn 0 then
      row [(a != 0 || b != 0 || fn / 2 != 0 || g != 0, 0x12#8), (16 ≤ d, 0x13#8),
        (h.grant || h.extSet, 0x15#8)] (.gqry D none)
    else q false (b != 0 || fn != 0 || g != 0) false (.gqry D (some A))
  | 0x28 => q false (bit fn 0 || g != 0) (16 ≤ b)
      (.tkcmt (reg 8 (fn / 16)) (bit fn 3) (bit fn 2) (bit fn 1) D A B)
  | 0x29 => q (5 ≤ fn % 8) (b != 0 || fn / 8 != 0 || g != 0) false (.seatr D A (reg 5 (fn % 8)))
  | 0x2A => q (5 ≤ fn % 8) (fn / 8 != 0 || g != 0) (16 ≤ b) (.seatw D A B (reg 5 (fn % 8)))
  | 0x2C => q false (fn / 8 != 0 || g != 0) (16 ≤ b)
      (.msg (bit fn 2) (BitVec.ofNat 2 fn) D A B)
  | 0x2D => one .a2a
  | _ => .error 0x10#8

/-- One slot's operation at its position (R82). Slot 0 holds an operation only where bit 31 is 0; its
bits [30:28] are STALL or KIND and no part of it (R66). -/
def slotRow (p : Pos) (w : Word) (h : Hdr) : Except (BitVec 8) Row :=
  match p with
  | .S => rowS (w &&& 0x0FFFFFFF#32)
  | .B => rowB (w &&& 0x0FFFFFFF#32)
  | .X => rowX w h
  | .V => rowV w h
  | .L => rowL w h
  | .M => rowM w h
  | .C => rowC w h
  | .Q => rowQ w h

/-- One slot's instruction, or the detail of the first check that fails. -/
def decodeSlot (p : Pos) (w : Word) (h : Hdr) : Except (BitVec 8) Instr :=
  match slotRow p w h with
  | .ok r => checks r.1 r.2
  | .error d => .error d

/-- The operation that a slot names, whatever check of its own it fails: the packet-wide check of R86 comes before
the slots' (R84; log 13). -/
def namedSlot (p : Pos) (w : Word) (h : Hdr) : Option Instr :=
  match slotRow p w h with
  | .ok r => some r.2
  | .error _ => none

/-! ## The encoder -/

/-- F0R (R72, Table 4). -/
def packF0R (op d a b fn : Nat) : Word :=
  BitVec.ofNat 32 (op * 2 ^ 22 + d * 2 ^ 17 + a * 2 ^ 12 + b * 2 ^ 7 + fn)

/-- F0I. -/
def packF0I (op d a imm : Nat) : Word :=
  BitVec.ofNat 32 (op * 2 ^ 22 + d * 2 ^ 17 + a * 2 ^ 12 + imm)

/-- F0L. -/
def packF0L (op d imm : Nat) : Word := BitVec.ofNat 32 (op * 2 ^ 22 + d * 2 ^ 17 + imm)

/-- F0C. -/
def packF0C (op q cc a imm : Nat) : Word :=
  BitVec.ofNat 32 (op * 2 ^ 22 + q * 2 ^ 19 + cc * 2 ^ 16 + a * 2 ^ 11 + imm)

/-- F0T. -/
def packF0T (op b q neg imm : Nat) : Word :=
  BitVec.ofNat 32 (op * 2 ^ 22 + b * 2 ^ 19 + q * 2 ^ 16 + neg * 2 ^ 15 + imm)

/-- F0P. -/
def packF0P (op len count : Nat) : Word :=
  BitVec.ofNat 32 (op * 2 ^ 22 + len * 2 ^ 10 + count)

/-- F1R (R73, Table 5). -/
def packF1R (op d a b fn g : Nat) : Word :=
  BitVec.ofNat 32 (op * 2 ^ 26 + d * 2 ^ 21 + a * 2 ^ 16 + b * 2 ^ 11 + fn * 2 ^ 4 + g)

/-- F1I. -/
def packF1I (op d a imm g : Nat) : Word :=
  BitVec.ofNat 32 (op * 2 ^ 26 + d * 2 ^ 21 + a * 2 ^ 16 + imm * 2 ^ 4 + g)

/-- F1W. -/
def packF1W (op d imm : Nat) : Word := BitVec.ofNat 32 (op * 2 ^ 26 + d * 2 ^ 21 + imm)

/-- F1M. -/
def packF1M (op fa fb acc mA mB flags : Nat) : Word :=
  BitVec.ofNat 32 (op * 2 ^ 26 + fa * 2 ^ 22 + fb * 2 ^ 18 + acc * 2 ^ 14 + mA * 2 ^ 9 + mB * 2 ^ 4
    + flags)

/-- F1C. -/
def packF1C (op acc sa sb rows mode : Nat) : Word :=
  BitVec.ofNat 32 (op * 2 ^ 26 + acc * 2 ^ 22 + sa * 2 ^ 19 + sb * 2 ^ 16 + rows * 2 ^ 8 + mode)

/-- An operation as it stands in a packet: its position, its word, and what the header of its bundle
must say of its slot. -/
structure Slot where
  pos   : Pos
  word  : Word
  grant : Bool
  ext   : BitVec 8
deriving DecidableEq, Repr

/-- The header a slot is decoded under, when its bundle has one. -/
def Slot.hdr (s : Slot) : Hdr := ⟨s.grant, some s.ext⟩

/-- The register number in a field that may name a common register. -/
def RK.num {n : Nat} : RK n → Nat
  | .r i => i.val
  | .k i => i.val

def RK.isK {n : Nat} : RK n → Bool
  | .r _ => false
  | .k _ => true

def Guard.code : Guard → Nat
  | .all => 0
  | .pos i => i.val + 1
  | .neg i => i.val + 9

def ICc.code : ICc → Nat
  | .eq => 0 | .ne => 1 | .lt => 2 | .le => 3 | .gt => 4 | .ge => 5 | .ltu => 6 | .geu => 7

def FCc.code : FCc → Nat
  | .eq => 0 | .ne => 1 | .lt => 2 | .le => 3 | .gt => 4 | .ge => 5 | .un => 6 | .ord => 7

def Fmt.code : Fmt → Nat
  | .bf16 => 0 | .fp16 => 1 | .tf32 => 2 | .e4m3 => 3 | .e5m2 => 4 | .e3m2 => 5 | .e2m3 => 6
  | .e2m1 => 7 | .int8 => 8 | .uint8 => 9 | .int4 => 10 | .uint4 => 11 | .fp32 => 12
  | .int32 => 13 | .e8m0 => 14

def RM.code : RM → Nat
  | .rne => 0 | .rz => 1 | .rd => 2 | .ru => 3

def RMode.code : RMode → Nat
  | .det m => m.code
  | .sr => 4

def SReg.code : SReg → Nat
  | .status => 0x000 | .control => 0x001 | .cause => 0x002 | .epc => 0x003 | .faddr => 0x004
  | .finfo => 0x005 | .gid => 0x008 | .syncsel => 0x009 | .splim => 0x00A | .uivec => 0x00B
  | .uistat => 0x00C | .spbase => 0x00D | .spsize => 0x00E | .lc i => 0x010 + i.val
  | .dkey => 0x018 | .dctrh => 0x019 | .dctrl => 0x01A | .taskid => 0x020 | .ctxid => 0x021
  | .coreid => 0x022 | .cycle => 0x023 | .energy => 0x024 | .routepol => 0x028

def ChkFile.code : ChkFile → Nat
  | .s => 0 | .x => 1 | .v => 2 | .p => 3 | .a => 4 | .m => 5 | .g => 6

def MulHalf.code : MulHalf → Nat
  | .lo => 0 | .hs => 1 | .hu => 2

def SgnMode.code : SgnMode → Nat
  | .copy => 0 | .neg => 1 | .xor => 2

def PGroup.code : PGroup → Nat
  | .all => 0 | .lo => 1 | .hi => 2

def PcntMode.code : PcntMode → Nat
  | .count => 0 | .first => 1 | .last => 2

def C48Mode.code : C48Mode → Nat
  | .mask => 0 | .zero => 1 | .pack => 2

def Scope.code : Scope → Nat
  | .ctx => 0 | .core => 1 | .camp => 2 | .dev => 3 | .sys => 4

def AtT.code : AtT → Nat
  | .s => 0 | .u => 1 | .f => 2

def SArgs.a : SArgs → Nat
  | .ss a _ => a.val
  | .ks a _ => a.val
  | .sk a _ => a.val

def SArgs.b : SArgs → Nat
  | .ss _ b => b.val
  | .ks _ b => b.val
  | .sk _ b => b.val

/-- KB and KA, bits [1:0] of fn (R166). -/
def SArgs.kbits : SArgs → Nat
  | .ss _ _ => 0
  | .ks _ _ => 1
  | .sk _ _ => 2

/-- A slot-0 operation: no header in its bundle. -/
def slot0 (p : Pos) (w : Word) : Option Slot := some ⟨p, w, false, 0#8⟩

/-- An F1R operation. -/
def encR (p : Pos) (grant : Bool) (op d a b fn g : Nat) : Option Slot :=
  some ⟨p, packF1R op d a b fn g, grant, 0#8⟩

/-- An F1I operation with its immediate of 20 bits split over the field and EXT. -/
def encI (p : Pos) (grant : Bool) (op d a : Nat) (imm : BitVec 20) (g : Nat) : Option Slot :=
  some ⟨p, packF1I op d a (imm.toNat % 4096) g, grant, BitVec.ofNat 8 (imm.toNat / 4096)⟩

/-- An F1W operation with its immediate of 29 bits split over the field and EXT. -/
def encW (p : Pos) (op d : Nat) (imm : BitVec 29) : Option Slot :=
  some ⟨p, packF1W op d (imm.toNat % 2097152), false, BitVec.ofNat 8 (imm.toNat / 2097152)⟩

def encS2 (op : Nat) (d : Fin 32) (x : SArgs) : Option Slot :=
  slot0 .S (packF0R op d x.a x.b x.kbits)

def encSI (op : Nat) (d a : Fin 32) (imm : Nat) : Option Slot := slot0 .S (packF0I op d a imm)

def encX3 (op : Nat) (d : Fin 32) (a : RK 32) (b : Fin 32) (fn : Nat) : Option Slot :=
  encR .X a.isK op d a.num b fn 0

def encV (op : Nat) (d : Nat) (a : RK 32) (b fn : Nat) (g : Guard) : Option Slot :=
  encR .V a.isK op d a.num b fn g.code

def encPush (op : Nat) (f6 : Bool) (x : PushArgs) : Option Slot :=
  encR .X x.a.isK op ((x.cond.map Fin.val).getD 0) x.a.num x.b
    (f6.toNat * 64 + x.size.toNat * 16 + x.sh.toNat) x.cond.isSome.toNat

def encL (op d : Nat) (a : RK 16) (ma : Bool) (off : BitVec 19) (g : Guard) : Option Slot :=
  encI .L a.isK op d a.num (off ++ BitVec.ofBool ma) g.code

def encAt (op : Nat) (x : AtArgs) (g : Nat) : Option Slot :=
  encR .Q x.a.isK op x.d x.a.num x.b
    (x.acq.toNat * 64 + x.rel.toNat * 32 + x.w.toNat * 16 + x.t.code * 4) g

def encQ (op : Nat) (d : Fin 16) (a : RK 16) (b fn g : Nat) : Option Slot :=
  encR .Q a.isK op d a.num b fn g

def encPut : PutArgs → Option Slot
  | .x d a => slot0 .S (packF0R 0x23 d a.num 0 a.isK.toNat)
  | .a d a => slot0 .S (packF0R 0x23 d a.num 0 (16 + a.isK.toNat))
  | .g d a => slot0 .S (packF0R 0x23 d a.num 0 (32 + a.isK.toNat))
  | .v d x => slot0 .S (packF0R 0x23 d x.a x.b (48 + x.kbits))
  | .vbc d a => slot0 .S (packF0R 0x23 d a.num 0 (56 + a.isK.toNat))
  | .m d a => slot0 .S (packF0R 0x23 d a.num 0 (64 + a.isK.toNat))
  | .sb d a => slot0 .S (packF0R 0x23 d a.num 0 (80 + a.isK.toNat))
  | .p d x => slot0 .S (packF0R 0x23 d x.a x.b (96 + x.kbits))

def encGet (d : Fin 32) : GetArgs → Option Slot
  | .x a => slot0 .S (packF0R 0x24 d a 0 0)
  | .a a => slot0 .S (packF0R 0x24 d a 0 16)
  | .g a => slot0 .S (packF0R 0x24 d a 0 32)
  | .v a b => slot0 .S (packF0R 0x24 d a b.num (48 + b.isK.toNat * 2))
  | .m a => slot0 .S (packF0R 0x24 d a 0 64)
  | .sb a => slot0 .S (packF0R 0x24 d a 0 80)
  | .p a b => slot0 .S (packF0R 0x24 d a b.num (96 + b.isK.toNat * 2))

/-- The encoding of an operation, under a header of its bundle where it needs or may have one; none
for an event, which has no encoding. -/
def encode : Instr → Option Slot
  | .nop => encR .X false 0 0 0 0 0 0
  | .nopSlot0 => slot0 .S (packF0R 0 0 0 0 0)
  | .add d x => encS2 0x01 d x
  | .sub d x => encS2 0x02 d x
  | .mul d x => encS2 0x03 d x
  | .mulhs d x => encS2 0x04 d x
  | .mulhu d x => encS2 0x05 d x
  | .and d x => encS2 0x06 d x
  | .or d x => encS2 0x07 d x
  | .xor d x => encS2 0x08 d x
  | .andn d x => encS2 0x09 d x
  | .shl d x => encS2 0x0A d x
  | .shr d x => encS2 0x0B d x
  | .sar d x => encS2 0x0C d x
  | .min d x => encS2 0x0D d x
  | .max d x => encS2 0x0E d x
  | .minu d x => encS2 0x0F d x
  | .maxu d x => encS2 0x10 d x
  | .addi d a imm => encSI 0x11 d a imm.toNat
  | .andi d a imm => encSI 0x12 d a imm.toNat
  | .ori d a imm => encSI 0x13 d a imm.toNat
  | .xori d a imm => encSI 0x14 d a imm.toNat
  | .shli d a sh => encSI 0x15 d a sh.toNat
  | .shri d a sh => encSI 0x16 d a sh.toNat
  | .sari d a sh => encSI 0x17 d a sh.toNat
  | .li d imm => slot0 .S (packF0L 0x18 d imm.toNat)
  | .lis d imm => slot0 .S (packF0L 0x19 d imm.toNat)
  | .cmp cc q x => slot0 .S (packF0R 0x1A q x.a x.b (cc.code * 16 + x.kbits))
  | .cmpi cc q a imm => slot0 .S (packF0C 0x1B q cc.code a imm.toNat)
  | .sel d q x => slot0 .S (packF0R 0x1C d x.a x.b (q.val * 16 + x.kbits))
  | .clz d a => slot0 .S (packF0R 0x1D d a.num 0 a.isK.toNat)
  | .popc d a => slot0 .S (packF0R 0x1E d a.num 0 a.isK.toNat)
  | .mfsr d sr => slot0 .S (packF0I 0x1F d 0 sr.code)
  | .mtsr sr a => slot0 .S (packF0I 0x20 0 a sr.code)
  | .kset d a => slot0 .S (packF0R 0x21 d a.num 0 a.isK.toNat)
  | .kget d a => slot0 .S (packF0R 0x22 d a 0 0)
  | .put x => encPut x
  | .get d x => encGet d x
  | .chk f a b n => slot0 .S (packF0R 0x25 0 a b (f.code * 8 + n.val))
  | .trapi imm => slot0 .S (packF0L 0x26 0 imm.toNat)
  | .uiret => slot0 .S (packF0R 0x27 0 0 0 0)
  | .prep b off => slot0 .B (packF0L 0x01 b off.toNat)
  | .prepk b k => slot0 .B (packF0R 0x02 b k 0 0)
  | .jmp b => slot0 .B (packF0T 0x03 b 0 0 0)
  | .br q b => slot0 .B (packF0T 0x04 b q 0 0)
  | .brn q b => slot0 .B (packF0T 0x04 b q 1 0)
  | .call b => slot0 .B (packF0T 0x05 b 0 0 0)
  | .ret => slot0 .B (packF0T 0x06 7 0 0 0)
  | .loopi len np c => slot0 .B (packF0P 0x07 len.toNat (np.toNat * 512 + c.toNat))
  | .loopk len np k => slot0 .B (packF0P 0x08 len.toNat (k.val * 64 + np.toNat * 32))
  | .lset lev k => slot0 .B (packF0R 0x09 0 k 0 lev)
  | .lbrk lev now => slot0 .B (packF0R 0x0A 0 0 0 (now.toNat * 8 + lev.val))
  | .unprep b => slot0 .B (packF0T 0x0B b 0 0 0)
  | .ipurge => slot0 .B (packF0R 0x0C 0 0 0 0)
  | .skipz z nz off => slot0 .B (packF0T 0x0D z 0 nz.toNat off.toNat)
  | .zset z k => slot0 .B (packF0R 0x0E z k 0 0)
  | .brv p b z => slot0 .B (packF0T 0x0F b p z.toNat 0)
  | .xadd d a b => encX3 0x01 d a b 0
  | .xsub d a b => encX3 0x02 d a b 0
  | .xmul d a b => encX3 0x03 d a b 0
  | .xand d a b => encX3 0x04 d a b 0
  | .xxor d a b => encX3 0x05 d a b 0
  | .xshl d a b => encX3 0x06 d a b 0
  | .xshr d a b => encX3 0x07 d a b 0
  | .xmin u d a b => encX3 0x08 d a b u.toNat
  | .xmax u d a b => encX3 0x09 d a b u.toNat
  | .xaddi d a imm => encI .X a.isK 0x0A d a.num imm 0
  | .xshli d a sh => encI .X a.isK 0x0B d a.num (sh.setWidth 20) 0
  | .xshri d a sh => encI .X a.isK 0x0C d a.num (sh.setWidth 20) 0
  | .xli d imm => encW .X 0x0D d imm
  | .xpopc d a => encX3 0x0E d a 0 0
  | .xclz d a => encX3 0x0F d a 0 0
  | .xldw d a imm => encI .X a.isK 0x10 d a.num imm 0
  | .xadv d a b => encX3 0x11 d a b 0
  | .xsel d c a b => encX3 0x12 d a b c
  | .aqg sp x => encPush 0x13 sp x
  | .aqs sp x => encPush 0x14 sp x
  | .aqsa i32 x => encPush 0x15 i32 x
  | .aqcnt d => encR .X false 0x16 d 0 0 0 0
  | .vadd d a b g => encV 0x01 d a b 0 g
  | .vsub d a b g => encV 0x02 d a b 0 g
  | .vmul hf d a b g => encV 0x03 d a b hf.code g
  | .vmin u d a b g => encV 0x04 d a b u.toNat g
  | .vmax u d a b g => encV 0x05 d a b u.toNat g
  | .vand d a b g => encV 0x06 d a b 0 g
  | .vor d a b g => encV 0x07 d a b 0 g
  | .vxor d a b g => encV 0x08 d a b 0 g
  | .vshl d a b g => encV 0x09 d a b 0 g
  | .vshr d a b g => encV 0x0A d a b 0 g
  | .vsar d a b g => encV 0x0B d a b 0 g
  | .vadds u sub d a b g => encV 0x0C d a b (u.toNat + sub.toNat * 2) g
  | .vfadd rm d a b g => encV 0x10 d a b (rm.code * 32) g
  | .vfsub rm d a b g => encV 0x11 d a b (rm.code * 32) g
  | .vfmul rm d a b g => encV 0x12 d a b (rm.code * 32) g
  | .vfma rm d a b c g => encV 0x13 d a b (rm.code * 32 + c.val) g
  | .vfmin nan d a b g => encV 0x14 d a b nan.toNat g
  | .vfmax nan d a b g => encV 0x15 d a b nan.toNat g
  | .vfsgn m d a b g => encV 0x16 d a b m.code g
  | .vfrcp rm d a g => encV 0x17 d a 0 (rm.code * 32) g
  | .vfrsq rm d a g => encV 0x18 d a 0 (rm.code * 32) g
  | .vfexp2 rm d a g => encV 0x19 d a 0 (rm.code * 32) g
  | .vflog2 rm d a g => encV 0x1A d a 0 (rm.code * 32) g
  | .vcmp cc d a b g => encV 0x1C d a b cc.code g
  | .vfcmp cc d a b g => encV 0x1D d a b cc.code g
  | .vsel d c a b g => encV 0x1E d a b c g
  | .vcvt rm sat d a src dst g =>
    encR .V a.isK 0x20 d a.num (sat.toNat * 16 + src.code) (dst.code * 8 + rm.code) g.code
  | .vqnt rm sat d a b f g => encV 0x21 d a b (f.code * 8 + rm.code * 2 + sat.toNat) g
  | .vdqnt rm mx d a b f g => encV 0x22 d a b (f.code * 8 + rm.code * 2 + mx.toNat) g
  | .vrsum rm i32 seg d a g => encV 0x24 d a 0 (rm.code * 32 + seg.val * 2 + i32.toNat) g
  | .vrmax arg u nan i32 seg d a g =>
    encV 0x25 d a 0 (arg.toNat * 64 + u.toNat * 32 + nan.toNat * 16 + seg.val * 2 + i32.toNat) g
  | .vrmin arg u nan i32 seg d a g =>
    encV 0x26 d a 0 (arg.toNat * 64 + u.toNat * 32 + nan.toNat * 16 + seg.val * 2 + i32.toNat) g
  | .vscan rm ex i32 seg d a g =>
    encV 0x27 d a 0 (rm.code * 32 + ex.toNat * 16 + seg.val * 2 + i32.toNat) g
  | .vperm z d a b g => encV 0x28 d a b z.toNat g
  | .vrot d a imm g => encI .V a.isK 0x29 d a.num imm g.code
  | .vbcst d a n g => encI .V a.isK 0x2A d a.num (n.setWidth 20) g.code
  | .vli d imm => encW .V 0x2B d imm
  | .vmov d a g => encV 0x2C d a 0 0 g
  | .viota rank d g =>
    encR .V false 0x2D d 0 0 ((rank.map fun c => c.val * 2 + 1).getD 0) g.code
  | .plog t d a b g => encR .V false 0x30 d a b t.toNat g.code
  | .ppack set d g => encR .V false 0x31 d 0 0 set.code g.code
  | .punpk set a => encV 0x32 0 a 0 set.code .all
  | .pcnt m d a g => encR .V false 0x33 d a 0 m.code g.code
  | .vpop d g => encR .V false 0x34 d 0 0 0 g.code
  | .vpushd a g => encV 0x35 0 a 0 0 g
  | .gate first final d a b k chunk g =>
    encV 0x38 d a b (k.val * 16 + chunk.val * 4 + first.toNat * 2 + final.toNat) g
  | .dice pos d g => encR .V false 0x39 d 0 0 pos.toNat g.code
  | .vdesc init d a b => encV 0x3A d a b init.toNat .all
  | .vcmp48 m d a f g => encV 0x3B d a 0 (f.code * 8 + m.code) g
  | .ldv d a ma off g => encL 0x01 d a ma off g
  | .stv s a ma off g => encL 0x02 s a ma off g
  | .ldvs d a b ma g => encR .L a.isK 0x03 d a.num b ma.toNat g.code
  | .stvs s a b ma g => encR .L a.isK 0x04 s a.num b ma.toNat g.code
  | .ldve d a ma off g => encL 0x05 d a ma off g
  | .ldb d a ma off g => encL 0x06 d a ma off g
  | .stb s a ma off g => encL 0x07 s a ma off g
  | .aadd d a b g => encR .L a.isK 0x08 d a.num b 0 g.code
  | .aaddi d a imm g => encI .L a.isK 0x09 d a.num imm g.code
  | .ali d imm => encW .L 0x0A d imm
  | .ldvh d a ma off g => encL 0x0B d a ma off g
  | .stvh s a ma off g => encL 0x0C s a ma off g
  | .lda d a ma off g => encL 0x0D d a ma off g
  | .sta s a ma off g => encL 0x0E s a ma off g
  | .mma mx mA mB fa fb => some ⟨.M, packF1M 0x01 fa.code fb.code 0 mA mB mx.toNat, false, 0#8⟩
  | .mmas mA mB fa fb => some ⟨.M, packF1M 0x02 fa.code fb.code 0 mA mB 0, false, 0#8⟩
  | .azero acc => some ⟨.M, packF1M 0x03 0 0 acc 0 0 0, false, 0#8⟩
  | .arel acc => some ⟨.M, packF1M 0x04 0 0 acc 0 0 0, false, 0#8⟩
  | .acpy rm sat i acc a f =>
    encR .M a.isK 0x05 acc a.num 0 (f.code * 8 + rm.code * 2 + sat.toNat) i.toNat
  | .ald acc a f => encR .M a.isK 0x06 acc a.num 0 (f.code * 8) 0
  | .mset pf d a => encR .M a.isK 0x07 d a.num 0 0 pf.toNat
  | .madd aux d a imm => encI .M a.isK 0x08 d a.num imm aux.toNat
  | .scla e8 d base imm =>
    encI .C base.isSome 0x01 d ((base.map Fin.val).getD 0) imm e8.toNat
  | .sclb e8 d base imm =>
    encI .C base.isSome 0x02 d ((base.map Fin.val).getD 0) imm e8.toNat
  | .prom neg acc sa sb rows =>
    some ⟨.C, packF1C 0x03 acc sa sb rows.toNat neg.toNat, false, 0#8⟩
  | .promz neg acc sa sb rows =>
    some ⟨.C, packF1C 0x04 acc sa sb rows.toNat neg.toNat, false, 0#8⟩
  | .promx neg acc sa sb rows =>
    some ⟨.C, packF1C 0x05 acc sa sb rows.toNat neg.toNat, false, 0#8⟩
  | .promi neg acc rows => some ⟨.C, packF1C 0x06 acc 0 0 rows.toNat neg.toNat, false, 0#8⟩
  | .scli d bits => encW .C 0x07 d bits
  | .gld sx sz d a imm => encI .Q a.isK 0x01 d a.num imm (sx.toNat * 4 + sz.val)
  | .gst sz s a imm => encI .Q a.isK 0x02 s a.num imm sz.val
  | .atadd x => encAt 0x04 x 0
  | .atmin x => encAt 0x05 x 0
  | .atmax x => encAt 0x06 x 0
  | .atand x => encAt 0x07 x 0
  | .ator x => encAt 0x08 x 0
  | .atxch x => encAt 0x09 x 0
  | .atcas x c => encAt 0x0A x c
  | .dcas acq rel d a b e n =>
    encR .Q a.isK 0x0B (d.val * 2) a.num b (acq.toNat * 64 + rel.toNat * 32 + n.val * 2) (e.val * 2)
  | .amov acq rel d a b c => encQ 0x0C d a b (acq.toNat * 64 + rel.toNat * 32) c
  | .tdec rel d a (.imm n) => encQ 0x0D d a 0 (rel.toNat * 64 + n.val + 1) 0
  | .tdec rel d a (.reg b) => encQ 0x0D d a b (rel.toNat * 64 + 16) 0
  | .drain sc d => encR .Q false 0x0E d 0 0 sc.code 0
  | .qcpy d a q => encQ 0x10 d a 0 q 0
  | .qred i32 d a b size q => encQ 0x12 d a b (size.toNat * 8 + i32.toNat * 4 + q.val) 0
  | .qfence d mask => encW .Q 0x13 d (mask.setWidth 29)
  | .qpoll acq d a => encQ 0x14 d a 0 (acq.toNat * 64) 0
  | .tspawn d a b => encQ 0x15 d a b 0 0
  | .tarm imm => encI .Q false 0x16 0 0 imm 0
  | .tarmReg a => encI .Q a.isK 0x16 0 a.num 0#20 1
  | .xroute d a b => encQ 0x18 d a b 0 0
  | .xlook d a => encQ 0x19 d a 0 0 0
  | .xfetch l d a b => encQ 0x1A d a b l.toNat 0
  | .xpin d a => encQ 0x1B d a 0 0 0
  | .xunpin d a => encQ 0x1C d a 0 0 0
  | .xhint d a => encQ 0x1D d a 0 0 0
  | .xswap d a b => encQ 0x1E d a b 0 0
  | .xstat clr d a n => encQ 0x1F d a 0 (clr.toNat * 16 + n.val) 0
  | .pkq bf d a b => encQ 0x20 d a b bf.toNat 0
  | .pks d a b => encQ 0x21 d a b 0 0
  | .pkk d a b => encQ 0x22 d a b 0 0
  | .gopen d a => encQ 0x24 d a 0 0 0
  | .genter d a => encQ 0x25 d a 0 0 0
  | .gresConfirm d a => encQ 0x26 d a 0 0 0
  | .gresRefute d a => encQ 0x26 d a 0 1 0
  | .gqry d none => encR .Q false 0x27 d 0 0 1 0
  | .gqry d (some a) => encQ 0x27 d a 0 0 0
  | .tkcmt lev pw zw snap d a b =>
    encQ 0x28 d a b (lev.val * 16 + pw.toNat * 8 + zw.toNat * 4 + snap.toNat * 2) 0
  | .seatr d a w => encQ 0x29 d a 0 w 0
  | .seatw d a b w => encQ 0x2A d a b w 0
  | .msg bell size d a b => encQ 0x2C d a b (bell.toNat * 4 + size.toNat) 0
  | .a2a d a => encQ 0x2D d a 0 0 0
  | _ => none

/-! ## A row of the opcode table -/

/-- The positions tried for a word of the table, which does not say its position (log 4). -/
def tableOrder : List Pos := [.B, .S, .X, .L, .M, .C, .Q, .V]

/-- A slot's word without its bundle: slot 0 holds an operation only where bit 31 is 0, and with
STALL and KIND 0. -/
def tableSlot (p : Pos) (w : Word) : Option Instr :=
  if (p = .S ∨ p = .B) ∧ 2 ^ 28 ≤ w.toNat then none
  else (decodeSlot p w Hdr.none).toOption

/-- The first position of `ps` where the word is an operation. -/
def tableFind (w : Word) : List Pos → Option (Pos × Instr)
  | [] => none
  | p :: ps =>
    match tableSlot p w with
    | some i => some (p, i)
    | none => tableFind w ps

/-- The position and the operation of a word of the table. -/
def tablePick (w : Nat) : Option (Pos × Instr) := tableFind (BitVec.ofNat 32 w) tableOrder

/-- The operation of a word of the opcode table; every operation is one slot of 32 bits. -/
def decodeTableWord (nbits w : Nat) : Option Instr :=
  if nbits = 32 ∧ w < 2 ^ 32 then (tablePick w).map Prod.snd else none

end Sys2Proof
end

