-- ==== Sys2Proof/Machine/Home.lean ====
section
/-!
DEFINITION. Device memory at its home slices, tagged versions, and the L1s: R143 to R149, R153, R155, R345 to R348. `State.dram` is memory at the point of coherence: a line that an L1 holds
exclusive is written there too, since every reader of it recalls it first (R144).
-/
namespace Sys2Proof.Machine

/-! ## Versions (R345 to R348) -/

/-- A gambit's view: itself and its ancestors, without the root (R344). -/
def viewPath (gs : List (Nat × Gambit)) : Nat → BitVec 8 → List (BitVec 8)
  | 0, _ => []
  | fuel + 1, g =>
    if g = 0#8 then []
    else match lookupNat gs g.toNat with
      | some x => g :: viewPath gs fuel x.parent
      | none => []

/-- The version of a sector that a path sees first. -/
def versionOn (vs : List Version) (sector : Nat) : List (BitVec 8) → Option Version
  | [] => none
  | g :: gs =>
    match vs.find? fun v => v.gid == g && v.sector == sector with
    | some v => some v
    | none => versionOn vs sector gs

/-- A byte of device memory under a view (R347). -/
def State.viewByte (s : State) (path : List (BitVec 8)) (pa : Nat) : Byte :=
  match versionOn s.versions (pa / 32) path with
  | some v => v.data.getD (pa % 32) 0#8
  | none => s.dram.get pa

/-- Bytes under the view of a GID. -/
def State.viewBytes (s : State) (g : BitVec 8) (pa n : Nat) : List Byte :=
  let path := viewPath s.gambits 16 g
  if path = [] then s.dram.bytes pa n else (List.range n).map fun i => s.viewByte path (pa + i)

/-- Bytes of a list with some of them replaced from place `i`. -/
def patch (old : List Byte) (i : Nat) (new : List Byte) : List Byte :=
  old.take i ++ new ++ old.drop (i + new.length)

/-- Committed bytes of device memory at the point of coherence; an uncorrectable error in them is overwritten. -/
def State.setDram (s : State) (pa : Nat) (bs : List Byte) : State :=
  { s with dram := s.dram.setBytes pa bs }.mend .dram pa bs.length

/-- A committed write at the home slices. -/
def State.writeHome (s : State) (pa : Nat) (bs : List Byte) : State :=
  ((s.recall none pa bs.length).useSpan pa bs.length).setDram pa bs

/-- A tagged write within one sector (R347, R348): none where the set has no way for it (GCAP). DEDUCED: the L2,
which holds the versions, never caches the product-key regions, so a write there is performed at DRAM, untagged (R145,
R333; log 40). -/
def State.writeSector (s : State) (g : BitVec 8) (pa : Nat) (bs : List Byte) : Option State :=
  let sector := pa / 32
  match s.versions.find? fun v => v.gid == g && v.sector == sector with
  | some _ =>
    some { s with versions := s.versions.map fun v =>
      if v.gid == g && v.sector == sector then { v with data := patch v.data (pa % 32) bs } else v }
  | none =>
    if s.uncached pa bs.length then some (s.writeHome pa bs)
    else
    let key := l2Key pa
    let tagged := s.taggedLines key
    let new := !tagged.contains (g, pa / 256)
    if new ∧ 4 ≤ tagged.length then none
    else
      let v : Version := ⟨g, sector, patch (s.viewBytes g (sector * 32) 32) (pa % 32) bs⟩
      let lines := ((lookupNat s.l2 key).getD []).take (16 - tagged.length - 1)
      some { s with
        versions := s.versions ++ [v]
        l2 := if new then insertNat key lines s.l2 else s.l2 }

/-- A tagged write sector by sector; on GCAP, the address of the sector that has no way, and the state
with the sectors before it written. `n` bounds the sectors. -/
def State.writeTagged (s : State) (g : BitVec 8) : Nat → Nat → List Byte → Except (Nat × State) State
  | 0, _, _ => .ok s
  | n + 1, pa, bs =>
    if bs = [] then .ok s
    else
      let len := 32 - pa % 32
      match s.writeSector g pa (bs.take len) with
      | none => .error (pa, s)
      | some s => s.writeTagged g n (pa + len) (bs.drop len)

/-- A write under a GID (R345, R354): committed at the root, tagged under a gambit, discarded once its
gambit has been resolved. -/
def State.writeView (s : State) (g : BitVec 8) (voided : Bool) (pa : Nat) (bs : List Byte) : Except (Nat × State) State :=
  if voided then .ok s
  else if g = 0#8 then .ok (s.writeHome pa bs)
  else s.writeTagged g (bs.length + 1) pa bs

/-- A read at the home slices: the lines are used, and an L1 that holds one exclusive is recalled (R144). -/
def State.readHome (s : State) (g : BitVec 8) (pa n : Nat) : List Byte × State :=
  (s.viewBytes g pa n, (s.recall none pa n).useSpan pa n)

/-! ## The L1 (R144, R347) -/

/-- The sector of an L1 for a GID that a load issued at `cycle` may use: a load returns no write older than
4,096 cycles (R153). -/
def Core.l1Sector (k : Core) (g : BitVec 8) (pa cycle : Nat) : Option L1Sector :=
  k.l1.find? fun x => x.sector == pa / 32 && x.gid == g && decide (cycle < x.filled + 4096)

/-- The lines of an L1 set, each with the GID it was filled for, those held exclusive first, the most recent
first of either (R144). -/
def Core.l1Lines (k : Core) (set : Nat) : List (Nat × BitVec 8) :=
  ((k.excl.map (fun l => (l, 0#8)) ++ k.l1.map fun (x : L1Sector) => (x.sector / 8, x.gid)).filter
    fun (l : Nat × BitVec 8) => l.1 % 64 == set).eraseDups

/-- Room in an L1 for a line: of its set's other lines the seven most recent stay. DESIGN CHOICE: R144 gives 64 sets of
8 ways, neither which set a line falls in nor an order of replacement: the set is the physical line's number modulo 64
(log 7). -/
def Core.l1Room (k : Core) (line : Nat) (g : BitVec 8) : Core :=
  let gone := ((k.l1Lines (line % 64)).filter (· != (line, g))).drop 7
  if gone = [] then k
  else { k with l1 := k.l1.filter fun x => !gone.contains (x.sector / 8, x.gid)
                excl := k.excl.filter fun l => !gone.contains (l, 0#8) }

/-- An L1 with a sector filled. -/
def Core.l1Fill (k : Core) (x : L1Sector) : Core :=
  let k := k.l1Room (x.sector / 8) x.gid
  { k with l1 := x :: k.l1.filter fun y => !(y.sector == x.sector && y.gid == x.gid) }

/-- An L1 takes a line exclusive (R155): it holds the whole line as it now is. -/
def Core.own (k : Core) (line : Nat) : Core :=
  let k := k.l1Room line 0#8
  { k with l1 := k.l1.filter fun x => !(x.sector / 8 == line && x.gid == 0#8), excl := line :: k.excl }

/-- A store of the core updates the L1's copy of its sector for the GID, and the copies for other GIDs are
given up (R144, R347; log 7). -/
def Core.l1Store (k : Core) (g : BitVec 8) (pa : Nat) (bs : List Byte) : Core :=
  { k with l1 := k.l1.filterMap fun x =>
      if overlap (x.sector * 32) 32 pa bs.length then
        if x.gid = g ∧ x.sector = pa / 32 then some { x with data := patch x.data (pa % 32) bs } else none
      else some x }

/-- The acquire half of a DEV drain (R151). DEDUCED: every shared sector goes, those filled since the DRAIN issued
too, since no later load may return an older value than the home slice holds as the DRAIN completes (log 7). -/
def Core.acquire (k : Core) : Core := { k with l1 := [] }

/-- The sectors that a metadata cache of 16 KiB holds (R15). -/
def metaSize : Nat := 512

/-- A metadata sector filled; beyond the cache's size the least recently filled goes (log 7). -/
def Core.metaFill (k : Core) (sector : Nat) (bs : List Byte) : Core :=
  { k with metaCache := ((sector, bs) :: k.metaCache.filter fun x => x.1 != sector).take metaSize }

/-- The metadata cache empties (R163). -/
def Core.dropMeta (k : Core) : Core := { k with metaCache := [] }

/-- An acquire event of a context now: no sector of the core's L1 or metadata cache outlives it
(R161 to R163). -/
def State.acquireNow (s : State) (c : Fin 64) : State :=
  s.modCore c fun k => { k with l1 := [], metaCache := [] }

/-- A load's bytes at the L1 or its home (R144): whether a valid sector still serves it is an open choice
(log 5); a sector filled anew takes the bytes that the home slice holds now. -/
def State.loadBytes (s : State) (c : Fin 64) (g : BitVec 8) (pa n cycle : Nat) : List Byte × State :=
  let fill (s : State) : List Byte × State :=
    let (bs, s) := s.readHome g (pa / 32 * 32) 32
    ((bs.drop (pa % 32)).take n,
      (s.modCore c fun k => k.l1Fill ⟨pa / 32, g, bs, s.cycle⟩).mend (.l1 c) (pa / 32 * 32) 32)
  if s.uncached pa n then s.readHome g pa n
  else if g = 0#8 ∧ (s.core c).excl.contains (pa / 256) then (s.dram.bytes pa n, s)
  else
  match (s.core c).l1Sector g pa cycle with
  | none => fill s
  | some x =>
    let (h, s) := s.choose 2
    if h = 1 then ((x.data.drop (pa % 32)).take n, s) else fill s

end Sys2Proof.Machine
end

