-- ==== Sys2Proof/Machine/Operands.lean ====
section
/-!
DEFINITION. Operand forms: sources of every slot under KA, KB and GRANT (R69, R166), guards (R75, R76),
immediates (R68, R79), and the interlock on g registers (R91). Every source is read on the issue cycle,
with the value the register then holds (R87).
-/
namespace Sys2Proof.Machine

/-- An s or k source of the S slot (R166). -/
def Context.sSrc (x : Context) : RK 32 → DWord
  | .r i => x.s[i]
  | .k i => x.k[i]

/-- The a source of an S operation. -/
def Context.sA (x : Context) : SArgs → DWord
  | .ss a _ => x.s[a]
  | .ks a _ => x.k[a]
  | .sk a _ => x.s[a]

/-- The b source of an S operation. -/
def Context.sB (x : Context) : SArgs → DWord
  | .ss _ b => x.s[b]
  | .ks _ b => x.s[b]
  | .sk _ b => x.k[b]

/-- An x source, or the low 32 bits of a common register (R69, R195). -/
def Context.xSrc (x : Context) : RK 32 → Word
  | .r i => x.x[i]
  | .k i => x.k[i].setWidth 32

/-- An a source, or the low 32 bits of a common register. -/
def Context.aSrc (x : Context) : RK 16 → Word
  | .r i => x.a[i]
  | .k i => x.k[i].setWidth 32

/-- A v source, or the low 32 bits of a common register in every lane (R216). -/
def Context.vSrc (x : Context) : RK 32 → VReg
  | .r i => x.v[i]
  | .k i => splat (x.k[i].setWidth 32)

/-- An m source, or a common register (R69). -/
def Context.mSrc (x : Context) : RK 16 → DWord
  | .r i => x.m[i]
  | .k i => x.k[i]

/-- A g source, or a common register (R269). -/
def Context.gSrc (x : Context) : RK 16 → DWord
  | .r i => x.g[i]
  | .k i => x.k[i]

/-- The g register of a source, if it is one. -/
def RK.gReg : RK 16 → List (Fin 16)
  | .r i => [i]
  | .k _ => []

/-- Whether a guard makes lane `i` active (R75, R76). -/
def Context.active (x : Context) (g : Guard) (i : Nat) : Bool :=
  match g with
  | .all => true
  | .pos p => laneOn x.p[p.val + 1] i
  | .neg p => !laneOn x.p[p.val + 1] i

/-- The active lanes of a guard as a predicate. -/
def Context.mask (x : Context) (g : Guard) : Pred :=
  match g with
  | .all => BitVec.allOnes 128
  | .pos p => x.p[p.val + 1]
  | .neg p => ~~~x.p[p.val + 1]

/-- The first g register of a list whose result has not landed. -/
def Context.gBusy (x : Context) : List (Fin 16) → Option (Fin 16)
  | [] => none
  | i :: is => if x.gPending[i] then some i else x.gBusy is

/-- An operation that reads or writes g registers waits for their results (R91). -/
def State.withG (s : State) (regs : List (Fin 16)) (k : Out) : Out :=
  match s.me.gBusy regs with
  | some i => .next (s.holdFor (.g i))
  | none => k

/-- The byte offset of an L access: base plus 4 × offset, modulo 2^32, as a signed number (R79, R132). -/
def lOffset (base : Word) (off : BitVec 19) : Int := (base + off.signExtend 32 <<< 2).toInt

end Sys2Proof.Machine
end

