-- ==== Sys2Proof/Machine/Queue.lean ====
section
/-!
DEFINITION. The Q slot's loads, stores, atomics, DRAIN and task-counter operations, and the events that
perform them: R149 to R156, R269 to R278 of spec/21_global_queue_instructions.md, R395.

A request stands in `State.reqs` from its issue, in issue order, until it has performed and its result has
landed. The order rules are read off that list.
-/
namespace Sys2Proof.Machine

/-! ## Requests -/

/-- A device address: bits [47:0] of an operand plus an offset (R269). -/
def devAddr (w : DWord) (off : Int) : Nat := ofSigned 48 ((w.toNat % 2 ^ 48 : Nat) + off)

/-- The executing context's request, with the g registers of its result pending (R91). -/
def State.request (s : State) (kind : ReqKind) (d d2 : Option (Fin 16)) (acq rel : Bool) : Nat × State :=
  let (id, s) := s.newId
  let x := s.me
  let r : Req :=
    { id, c := s.focus.c, task := x.task, d, d2, kind, gid := x.gid, acq, rel, cycle := s.cycle
      state := .waiting, res := 0#64, res2 := 0#64, orphaned := false, voided := false, ui := x.uiact, outs := []
      pageFailed := [], started := false }
  let p := match d with | some i => x.gPending.set i true | none => x.gPending
  let p := match d2 with | some i => p.set i true | none => p
  (id, { s.setMe { x with gPending := p } with reqs := s.reqs ++ [r] })

/-- A request and the event that performs it. -/
def State.post (s : State) (kind : ReqKind) (d d2 : Option (Fin 16)) (acq rel : Bool)
    (e : Nat → Instr) : State :=
  let (id, s) := s.request kind d d2 acq rel
  s.due (e id)

/-- A request by its number. -/
def State.req? (s : State) (id : Nat) : Option Req := s.reqs.find? fun r => r.id == id

/-- The requests before one, oldest first. -/
def earlier (id : Nat) : List Req → List Req
  | [] => []
  | r :: rs => if r.id = id then [] else r :: earlier id rs

/-- A request replaced, or gone. -/
def State.putReq (s : State) (r : Req) : State :=
  { s with reqs := s.reqs.map fun x => if x.id = r.id then r else x }
def State.dropReq (s : State) (id : Nat) : State :=
  { s with reqs := s.reqs.filter fun x => x.id != id }

/-- The locations of a device-memory access: virtual address, physical address and bytes. -/
def ReqKind.places : ReqKind → List (Nat × Nat × Nat)
  | .load va pa n _ => [(va, pa, n)]
  | .store va pa n _ => [(va, pa, n)]
  | .atomic _ va pa w _ _ _ => [(va, pa, if w then 4 else 8)]
  | .dcas va pa vb pb _ _ _ _ => [(va, pa, 8), (vb, pb, 8)]
  | .amov va pa vb pb _ => [(va, pa, 8), (vb, pb, 8)]
  | .drain _ | .tdec _ _ | .tspawn _ _ | .qfence _ _ | .unit _ _ _ _ => []

/-- The physical bytes a device-memory access touches. -/
def ReqKind.spans (k : ReqKind) : List (Nat × Nat) := k.places.map (·.2)

/-- A store, or any device-memory access. -/
def ReqKind.isStore : ReqKind → Bool
  | .store .. => true
  | _ => false
def ReqKind.isLoad : ReqKind → Bool
  | .load .. => true
  | _ => false
def ReqKind.isTdec : ReqKind → Bool
  | .tdec .. => true
  | _ => false
def ReqKind.isAccess (k : ReqKind) : Bool := !k.spans.isEmpty

/-- Two accesses with a byte in common. -/
def Req.meets (q r : Req) : Bool :=
  q.kind.spans.any fun a => r.kind.spans.any fun b => overlap a.1 a.2 b.1 b.2

/-- A request that later accesses and submissions of its task wait for: a DRAIN, or an atomic with
.acq (R151, R154). -/
def Req.fences (q : Req) : Bool :=
  q.state == .waiting &&
    match q.kind with
    | .drain _ => true
    | k => k.isAccess && q.acq

/-- Two requests of one task on one context: those of a task that has gone go on in its own order (R396). -/
def Req.mates (q r : Req) : Bool := q.c == r.c && q.orphaned == r.orphaned && q.task == r.task

/-- The fences of a context's task, by number. -/
def State.fencesOf (s : State) (c : CtxRef) : List Nat :=
  (s.reqs.filter fun q => q.c == c && !q.orphaned && q.fences).map (·.id)

/-- Whether requests given by number are still unperformed. -/
def State.awaits (s : State) (ids : List Nat) : Bool :=
  s.reqs.any fun q => ids.contains q.id && q.fences

/-- An access that must perform before a later one of its core (R148): older accesses of one context to
common bytes, and older stores of the core; a load of the same GID takes an older store's bytes instead of
waiting for it. -/
def Req.before (q r : Req) : Bool :=
  q.state == .waiting && q.c.core == r.c.core && q.meets r &&
    if r.kind.isLoad && q.kind.isStore then q.c == r.c && q.gid != r.gid
    else q.c == r.c || q.kind.isStore

/-- No earlier DRAIN or .acq atomic of its task holds a request back (R151, R154). -/
def State.unfenced (s : State) (r : Req) : Bool :=
  (earlier r.id s.reqs).all fun q => !(q.mates r && q.fences)

/-- An access may perform now, so far as older requests go. -/
def State.mayPerform (s : State) (r : Req) : Bool :=
  s.unfenced r && (earlier r.id s.reqs).all fun q => !q.before r

/-- Scatter and scatter-add entries to device memory that a release waits for (R205). -/
def AqEntry.isDevWrite (e : AqEntry) : Bool := !e.spad && e.kind != .gather && e.data.isSome

/-- The release half at a scope, for a request (R151): what its task issued before on its context has performed. -/
def State.released (s : State) (r : Req) (scope : Scope) : Bool :=
  ((earlier r.id s.reqs).all fun q =>
    !(q.mates r && q.state != .formed &&
      (q.kind.isAccess && !(q.kind.isStore && (scope == .ctx || scope == .core)) ||
        scope == .sys && match q.kind with
          | .unit (.msg ..) .. | .unit .a2a .. => true
          | _ => false))) &&
  (r.orphaned || (s.ctx r.c).aq.all fun e => !(e.isDevWrite && decide (e.at_ ≤ r.cycle)))

/-! ## Results -/

/-- A context that is held ends its hold (R31). -/
def State.wake (s : State) (c : CtxRef) (h : Hold) : State :=
  if (s.ctx c).run = .held h then s.due (.holdEnd (s.leaderOf c)) else s

/-- A g result lands in the bank it was issued in (R91, R401); `acq` says that reading it is an acquire event. -/
def Context.landG (x : Context) (ui : Bool) (i : Fin 16) (w : DWord) (acq : Bool) : Context :=
  if ui = x.uiact ∨ i.val < 12 then
    { x with g := x.g.set i w, gPending := x.gPending.set i false, gAcq := x.gAcq.set i acq }
  else
    let j : Fin 4 := Fin.ofNat 4 (i.val - 12)
    { x with gBank := x.gBank.set j w, gPendBank := x.gPendBank.set j false, gAcqBank := x.gAcqBank.set j acq }

/-- Results whose reading is an acquire event (R163, R334, R353, R372). -/
def ReqKind.acquires : ReqKind → Bool
  | .unit (.pkq _) .. | .unit .pks .. | .unit .pkk .. | .unit (.tkcmt ..) .. | .unit (.gres _) .. => true
  | _ => false

/-- A request's result lands in a g register of its context, and ends a hold for it. -/
def State.landG (s : State) (r : Req) (d : Option (Fin 16)) (w : DWord) : State :=
  match d with
  | none => s
  | some i =>
    let s := if r.ui = (s.ctx r.c).uiact ∨ i.val < 12 then s.mend (.regs r.c) (192 + i.val) 1 else s
    let s := s.modCtx r.c fun x => x.landG r.ui i w r.kind.acquires
    (s.issueSet r.c).foldl (fun s m => s.wake m (.g i)) s

/-- A request is over: its results land, unless its context is gone. -/
def State.finish (s : State) (r : Req) : State :=
  let s := s.dropReq r.id
  if r.orphaned then s else (s.landG r r.d r.res).landG r r.d2 r.res2

/-- A request's result has formed; its landing is due. -/
def State.form (s : State) (r : Req) (res res2 : DWord) : State :=
  (s.putReq { r with state := .formed, res := res, res2 := res2 }).due (.gResultLand r.id)

/-! ## Uncorrectable errors (R146) -/

/-- The virtual address of the first of a request's locations that carries an uncorrectable error: at the point of
coherence or, for a load, in a sector that its L1 holds. -/
def State.reqBad (s : State) (r : Req) : Option Nat :=
  (r.kind.places.find? fun a => s.isBad .dram a.2.1 a.2.2 || r.kind.isLoad && s.isBad (.l1 r.c.core) a.2.1 a.2.2 &&
    ((s.core r.c.core).l1Sector r.gid a.2.1 r.cycle).isSome).map (·.1)

/-! ## Loads and stores (R270, R271) -/

/-- A GLD's n bytes as its 64-bit result. -/
def extend (sx : Bool) (n : Nat) (bs : List Byte) : DWord :=
  if sx then BitVec.ofInt 64 (toSigned (8 * n) (leNat bs)) else BitVec.ofNat 64 (leNat bs)

def execGld (sx : Bool) (sz : Fin 4) (d : Fin 16) (a : RK 16) (imm : BitVec 20) (s : State) : Out :=
  s.withG (d :: RK.gReg a) <|
    let n := 2 ^ sz.val
    let va := devAddr (s.me.gSrc a) imm.toInt
    if va % n ≠ 0 then s.raise .align (BitVec.ofNat 64 va)
    else s.withPage va n .read .load fun pa =>
      .next (s.post (.load va pa n sx) (some d) none false false .gResultLand)

/-- Writes into the key region are 2-byte aligned (R333); the spec names no fault for others (log 18). -/
def State.oddKeyWrite (s : State) (va n : Nat) : Bool :=
  match s.pk with
  | some p => overlap va n p.key 0x80000 && va % 2 == 1
  | none => false

def execGst (sz : Fin 4) (src : Fin 16) (a : RK 16) (imm : BitVec 20) (s : State) : Out :=
  s.withG (src :: RK.gReg a) <|
    let n := 2 ^ sz.val
    let va := devAddr (s.me.gSrc a) imm.toInt
    if va % n ≠ 0 ∨ s.oddKeyWrite va n then s.raise .align (BitVec.ofNat 64 va)
    else s.withPage va n .write .store fun pa =>
      .next (s.post (.store va pa n s.me.g[src]) none none false false
        (if s.me.gid = 0#8 then .storePerform else .taggedWriteAtHome))

/-- Bytes of older pending stores of the core over the bytes that a load reads. -/
def overlay (r : Req) (pa : Nat) (bs : List Byte) : List Req → List Byte
  | [] => bs
  | q :: qs =>
    match q.kind with
    | .store _ qa n w =>
      if q.c.core = r.c.core ∧ q.gid = r.gid ∧ !q.voided then
        overlay r pa (bs.mapIdx fun i b =>
          if qa ≤ pa + i ∧ pa + i < qa + n then BitVec.ofNat 8 (w.toNat / 256 ^ (pa + i - qa)) else b) qs
      else overlay r pa bs qs
    | _ => overlay r pa bs qs

/-- A load performs and its result lands (R144, R149). -/
def State.performLoad (s : State) (r : Req) : State :=
  match r.kind with
  | .load _ pa n sx =>
    if !s.mayPerform r then s
    else if (s.reqBad r).isSome then s.due (.memeccLoadFault r.id)
    else
      let (bs, s') := s.loadBytes r.c.core r.gid pa n r.cycle
      s'.finish { r with res := extend sx n (overlay r pa bs (earlier r.id s.reqs)) }
  | _ => s

/-- A store in an L1 that holds the line exclusive: its home slice sees nothing of it until a recall (R144, R145). -/
def State.writeOwned (s : State) (c : Fin 64) (pa : Nat) (bs : List Byte) : State :=
  (s.setDram pa bs).modCore c fun k => k.l1Store 0#8 pa bs

/-- A store reaches its home slice or its exclusive line: the write, and the watchdog's sink. One whose gambit has
been resolved is discarded (R354), and is no sink. -/
def State.performStore (s : State) (r : Req) : State :=
  match r.kind with
  | .store _ pa n w =>
    let bs := leBytes n w.toNat
    let gone (s : State) : State := (s.dropReq r.id).sink (r.task.map (·.launch))
    if r.voided then s.dropReq r.id
    else if r.gid = 0#8 ∧ (s.core r.c.core).excl.contains (pa / 256) then gone (s.writeOwned r.c.core pa bs)
    else
      match s.writeView r.gid false pa bs with
      | .ok s => gone (s.modCore r.c.core fun k => k.l1Store r.gid pa bs)
      | .error _ => s.due (.gcap r.id)
  | _ => s

/-- STORE_PERFORM: an untagged GST. -/
def execStorePerform (id : Nat) (s : State) : Out :=
  match s.req? id with
  | none => .next s
  | some r => if s.mayPerform r && r.kind.isStore && r.gid == 0#8 then .next (s.performStore r) else .next s

/-- TAGGED_WRITE_AT_HOME: a GST under a gambit (R345 to R348, R354). -/
def execTaggedWriteAtHome (id : Nat) (s : State) : Out :=
  match s.req? id with
  | none => .next s
  | some r => if s.mayPerform r && r.kind.isStore && r.gid != 0#8 then .next (s.performStore r) else .next s

/-! ## Atomics (R272, R273) -/

def execAtomic (op : AtOp) (x : AtArgs) (cas : Option (Fin 16)) (s : State) : Out :=
  s.withG (x.d :: x.b :: RK.gReg x.a ++ cas.toList) <|
    let n := if x.w then 4 else 8
    let va := devAddr (s.me.gSrc x.a) 0
    let c := match cas with | some i => s.me.g[i] | none => 0#64
    if va % n ≠ 0 then s.raise .align (BitVec.ofNat 64 va)
    else s.withPage va n .readWrite .atomic fun pa =>
      .next ((s.post (.atomic op va pa x.w x.t s.me.g[x.b] c) (some x.d) none x.acq x.rel .atomicPerform).modCore
        s.focus.c.core fun k => if x.acq then k.dropMeta else k)

def execAtadd (x : AtArgs) (s : State) : Out := execAtomic .add x none s
def execAtmin (x : AtArgs) (s : State) : Out := execAtomic .min x none s
def execAtmax (x : AtArgs) (s : State) : Out := execAtomic .max x none s
def execAtand (x : AtArgs) (s : State) : Out := execAtomic .and x none s
def execAtor (x : AtArgs) (s : State) : Out := execAtomic .or x none s
def execAtxch (x : AtArgs) (s : State) : Out := execAtomic .xch x none s
def execAtcas (x : AtArgs) (c : Fin 16) (s : State) : Out := execAtomic .cas x (some c) s

/-- The lesser or greater of two words of `n` bits under a type (R272, R221). -/
def pickMin (t : AtT) (max : Bool) {n : Nat} (a b : BitVec n) (f : Nat) : Nat :=
  match t with
  | .s => if a.slt b != max then a.toNat else b.toNat
  | .u => if a.ult b != max then a.toNat else b.toNat
  | .f => f

/-- The new value of Table 3, from the old value and v, both of 8n bits. -/
def atomicNew (op : AtOp) (w : Bool) (t : AtT) (old v c : Nat) : Nat :=
  let m := if w then 2 ^ 32 else 2 ^ 64
  match op with
  | .add =>
    if t = .f then (add32 (BitVec.ofNat 32 old) (BitVec.ofNat 32 v)).toNat else (old + v) % m
  | .min =>
    if w then pickMin t false (BitVec.ofNat 32 old) (BitVec.ofNat 32 v)
      (fminmax false false (BitVec.ofNat 32 old) (BitVec.ofNat 32 v)).toNat
    else pickMin t false (BitVec.ofNat 64 old) (BitVec.ofNat 64 v) 0
  | .max =>
    if w then pickMin t true (BitVec.ofNat 32 old) (BitVec.ofNat 32 v)
      (fminmax true false (BitVec.ofNat 32 old) (BitVec.ofNat 32 v)).toNat
    else pickMin t true (BitVec.ofNat 64 old) (BitVec.ofNat 64 v) 0
  | .and => old &&& v
  | .or => old ||| v
  | .xch => v
  | .cas => if old = v then c else old

/-- An atomic's turn: nothing older in its way, and its release done (R154). -/
def State.atomicReady (s : State) (r : Req) : Bool :=
  r.state == .waiting && s.mayPerform r && (!r.rel || s.released r .dev)

/-- A core's L1 takes a line exclusive at its home slice, unless it has it; other L1s give it up (R144, R155). -/
def State.takeExclusive (s : State) (c : Fin 64) (pa : Nat) : State :=
  if (s.core c).excl.contains (pa / 256) then s
  else ((s.recall (some c) (pa / 256 * 256) 256).useLine (pa / 256 * 256)).modCore c fun k => k.own (pa / 256)

/-- An atomic's write by a core that holds the line exclusive from then on (R155). -/
def State.exclusiveWrite (s : State) (c : Fin 64) (pa : Nat) (bs : List Byte) : State :=
  (s.takeExclusive c pa).writeOwned c pa bs

/-- The lines of two locations taken exclusive, the lower first (R156). -/
def State.takePair (s : State) (c : Fin 64) (a b : Nat) : State :=
  (s.takeExclusive c (min a b)).takeExclusive c (max a b)

/-- An atomic with .acq performs the acquire half of a DEV drain as it completes (R154). -/
def State.acquireIf (s : State) (r : Req) : State := if r.acq then s.acquireNow r.c.core else s

/-- ATOMIC_PERFORM (R155, R273). -/
def execAtomicPerform (id : Nat) (s : State) : Out :=
  match s.req? id with
  | none => .next s
  | some r =>
    match r.kind with
    | .atomic op _ pa w t v c =>
      if !s.atomicReady r then .next s
      else if (s.reqBad r).isSome then .next (s.due (.memeccLoadFault id))
      else
        let n := if w then 4 else 8
        let old := s.dram.num pa n
        let v := v.toNat % 2 ^ (8 * n)
        let new := atomicNew op w t old v (c.toNat % 2 ^ (8 * n))
        let s := (s.exclusiveWrite r.c.core pa (leBytes n new)).acquireIf r
        let s := if op = .cas ∧ old ≠ v then s else s.sink (r.task.map (·.launch))
        .next (s.form r (BitVec.ofNat 64 old) 0#64)
    | _ => .next s

/-! ## DCAS and AMOV (R156, R274) -/

/-- The alignment of two addresses, the lower failing one reported, then both pages. -/
def State.withPair (s : State) (a b : Nat) (k : Nat → Nat → Out) : Out :=
  if a % 8 ≠ 0 ∨ b % 8 ≠ 0 then
    let bad := if a % 8 ≠ 0 ∧ b % 8 ≠ 0 then min a b else if a % 8 ≠ 0 then a else b
    s.raise .align (BitVec.ofNat 64 bad)
  else s.withPage a 8 .readWrite .atomic fun pa => s.withPage b 8 .readWrite .atomic fun pb => k pa pb

/-- The even and odd registers of a pair. -/
def pairLo (i : Fin 8) : Fin 16 := ⟨2 * i.val, by omega⟩
def pairHi (i : Fin 8) : Fin 16 := ⟨2 * i.val + 1, by omega⟩

def execDcas (acq rel : Bool) (d : Fin 8) (a : RK 16) (b : Fin 16) (e n : Fin 8) (s : State) : Out :=
  s.withG ([pairLo d, pairHi d, b, pairLo e, pairHi e, pairLo n, pairHi n] ++ RK.gReg a) <|
    let x := s.me
    s.withPair (devAddr (x.gSrc a) 0) (devAddr x.g[b] 0) fun pa pb =>
      .next ((s.post (.dcas (devAddr (x.gSrc a) 0) pa (devAddr x.g[b] 0) pb x.g[pairLo e] x.g[pairHi e] x.g[pairLo n] x.g[pairHi n])
        (some (pairLo d)) (some (pairHi d)) acq rel .dcasPerform).modCore s.focus.c.core fun k =>
          if acq then k.dropMeta else k)

def execAmov (acq rel : Bool) (d : Fin 16) (a : RK 16) (b c : Fin 16) (s : State) : Out :=
  s.withG ([d, b, c] ++ RK.gReg a) <|
    let x := s.me
    s.withPair (devAddr (x.gSrc a) 0) (devAddr x.g[b] 0) fun pa pb =>
      .next ((s.post (.amov (devAddr (x.gSrc a) 0) pa (devAddr x.g[b] 0) pb x.g[c]) (some d) none acq rel .dcasPerform).modCore s.focus.c.core fun k =>
          if acq then k.dropMeta else k)

/-- DCAS_PERFORM: both lines are taken, then both writes, if any, at once, location 1 last (R156, R274). -/
def execDcasPerform (id : Nat) (s : State) : Out :=
  match s.req? id with
  | none => .next s
  | some r =>
    if !s.atomicReady r then .next s
    else if (s.reqBad r).isSome then .next (s.due (.memeccLoadFault id))
    else
      match r.kind with
      | .dcas _ pa _ pb e1 e2 n1 n2 =>
        let s := s.takePair r.c.core pa pb
        let old1 := BitVec.ofNat 64 (s.dram.num pa 8)
        let old2 := BitVec.ofNat 64 (s.dram.num pb 8)
        let s :=
          if old1 = e1 ∧ old2 = e2 then
            ((s.writeOwned r.c.core pb (leBytes 8 n2.toNat)).writeOwned r.c.core pa
              (leBytes 8 n1.toNat)).sink (r.task.map (·.launch))
          else s
        .next ((s.acquireIf r).form r old1 old2)
      | .amov _ pa _ pb c =>
        let old1 := BitVec.ofNat 64 (s.dram.num pa 8)
        let s := (((s.takePair r.c.core pa pb).writeOwned r.c.core pb (leBytes 8 old1.toNat)).writeOwned r.c.core pa
          (leBytes 8 c.toNat)).sink (r.task.map (·.launch))
        .next ((s.acquireIf r).form r old1 0#64)
      | _ => .next s

/-! ## DRAIN (R150, R151, R275) -/

/-- The scopes that have an acquire half and empty the metadata cache (R151, R163). -/
def scopeWide : Scope → Bool
  | .camp | .dev | .sys => true
  | .ctx | .core => false

def execDrain (scope : Scope) (d : Fin 16) (s : State) : Out :=
  s.withG [d] <|
    .next ((s.post (.drain scope) (some d) none false false .drainComplete).modCore s.focus.c.core fun k =>
      if scopeWide scope then k.dropMeta else k)

/-- DRAIN_COMPLETE. -/
def execDrainComplete (id : Nat) (s : State) : Out :=
  match s.req? id with
  | none => .next s
  | some r =>
    match r.kind with
    | .drain scope =>
      if r.state = ReqState.waiting ∧ s.released r scope then
        let s := if scopeWide scope then s.modCore r.c.core fun k => k.acquire else s
        .next (s.form r 0#64 0#64)
      else .next s
    | _ => .next s

/-! ## Task counters (R276, R277, R278) -/

/-- A decrement on its way to a task's counter (R40). -/
def State.sendDec (s : State) (launch : Fin 256) (task : Nat) (amt : Word) (camp : Option (Fin 8))
    (req : Option Nat) : State :=
  let (id, s) := s.newId
  let dec : Dec := ⟨id, launch, task, amt, camp, req⟩
  { s with decs := s.decs ++ [dec] }.due (.decrementApply id)

/-- The amount of a TDEC. -/
def Context.decAmt (x : Context) : DecAmt → Word
  | .imm n => BitVec.ofNat 32 (n.val + 1)
  | .reg b => x.g[b].setWidth 32

/-- The g register of an amount. -/
def decG : DecAmt → List (Fin 16)
  | .imm _ => []
  | .reg b => [b]

def execTdec (rel : Bool) (d : Fin 16) (a : RK 16) (amt : DecAmt) (s : State) : Out :=
  s.withG (d :: RK.gReg a ++ decG amt) <|
    let w := s.me.gSrc a
    if w.toNat / 2 ^ 28 ≠ 0 then s.raiseD .illegal 0x20#8 0#64
    else
      let n := w.toNat % 2 ^ 28
      let v := s.me.decAmt amt
      let launch := (s.me.task.map (·.launch)).getD 0
      let (id, s) := s.request (.tdec n v) (some d) none false rel
      .next (s.sendDec launch n v (some (campOf s.focus.c.core)) (some id))

/-- The task's arm value (R277). A coupled set keeps its leader's; a core of a decoupled set writes the value that
its whole set has. -/
def State.setArm (s : State) (w : Word) : State :=
  if s.me.decoup then (s.fusedSet s.focus.c).foldl (fun s m => s.modCtx m fun x => { x with arm := w }) s
  else s.setMe { s.me with arm := w }

def execTarm (imm : BitVec 20) (s : State) : Out := .next (s.setArm (imm.signExtend 32))
def execTarmReg (a : RK 16) (s : State) : Out := s.withG (RK.gReg a) (.next (s.setArm ((s.me.gSrc a).setWidth 32)))

def execTspawn (d : Fin 16) (a : RK 16) (b : Fin 16) (s : State) : Out :=
  s.withG (d :: b :: RK.gReg a) <|
    .next (s.post (.tspawn (s.me.gSrc a) s.me.g[b]) (some d) none false true .tspawnRecordWritten)

end Sys2Proof.Machine
end

