-- ==== Sys2Proof/Machine/Transcend.lean ====
section
/-!
DEFINITION. The correctly rounded functions: division, reciprocal, reciprocal square root, 2^a and
log2(a) (R223 of spec/15_vector_arithmetic_instructions.md, R243 of
spec/17_vector_special_instructions.md), and the counter hash of the dice (R361 of
spec/29_generation.md). Division and roots are exact with a sticky bit; 2^a and log2(a) are bracketed
at growing precision until both ends round alike (log 9).
-/
namespace Sys2Proof.Machine

/-- An FP32 result from a magnitude m × 2^e, or one just above it. -/
def deliver32 (rm : RM) (neg : Bool) (m : Nat) (e : Int) (sticky : Bool) : Word × Flags :=
  let (b, fl) := fp32Spec.deliver (.det rm) false neg m e sticky 0
  (BitVec.ofNat 32 b, fl)

def inf32 (neg : Bool) : Word := if neg then 0xFF800000#32 else 0x7F800000#32

def zero32 (neg : Bool) : Word := if neg then 0x80000000#32 else 0#32

/-- The correctly rounded quotient of two finite values, the second not zero. -/
def divFin (rm : RM) (neg : Bool) (m1 : Nat) (e1 : Int) (m2 : Nat) (e2 : Int) : Word × Flags :=
  if m1 = 0 then (zero32 neg, .none)
  else
    let k := 64 + bitLen m2
    let n := m1 * 2 ^ k
    deliver32 rm neg (n / m2) (e1 - e2 - k) (n % m2 != 0)

/-- FP32 division. -/
def fdiv (rm : RM) (a b : Word) : Word × Flags :=
  match f32 a, f32 b with
  | .nan _ s, y => (nan32, { iv := s || y.isSig })
  | x, .nan _ s => (nan32, { iv := s || x.isSig })
  | .inf _, .inf _ => (nan32, .invalid)
  | .inf x, .fin y _ _ => (inf32 (x != y), .none)
  | .fin x _ _, .inf y => (zero32 (x != y), .none)
  | .fin x m1 e1, .fin y m2 e2 =>
    if m2 = 0 then if m1 = 0 then (nan32, .invalid) else (inf32 (x != y), .none)
    else divFin rm (x != y) m1 e1 m2 e2

/-- round32 of a quotient. -/
def div32 (a b : Word) : Word := (fdiv .rne a b).1

/-- VFRCP on one lane (R223). -/
def frcp (rm : RM) (a : Word) : Word × Flags :=
  match f32 a with
  | .nan _ s => (nan32, { iv := s })
  | .inf n => (zero32 n, .none)
  | .fin n m e => if m = 0 then (inf32 n, .none) else divFin rm n 1 0 m e

/-- The integer square root, bit by bit from bit `n-1`. -/
def isqrtGo (x : Nat) : Nat → Nat → Nat
  | 0, r => r
  | n + 1, r => if (r + 2 ^ n) * (r + 2 ^ n) ≤ x then isqrtGo x n (r + 2 ^ n) else isqrtGo x n r

/-- The integer square root. -/
def isqrt (x : Nat) : Nat := isqrtGo x (bitLen x / 2 + 1) 0

/-- VFRSQ on one lane (R223). -/
def frsq (rm : RM) (a : Word) : Word × Flags :=
  match f32 a with
  | .nan _ s => (nan32, { iv := s })
  | .inf n => if n then (nan32, .invalid) else (zero32 false, .none)
  | .fin n m e =>
    if m = 0 then (inf32 n, .none)
    else if n then (nan32, .invalid)
    else
      -- an even exponent, then 1/√m = √(2^128 / m) × 2^-64
      let m' := if e % 2 = 0 then m else 2 * m
      let e' := if e % 2 = 0 then e else e - 1
      let r := isqrt (2 ^ 128 / m')
      deliver32 rm false r (-64 - e' / 2) (r * r * m' != 2 ^ 128)

/-- A magnitude in fixed point with `p` bits after the point, from below and from above. -/
structure Bracket where
  p  : Nat
  lo : Nat
  hi : Nat
deriving DecidableEq, Repr

/-- 2^f in fixed point from below, for f the fraction whose bits are the `i` bits of `fbits`, its lowest
bit of weight 2^-i; `c` runs through 2^(2^-j), each the root of the one before. -/
def exp2Go (p i : Nat) (fbits : Nat) : Nat → Nat → Nat → Nat
  | 0, _, acc => acc
  | n + 1, c, acc =>
    let c' := isqrt (c * 2 ^ p)
    let acc' := if fbits / 2 ^ n % 2 = 1 then acc * c' / 2 ^ p else acc
    exp2Go p i fbits n c' acc'

/-- 2^f for a fraction of `i` bits, with `p` bits after the point. Every factor is below 2 and short by
at most two units, so the product of at most `i` of them is short by less than 16 (i + 1) units. -/
def exp2Bracket (i fbits p : Nat) : Bracket :=
  let lo := exp2Go p i fbits i (2 * 2 ^ p) (2 ^ p)
  ⟨p, lo, lo + 16 * (i + 1)⟩

/-- log2 of a number in [1, 2) given with `p` bits after the point: `n` bits of the result by repeated
squaring, each square rounded down, or up. -/
def log2Go (up : Bool) (p : Nat) : Nat → Nat → Nat → Nat
  | 0, _, acc => acc
  | n + 1, y, acc =>
    let s := y * y
    let y2 := if up then (s + (2 ^ p - 1)) / 2 ^ p else s / 2 ^ p
    if 2 * 2 ^ p ≤ y2 then
      log2Go up p n (if up then (y2 + 1) / 2 else y2 / 2) (2 * acc + 1)
    else log2Go up p n y2 (2 * acc)

/-- Rounds the two ends of a bracket; the answer when they agree. -/
def settle (rm : RM) (neg : Bool) (e : Int) (b : Bracket) : Option (Word × Flags) :=
  let lo := deliver32 rm neg b.lo (e - b.p) true
  let hi := deliver32 rm neg b.hi (e - b.p) true
  if lo = hi then some lo else none

/-- The first precision of the list at which the bracket settles; the last bracket's lower end if none
does, which no FP32 operand reaches (log 9). -/
def settleAt (rm : RM) (neg : Bool) (e : Int) (f : Nat → Bracket) : List Nat → Word × Flags
  | [] => deliver32 rm neg (f 2048).lo (e - 2048) true
  | p :: ps =>
    match settle rm neg e (f p) with
    | some r => r
    | none => settleAt rm neg e f ps

/-- 2^x for a finite x that is not zero: exact for integers. -/
def exp2Fin (rm : RM) (neg : Bool) (m : Nat) (e : Int) : Word × Flags :=
  if 0 ≤ e then
    -- an integer; magnitudes from 2^9 leave the range at once
    let n := if 10 < e then 4096 else min (m * 2 ^ e.toNat) 4096
    deliver32 rm false 1 (if neg then -(n : Int) else n) false
  else
    let k := (-e).toNat
    let ip := m / 2 ^ k
    let fr := m % 2 ^ k
    if fr = 0 then deliver32 rm false 1 (if neg then -(min ip 4096 : Nat) else (min ip 4096 : Nat)) false
    else if 4096 ≤ ip then
      deliver32 rm false 1 (if neg then -4096 else 4096) true
    else if 60 < k ∧ m < 2 ^ (k - 40) then
      -- |x| below 2^-40: just above 1, or just below it
      if neg then deliver32 rm false (2 ^ 64 - 1) (-64) true else deliver32 rm false (2 ^ 64) (-64) true
    else if neg then
      -- 2^-(ip + fr/2^k) = 2^(-ip-1) × 2^(1 - fr/2^k)
      settleAt rm false (-(ip : Int) - 1) (exp2Bracket k (2 ^ k - fr)) [96, 192, 384, 1024]
    else settleAt rm false ip (exp2Bracket k fr) [96, 192, 384, 1024]

/-- VFEXP2 on one lane (R223, Table 2). -/
def fexp2 (rm : RM) (a : Word) : Word × Flags :=
  match f32 a with
  | .nan _ s => (nan32, { iv := s })
  | .inf n => (if n then zero32 false else inf32 false, .none)
  | .fin n m e => if m = 0 then (0x3F800000#32, .none) else exp2Fin rm n m e

/-- |log2(x)| for x = y × 2^k with y in [1, 2), y given as m / 2^b and not 1: below and above, with `p`
bits after the point. -/
def log2Bracket (k : Int) (m b p : Nat) : Bracket :=
  let w := 3 * p
  let y := m * 2 ^ (w - b)
  let lo : Int := k * (2 ^ p : Nat) + (log2Go false w p y 0 : Nat)
  let hi : Int := k * (2 ^ p : Nat) + (log2Go true w p y 0 : Nat) + 1
  if 0 ≤ lo then ⟨p, lo.toNat, hi.toNat⟩ else ⟨p, (-hi).toNat, (-lo).toNat⟩

/-- VFLOG2 on one lane (R223, Table 2). -/
def flog2 (rm : RM) (a : Word) : Word × Flags :=
  match f32 a with
  | .nan _ s => (nan32, { iv := s })
  | .inf n => if n then (nan32, .invalid) else (inf32 false, .none)
  | .fin n m e =>
    if m = 0 then (inf32 true, .none)
    else if n then (nan32, .invalid)
    else
      let b := bitLen m - 1
      let k := e + b
      if m = 2 ^ b then deliver32 rm (decide (k < 0)) k.natAbs 0 false
      else settleAt rm (decide (k < 0)) 0 (log2Bracket k m b) [128, 256, 512]

/-! ## The counter hash (R361) -/

/-- Ten rounds of Philox4x32: counter words and key words. -/
def philoxGo : Nat → Nat × Nat × Nat × Nat → Nat → Nat → Nat × Nat × Nat × Nat
  | 0, c, _, _ => c
  | n + 1, (c0, c1, c2, c3), k0, k1 =>
    let p := 0xD2511F53 * c0
    let q := 0xCD9E8D57 * c2
    philoxGo n
      ((q / 2 ^ 32) ^^^ c1 ^^^ k0, q % 2 ^ 32, (p / 2 ^ 32) ^^^ c3 ^^^ k1, p % 2 ^ 32)
      ((k0 + 0x9E3779B9) % 2 ^ 32) ((k1 + 0xBB67AE85) % 2 ^ 32)

/-- Words 0 to 3 of philox(key, ctr), `ctr` given as its high and low 64 bits. -/
def philox (key : DWord) (hi lo : DWord) : Nat × Nat × Nat × Nat :=
  philoxGo 10 (lo.toNat % 2 ^ 32, lo.toNat / 2 ^ 32, hi.toNat % 2 ^ 32, hi.toNat / 2 ^ 32)
    (key.toNat % 2 ^ 32) (key.toNat / 2 ^ 32)

/-- Word `j` of a philox block. -/
def philoxWord (key hi lo : DWord) (j : Nat) : Word :=
  let (a, b, c, d) := philox key hi lo
  BitVec.ofNat 32 (match j with | 0 => a | 1 => b | 2 => c | _ => d)

/-- Dice word `i` drawn at a counter: word i mod 4 of the block whose lane word is advanced by i / 4
(R244, R288). -/
def diceWord (key hi lo : DWord) (i : Nat) : Word :=
  let lo' := lo.extractLsb' 32 32 ++ BitVec.ofNat 32 (lo.toNat + i / 4)
  philoxWord key hi lo' (i % 4)

end Sys2Proof.Machine
end

