-- ==== Sys2Proof/Machine/Engine.lean ====
section
/-!
DEFINITION. The engines that run beside packets: scratchpad banks and their engine queues (R133, R136),
copy and reduce elements (R284 to R293), the gather engine (R200 to R206), engine faults (R399) and discards
(R424).
-/
namespace Sys2Proof.Machine

/-! ## Banks (R16, R133) -/

/-- The bank of a byte of a core's scratchpad. -/
def bankOf (a : Nat) : Fin 32 := Fin.ofNat 32 (a / 64)

/-- An access that a bank's queue has room for enters it; others wait upstream, in order. -/
def Core.enqueue (k : Core) (x : BankAcc) : Core :=
  let b := bankOf x.block
  if k.bankq[b].length < 8 ∧ !(k.upstream.any fun y => bankOf y.block == b) then
    { k with bankq := k.bankq.set b (k.bankq[b] ++ [x]) }
  else { k with upstream := k.upstream ++ [x] }

/-- The first access upstream of a bank enters its queue. -/
def Core.refill (k : Core) (b : Fin 32) : Core :=
  match k.upstream.find? fun y => bankOf y.block == b with
  | none => k
  | some x =>
    { k with bankq := k.bankq.set b (k.bankq[b] ++ [x])
             upstream := k.upstream.erase x }

/-- Consecutive elements of one key gathered, the list's order kept. -/
def groupKey {α : Type} (key : α → Nat) : List α → List (Nat × List α)
  | [] => []
  | x :: xs =>
    match groupKey key xs with
    | (k, ys) :: rest => if k = key x then (k, x :: ys) :: rest else (key x, [x]) :: (k, ys) :: rest
    | [] => [(key x, [x])]

/-- An engine's writes of bytes of a core's scratchpad, block by block. -/
def Core.enqueueWrites (k : Core) (o : AccOwner) (cells : List (Nat × Byte)) : Core :=
  (groupKey (fun c => c.1 / 64 * 64) cells).foldl (fun k g => k.enqueue ⟨o, g.1, some g.2, []⟩) k

/-- An engine's reads. -/
def Core.enqueueReads (k : Core) (o : AccOwner) (addrs : List Nat) : Core :=
  (groupKey (fun a => a / 64 * 64) addrs).foldl (fun k g => k.enqueue ⟨o, g.1, none, g.2⟩) k

/-- Accesses of some owners that have not performed leave a core's banks; those upstream move up (R424). -/
def Core.cancel (k : Core) (gone : AccOwner → Bool) : Core :=
  (k.upstream.filter fun x => !gone x.owner).foldl Core.enqueue
    { k with bankq := k.bankq.map fun q => q.filter fun x => !gone x.owner, upstream := [] }

/-- Every bank of a core with an access in its queue is to serve (R133). -/
def State.duePorts (s : State) (c : Fin 64) : State :=
  (List.finRange 32).foldl (fun (s : State) b =>
    if (s.core c).bankq[b].isEmpty || s.agenda.contains (.enginePortServe c b) then s
    else s.due (.enginePortServe c b)) s

/-- An engine's writes and reads reach a core's banks. -/
def State.portWrites (s : State) (c : Fin 64) (o : AccOwner) (cells : List (Nat × Byte)) : State :=
  (s.modCore c fun k => k.enqueueWrites o cells).duePorts c
def State.portReads (s : State) (c : Fin 64) (o : AccOwner) (addrs : List Nat) : State :=
  (s.modCore c fun k => k.enqueueReads o addrs).duePorts c

/-- The same on a core of the state. -/
def State.cancelOn (s : State) (gone : AccOwner → Bool) (c : Fin 64) : State :=
  if (s.core c).upstream.isEmpty && (s.core c).bankq.all (·.isEmpty) then s
  else (s.modCore c fun k => k.cancel gone).duePorts c

/-- An owner's accesses that have not performed leave every core's banks. -/
def State.cancelAccesses (s : State) (o : AccOwner) : State := (List.finRange 64).foldl (State.cancelOn · (· == o)) s

/-- Accesses of an owner that have not performed on a core. -/
def Core.outstanding (k : Core) (o : AccOwner) : Bool :=
  k.upstream.any (·.owner == o) || k.bankq.any fun q => q.any (·.owner == o)

/-- The same on any core. -/
def State.outstanding (s : State) (o : AccOwner) : Bool := s.cores.any (·.outstanding o)

/-! ## The fields of a copy record (R284, Table 14) -/

def recVersion (w : Vector Word 16) : Nat := bits w[0].toNat 24 8
def recKind (w : Vector Word 16) : Nat := bits w[0].toNat 16 8
def recSrc (w : Vector Word 16) : Nat := bits w[0].toNat 12 4
def recDst (w : Vector Word 16) : Nat := bits w[0].toNat 8 4
def recFlag (w : Vector Word 16) (i : Nat) : Bool := w[0].toNat.testBit i
def recSrcAddr (w : Vector Word 16) : Nat := w[1].toNat + 2 ^ 32 * w[2].toNat
def recDstAddr (w : Vector Word 16) : Nat := w[3].toNat + 2 ^ 32 * w[4].toNat
def recRows (w : Vector Word 16) : Nat := bits w[5].toNat 16 16
def recCols (w : Vector Word 16) : Nat := bits w[5].toNat 0 16
def recSrcStride (w : Vector Word 16) : Int := w[6].toInt
def recDstStride (w : Vector Word 16) : Int := w[7].toInt
def recVRows (w : Vector Word 16) : Nat := bits w[8].toNat 16 16
def recVCols (w : Vector Word 16) : Nat := bits w[8].toNat 0 16
def recSrcFmt (w : Vector Word 16) : Fmt := fmtOf (bits w[9].toNat 4 4)
def recDstFmt (w : Vector Word 16) : Fmt := fmtOf (bits w[9].toNat 0 4)
def recMode (w : Vector Word 16) : Nat := bits w[11].toNat 0 3
def recTask (w : Vector Word 16) : Nat := bits w[12].toNat 0 28

/-! ## What a row writes (R114, R287) -/

/-- FP32 1.0. -/
def oneF : FVal := .fin false 1 0

/-- An element as a write in its format leaves it: TF32 writes bits [12:0] as zero (R104). -/
def packed (f : Fmt) (x : Nat) : Nat := if f = .tf32 then x / 2 ^ 13 * 2 ^ 13 else x

/-- Element `i` in source order, converted (R114, R288). -/
def CopyElem.convert (e : CopyElem) (i x : Nat) : Nat :=
  if recFlag e.words 1 then
    let y := (scaleF (fval (recSrcFmt e.words) x) (if recFlag e.words 2 then f32 e.words[10] else oneF)).1
    (cvt y (recDstFmt e.words) (rmodeOf (recMode e.words)) (recFlag e.words 3)
      (if recMode e.words = 4 then (diceWord e.dice.1 e.dice.2.1 e.dice.2.2 i).toNat else 0)).1
  else packed (recDstFmt e.words) x

/-- How many elements row r writes: valid ones, or all of them under zero-fill (R287). -/
def CopyElem.count (e : CopyElem) (r : Nat) : Nat :=
  if recFlag e.words 4 then recCols e.words
  else if r < recVRows e.words then recVCols e.words else 0

/-- Element c of row r as it is written. -/
def CopyElem.out (e : CopyElem) (src : Nat → Byte) (r c : Nat) : Nat :=
  if r < recVRows e.words ∧ c < recVCols e.words then
    e.convert (r * recCols e.words + c) (elemAt src (fmtWidth (recSrcFmt e.words)) c)
  else 0

/-- Bytes of row r's valid source elements. -/
def CopyElem.srcBytes (e : CopyElem) (r : Nat) : Nat :=
  if r < recVRows e.words then recVCols e.words * fmtWidth (recSrcFmt e.words) / 8 else 0

/-- The bytes that row r writes, by their distance from the destination address. -/
def CopyElem.rowOut (e : CopyElem) (src : Nat → Byte) (r : Nat) : List (Int × Byte) :=
  let w := fmtWidth (recDstFmt e.words)
  let n := e.count r
  if recFlag e.words 0 then
    (List.range n).flatMap fun c =>
      (leBytes (w / 8) (e.out src r c)).mapIdx fun i b =>
        (c * recDstStride e.words + ((r * (w / 8) + i : Nat) : Int), b)
  else
    (List.range (n * w / 8)).map fun (i : Nat) =>
      (r * recDstStride e.words + (i : Int), packByte (e.out src r) w n i)

/-- A run of bytes at consecutive addresses. -/
def runs : List (Int × Byte) → List (Int × List Byte)
  | [] => []
  | (a, b) :: rest =>
    match runs rest with
    | (a', bs) :: more => if a' = a + 1 then (a, b :: bs) :: more else (a, [b]) :: (a', bs) :: more
    | [] => [(a, [b])]

/-! ## Device memory under an element or an entry -/

def memeccFault (detail : BitVec 8) (va : Nat) : EngFault := ⟨0x0E#8, detail, BitVec.ofNat 64 va, false, .read⟩
def protFault (detail : BitVec 8) (a : Nat) : EngFault := ⟨0x0C#8, detail, BitVec.ofNat 64 a, false, .read⟩
def gcapFault (va : Nat) : EngFault := ⟨0x12#8, 0x00#8, BitVec.ofNat 64 va, true, .write⟩
def rangeFault (o : Int) : EngFault := ⟨0x08#8, 0x00#8, BitVec.ofInt 64 o, false, .read⟩
def alignFault (va : Nat) : EngFault := ⟨0x0D#8, 0x00#8, BitVec.ofNat 64 va, false, .read⟩

/-- A failed translation or permission as an engine's fault. -/
def transFault (t : Trans) (va : Nat) (access : Access) : EngFault :=
  match t with
  | .bad code detail => ⟨code, detail, BitVec.ofNat 64 va, false, access⟩
  | .host => ⟨0x0B#8, 0x00#8, BitVec.ofNat 64 va, true, access⟩
  | .ecc pa => memeccFault 0x00#8 pa
  | .ok _ => ⟨0#8, 0#8, 0#64, false, access⟩

/-- The pieces of a span from a virtual address on, each with its own. -/
def atVas (va : Nat) : List (Nat × Nat) → List (Nat × Nat × Nat)
  | [] => []
  | p :: ps => (va, p.1, p.2) :: atVas (va + p.2) ps

/-- The first piece of a span that a guard forbids, by its virtual address. -/
def State.guardedAt (s : State) (t : Toucher) (va : Nat) (ps : List (Nat × Nat)) : Option Nat :=
  ((atVas va ps).find? fun p => s.guardsAgainst t p.1 p.2.1 p.2.2).map (·.1)

/-- The physical pieces of a device span for an engine of a camp, with its guards. -/
def State.engSpan (s : State) (g : Fin 8) (t : Toucher) (access : Access) (va n : Nat) :
    Except EngFault (List (Nat × Nat)) × State :=
  if s.inPipe va n then (.error (protFault 0x02#8 va), s)
  else
    match s.transSpan (some g) access va (n / 65536 + 2) n [] with
    | (.inl t, bad, s) => (.error (transFault t bad access), s)
    | (.inr pieces, _, s) =>
      match s.guardedAt t va pieces with
      | some a => (.error (protFault 0x02#8 a), s)
      | none => (.ok pieces, s)

/-- The aligned units of `u` bytes that make up `n` bytes at an address: each by its distance and its length. An access
of more than 8 bytes is single-copy atomic for each of them only (R147). -/
def alignedUnits (u a n : Nat) : List (Nat × Nat) :=
  ((List.range ((a + n + u - 1) / u - a / u)).map fun i =>
    let lo := max a ((a / u + i) * u)
    (lo - a, min (a + n) ((a / u + i + 1) * u) - lo)).filter fun x => x.2 != 0

/-- Bytes read from pieces at the home slices. -/
def State.readPieces (s : State) (g : BitVec 8) : List (Nat × Nat) → List Byte × State
  | [] => ([], s)
  | (pa, n) :: ps =>
    let (bs, s) := s.readHome g pa n
    let (rest, s) := s.readPieces g ps
    (bs ++ rest, s)

/-- An engine's read of device memory (R160, R346). -/
def State.engRead (s : State) (camp : Fin 8) (g : BitVec 8) (va n : Nat) :
    Except EngFault (List Byte) × State :=
  match s.engSpan camp .engRead .read va n with
  | (.error f, s) => (.error f, s)
  | (.ok ps, s) =>
    if ps.any fun p => s.isBad .dram p.1 p.2 then (.error (memeccFault 0x00#8 va), s)
    else
      let (bs, s) := s.readPieces g ps
      (.ok bs, s)

/-- Bytes written to pieces under a GID; what was written before a GCAP stands. -/
def State.writePieces (s : State) (g : BitVec 8) (voided : Bool) (va : Nat) :
    List (Nat × Nat) → List Byte → Option EngFault × State
  | [], _ => (none, s)
  | (pa, n) :: ps, bs =>
    match s.writeView g voided pa (bs.take n) with
    | .ok s => s.writePieces g voided va ps (bs.drop n)
    | .error (_, s) => (some (gcapFault va), s)

/-- An engine's write of device memory (R160, R345). -/
def State.engWrite (s : State) (camp : Fin 8) (g : BitVec 8) (voided : Bool) (va : Nat) (bs : List Byte) :
    Option EngFault × State :=
  if s.oddKeyWrite va bs.length then (some (alignFault va), s)
  else
    match s.engSpan camp .engWrite .write va bs.length with
    | (.error f, s) => (some f, s)
    | (.ok ps, s) => s.writePieces g voided va ps bs

/-- One addition at a home slice (R129): FP32 rounded to nearest even, or INT32. -/
def addAt (int : Bool) (old v : Word) : Word := if int then old + v else add32 old v

/-- Additions of 4-byte elements at home slices, one at a time. -/
def State.addWords (s : State) (int : Bool) (pa : Nat) : List Word → State
  | [] => s
  | v :: vs =>
    let old := BitVec.ofNat 32 (s.dram.num pa 4)
    (s.writeHome pa (leBytes 4 (addAt int old v).toNat)).addWords int (pa + 4) vs

/-- The words of a byte list. -/
def wordsOf : Nat → List Byte → List Word
  | 0, _ => []
  | n + 1, bs => BitVec.ofNat 32 (leAt bs 0 4) :: wordsOf n (bs.drop 4)

/-- A reduction into device memory (R129, R157). -/
def State.engReduce (s : State) (camp : Fin 8) (int : Bool) (va : Nat) (bs : List Byte) :
    Option EngFault × State :=
  match s.engSpan camp .engReduce .readWrite va bs.length with
  | (.error f, s) => (some f, s)
  | (.ok ps, s) =>
    if ps.any fun p => s.isBad .dram p.1 p.2 then (some (memeccFault 0x00#8 va), s)
    else
      (none, (ps.foldl (fun (x : State × List Byte) p =>
        (x.1.addWords int p.1 (wordsOf (p.2 / 4) x.2), x.2.drop p.2)) (s, bs)).1)

/-! ## Compressed images (R327, R328) -/

/-- One chunk: 256 decoded bytes and the rest of the stream. -/
def chunk : List Byte → Option ((Nat → Byte) × List Byte)
  | [] => none
  | t :: bs =>
    let need := match t.toNat with | 0 => 256 | 1 => 1 | 2 => 144 | 3 => 68 | _ => 0
    if 3 < t.toNat ∨ bs.length < need then none
    else
      let at_ (i : Nat) : Byte := bs.getD i 0#8
      let f (i : Nat) : Byte :=
        match t.toNat with
        | 0 => at_ i
        | 1 => at_ 0
        | 2 => at_ ((at_ (16 + i / 2)).toNat / 16 ^ (i % 2) % 16)
        | _ => at_ ((at_ (4 + i / 4)).toNat / 4 ^ (i % 4) % 4)
      some (f, bs.drop need)

/-- The chunks of a stream that decodes to `len` bytes; none if it is malformed. -/
def chunks : Nat → Nat → List Byte → Option (List Byte)
  | 0, _, _ => none
  | fuel + 1, len, bs =>
    if len = 0 then (if bs = [] then some [] else none)
    else
      match chunk bs with
      | none => none
      | some (f, rest) =>
        match chunks fuel (len - 256) rest with
        | none => none
        | some out => some ((List.range (min len 256)).map f ++ out)

/-- One step of the reflected CRC-32 of IEEE 802.3. -/
def crcBits : Nat → Word → Word
  | 0, c => c
  | n + 1, c => crcBits n (if c.getLsbD 0 then (c >>> 1) ^^^ 0xEDB88320#32 else c >>> 1)

/-- CRC-32 of decoded bytes (R327). -/
def crc32 (bs : List Byte) : Word :=
  (bs.foldl (fun c b => crcBits 8 (c ^^^ b.setWidth 32)) 0xFFFFFFFF#32) ^^^ 0xFFFFFFFF#32

/-- The image header's fields (R327, Table 11): format, frames, side bytes, coded length, CRC. -/
structure ImageHeader where
  fmt    : Nat
  frames : Nat
  side   : Nat
  coded  : Nat
  crc    : Word
deriving DecidableEq, Repr

/-- A header of 32 bytes, if it is sound. -/
def imageHeader (bs : List Byte) : Option ImageHeader :=
  let w := leAt bs 0 4
  if bits w 24 8 = 1 ∧ bits w 0 20 = 0 ∧ leAt bs 20 12 = 0 ∧ bits w 20 4 ≠ 15 then
    some ⟨bits w 20 4, leAt bs 4 4, leAt bs 8 4, leAt bs 12 4, BitVec.ofNat 32 (leAt bs 16 4)⟩
  else none

/-- The decoded length. -/
def ImageHeader.length (h : ImageHeader) : Nat := 16384 * h.frames + h.side

/-- The decoded bytes of a coded stream under its header; none if malformed or its CRC differs. -/
def ImageHeader.decode (h : ImageHeader) (coded : List Byte) : Option (List Byte) :=
  match chunks (h.length / 256 + 2) h.length coded with
  | none => none
  | some out => if crc32 out = h.crc then some out else none

/-! ## NVMe (R418, R419) -/

/-- A namespace of the address of a space-4 element: namespaces are 1 to 7. -/
def State.namespaceAt (s : State) (a : Nat) : Option Namespace :=
  s.drives.find? fun n => n.drive.val == bits a 46 2 && n.nsid.val == bits a 43 3 && n.nsid != 0

/-- Whether a command of the logical blocks that hold a span completes with an error: its blocks are read and written
whole. -/
def State.badBlocks (s : State) (x : Namespace) (o n : Nat) : Bool :=
  let b := if x.large then 4096 else 512
  n != 0 && s.isBad (.nvme x.drive x.nsid) (o / b * b) (((o + n - 1) / b - o / b + 1) * b)

/-- Bytes of flash, or the fault of R419. -/
def State.nvmeRead (s : State) (a n : Nat) : Except EngFault (List Byte) :=
  match s.namespaceAt a with
  | none => .error (protFault 0x03#8 a)
  | some x =>
    let o := bits a 0 43
    if x.length < o + n then .error (protFault 0x03#8 a)
    else if s.badBlocks x o n then .error (memeccFault 0x10#8 a)
    else .ok (x.data.bytes o n)

/-- A write of flash, or the fault of R419. -/
def State.nvmeWrite (s : State) (a : Nat) (bs : List Byte) : Option EngFault × State :=
  match s.namespaceAt a with
  | none => (some (protFault 0x03#8 a), s)
  | some x =>
    let o := bits a 0 43
    if x.length < o + bs.length then (some (protFault 0x03#8 a), s)
    else if s.badBlocks x o bs.length then (some (memeccFault 0x10#8 a), s)
    else
      (none, { s with drives := s.drives.map fun y =>
        if y.drive == x.drive && y.nsid == x.nsid then { y with data := y.data.setBytes o bs } else y })

/-! ## Pipes (R59, R292) -/

/-- The pipe whose push or pop address this is: its launch, its place and whether it pushes. -/
def State.pipeAt (s : State) (va : Nat) : Option (Nat × Nat × Bool) :=
  s.launches.findSome? fun l =>
    (l.2.pipes.zipIdx.findSome? fun p =>
      if l.2.state = .queued then none
      else if p.1.push.toNat = va then some (p.2, true)
      else if p.1.pop.toNat = va then some (p.2, false) else none).map fun r => (l.1, r.1, r.2)

/-- A pipe of a launch. -/
def State.pipe? (s : State) (l i : Nat) : Option Pipe := (lookupNat s.launches l).bind fun x => x.pipes[i]?

/-- A pipe's entries replaced. -/
def State.setPipe (s : State) (l i : Nat) (es : List (List Byte)) : State :=
  match lookupNat s.launches l with
  | none => s
  | some x =>
    { s with launches :=
        insertNat l { x with pipes := modifyAt (fun p => { p with entries := es }) i x.pipes } s.launches }

/-- What a pipe access waits for: room, or an entry. -/
def State.pipeReady (s : State) (p : Nat × Nat × Bool) : Bool :=
  match s.pipe? p.1 p.2.1 with
  | none => true
  | some x => if p.2.2 then decide (x.entries.length < 32) else !x.entries.isEmpty

/-! ## Elements -/

/-- The queue's first element. -/
def State.firstElem (s : State) (c : Fin 64) (q : Fin 4) : Option CopyElem :=
  (s.core c).copyq[q].elems.head?

/-- The first element replaced. -/
def State.putElem (s : State) (c : Fin 64) (q : Fin 4) (e : CopyElem) : State :=
  s.modCore c fun k =>
    let x := k.copyq[q]
    { k with copyq := k.copyq.set q { x with elems := e :: x.elems.drop 1 } }

/-- An element that meets a fault or a wait stops; its ENGINE_FAULT is due (R291, R399). -/
def State.suspend (s : State) (c : Fin 64) (q : Fin 4) (e : CopyElem) (f : EngFault) : State :=
  (s.putElem c q { e with susp := .fault f, phase := .start }).dueFault (.copy c q)

/-- Whether a span of a core's scratchpad lies inside the window of a context bound there to a launch
(R134). -/
def State.peerWindow (s : State) (c : Fin 64) (launch : Option (Fin 256)) (a n : Nat) : Bool :=
  (s.core c).ctxs.any fun x =>
    launch.isSome && x.task.map (·.launch) == launch &&
      decide (x.spbase.toNat * 4096 ≤ a) && decide (a + n ≤ x.spbase.toNat * 4096 + x.spsize.toNat)

/-- The scratchpad bytes of a span in space 1 or 3: the core and the first byte, or the fault. -/
def State.spadSpan (s : State) (c : Fin 64) (e : CopyElem) (space addr : Nat) (off : Int) (n : Nat) :
    Except EngFault (Fin 64 × Nat) :=
  if space = 1 then
    let o := (addr : Int) + off
    if 0 ≤ o ∧ o + n ≤ e.size then .ok (c, e.base + o.toNat)
    else .error (rangeFault (if o < 0 then o else max o e.size))
  else
    let core := bits addr 40 8
    let o := (bits addr 0 21 : Int) + off
    if 64 ≤ core ∨ o < 0 ∨ !s.peerWindow (Fin.ofNat 64 core) (e.task.map (·.launch)) o.toNat n then
      .error (protFault 0x03#8 (ofSigned 48 ((addr : Int) + off)))
    else .ok (Fin.ofNat 64 core, o.toNat)

/-- The view an element reads device memory under (R346): its gambit's for kinds 0x01 and 0x02 alone. -/
def CopyElem.view (e : CopyElem) : BitVec 8 := if recKind e.words = 1 ∨ recKind e.words = 2 then e.gid else 0#8

/-- A pipe of a pipe-form element: its source or its destination (R292). -/
def State.elemPipe (s : State) (e : CopyElem) : Option (Nat × Nat × Bool) :=
  if recDst e.words = 0 ∧ recSrc e.words = 1 then
    match s.pipeAt (recDstAddr e.words) with
    | some p => if p.2.2 then some p else none
    | none => none
  else if recSrc e.words = 0 ∧ recDst e.words = 1 then
    match s.pipeAt (recSrcAddr e.words) with
    | some p => if p.2.2 then none else some p
    | none => none
  else none

/-- A flash address at a distance from a record's: the drive and the namespace stay (R418). -/
def flashAddr (a : Nat) (o : Int) : Nat := a / 2 ^ 43 * 2 ^ 43 + ofSigned 43 ((a : Int) + o)

/-- The decoded source of a kind 0x02 element: header and coded stream from its source (R286, log 19); no
bytes where the stream is malformed, which then writes nothing (R8). -/
def State.elemImage (s : State) (c : Fin 64) (e : CopyElem) : Except EngFault (Option (List Byte)) × State :=
  let a := recSrcAddr e.words
  let get (s : State) (off n : Nat) : Except EngFault (List Byte) × State :=
    if recSrc e.words = 4 then (s.nvmeRead (a + off) n, s)
    else s.engRead (campOf c) e.view (ofSigned 48 ((a + off : Nat) : Int)) n
  match get s 0 32 with
  | (.error f, s) => (.error f, s)
  | (.ok h, s) =>
    match imageHeader h with
    | none => (.ok none, s)
    | some h =>
      match get s 32 h.coded with
      | (.error f, s) => (.error f, s)
      | (.ok bs, s) => (.ok (h.decode bs), s)

/-- The source bytes of a row from spaces 0 and 4, or from a decoded image. -/
def State.rowSource (s : State) (c : Fin 64) (e : CopyElem) (r : Nat) :
    Except EngFault (Option (List Byte)) × State :=
  let n := e.srcBytes r
  if recKind e.words = 2 then
    let (x, s) := s.elemImage c e
    (x.map fun b => b.map fun bs =>
      bs.drop (r * recCols e.words * fmtWidth (recSrcFmt e.words) / 8), s)
  else if n = 0 then (.ok (some []), s)
  else
    let o := r * recSrcStride e.words
    if recSrc e.words = 4 then ((s.nvmeRead (flashAddr (recSrcAddr e.words) o) n).map some, s)
    else
      match s.elemPipe e with
      | some p => (.ok ((s.pipe? p.1 p.2.1).bind fun x => x.entries.head?), s)
      | none =>
        let (x, s) := s.engRead (campOf c) e.view (ofSigned 48 ((recSrcAddr e.words : Int) + o)) n
        (x.map some, s)

/-- Canopy bytes of kind 0x04: element (k, j) as element k of block column j (R250, R286). -/
def CopyElem.canopyRow (e : CopyElem) (src : Nat → Byte) (r : Nat) (old : Nat → Byte) : List (Nat × Byte) :=
  let w := fmtWidth (recDstFmt e.words)
  let col := recRows e.words * w / 8
  (List.range (e.count r)).flatMap fun c =>
    let lo := r * w
    let first := lo / 8
    let n := (lo % 8 + w + 7) / 8
    let o := natOfBytes (fun i => old (c * col + first + i)) n
    let mask := (2 ^ w - 1) * 2 ^ (lo % 8)
    let v := (o &&& (2 ^ (8 * n) - 1 - mask)) + e.out src r c % 2 ^ w * 2 ^ (lo % 8)
    (leBytes n v).mapIdx fun i b => (c * col + first + i, b)

/-- Bytes of the issuing core's launch-owned frames (R141): place in the canopy, or the fault. -/
def State.canopyAt (s : State) (o : Int) : Except EngFault Nat :=
  if 0 ≤ o ∧ o < s.canopyC * 16384 then .ok ((1024 - s.canopyC) * 16384 + o.toNat)
  else .error (protFault 0x03#8 o.toNat)

/-- Canopy writes, stopping at the first byte outside. They stand beside the canopy until the element
finishes, so that a matrix operation can see each unit whole (R142). -/
def State.canopyWrite (s : State) (c : Fin 64) (q : Fin 4) : List (Int × Byte) → Option EngFault × State
  | [] => (none, s)
  | (o, b) :: rest =>
    match s.canopyAt o with
    | .error f => (some f, s)
    | .ok a =>
      (s.modCore c fun k => { k with canopyIn := k.canopyIn.set q (k.canopyIn[q] ++ [(a, b)]) }).canopyWrite
        c q rest

/-- A canopy byte as a queue's first element left it. -/
def Core.canopyByte (k : Core) (q : Fin 4) (a : Nat) : Byte :=
  ((k.canopyIn[q].reverse.find? fun x => x.1 == a).map (·.2)).getD (k.canopy.get a)

/-- The canopy takes what a queue's first element has written. -/
def Core.settleCanopy (k : Core) (q : Fin 4) : Core :=
  { k with canopy := k.canopy.setCells k.canopyIn[q], canopyIn := k.canopyIn.set q [] }

/-- The canopy of a core takes what a queue's first element has written, which holds no uncorrectable error any more. -/
def State.settle (s : State) (c : Fin 64) (q : Fin 4) : State :=
  (s.modCore c fun k => k.settleCanopy q).mendCells (.canopy c) (s.core c).canopyIn[q]

/-- Device-memory writes run by run, stopping at the first fault. -/
def State.runsWrite (s : State) (c : Fin 64) (e : CopyElem) : List (Int × List Byte) → Option EngFault × State
  | [] => (none, s)
  | (o, bs) :: rest =>
    let va := ofSigned 48 ((recDstAddr e.words : Int) + o)
    let r :=
      if recKind e.words = 3 then s.engReduce (campOf c) (recDstFmt e.words == .int32) va bs
      else s.engWrite (campOf c) e.gid e.voided va bs
    match r with
    | (some f, s) => (some f, s)
    | (none, s) => s.runsWrite c e rest

/-- NVMe writes run by run. -/
def State.flashWrite (s : State) (e : CopyElem) : List (Int × List Byte) → Option EngFault × State
  | [] => (none, s)
  | (o, bs) :: rest =>
    match s.nvmeWrite (flashAddr (recDstAddr e.words) o) bs with
    | (some f, s) => (some f, s)
    | (none, s) => s.flashWrite e rest

/-- Scratchpad writes run by run, through bank queues. -/
def State.spadWrites (s : State) (c : Fin 64) (q : Fin 4) (e : CopyElem) :
    List (Int × List Byte) → Option EngFault × State
  | [] => (none, s)
  | (o, bs) :: rest =>
    match s.spadSpan c e (recDst e.words) (recDstAddr e.words) o bs.length with
    | .error f => (some f, s)
    | .ok (k, a) =>
      (s.portWrites k (.copy c q e.seq) (bs.mapIdx fun i b => (a + i, b))).spadWrites c q e rest

/-- The aligned units of a row's device writes: 8 bytes, or an addition's 4 (R129, R147). -/
def CopyElem.storeUnits (e : CopyElem) (out : List (Int × List Byte)) : List (Int × List Byte) :=
  out.flatMap fun x =>
    (alignedUnits (if recKind e.words = 3 then 4 else 8) (ofSigned 48 ((recDstAddr e.words : Int) + x.1))
      x.2.length).map fun u => (x.1 + (u.1 : Int), (x.2.drop u.1).take u.2)

/-- A row's writes: the fault, if any, and the phase in which writes of it are still under way. Whether those to
device memory perform together or unit by unit is an open choice (R147; log 5). -/
def State.rowWrite (s : State) (c : Fin 64) (q : Fin 4) (e : CopyElem) (src : List Byte) (r : Nat) :
    Option EngFault × Option RowPhase × State :=
  let f (i : Nat) : Byte := src.getD i 0#8
  if recDst e.words = 2 then
    let base := recDstAddr e.words
    let cells :=
      if recKind e.words = 4 then
        (e.canopyRow f r fun i => (s.core c).canopyByte q ((1024 - s.canopyC) * 16384 + base + i)).map
          fun x => (((base + x.1 : Nat) : Int), x.2)
      else (e.rowOut f r).map fun x => ((base : Int) + x.1, x.2)
    let (x, s) := s.canopyWrite c q cells
    (x, none, s)
  else
    let out := runs (e.rowOut f r)
    if recDst e.words = 1 ∨ recDst e.words = 3 then
      let (x, s) := s.spadWrites c q e out
      (x, some .writing, s)
    else if recDst e.words = 4 then
      let (x, s) := s.flashWrite e out
      (x, none, s)
    else
      match s.elemPipe e with
      | some p =>
        match s.pipe? p.1 p.2.1 with
        | some x => (none, none, s.setPipe p.1 p.2.1 (x.entries ++ [(e.rowOut f r).map (·.2)]))
        | none => (none, none, s)
      | none =>
        let (n, s) := s.choose 2
        if n = 1 then (none, some (.storing (e.storeUnits out)), s)
        else
          let (x, s) := s.runsWrite c e out
          (x, none, s)

/-- Bytes collected from a scratchpad source, in address order from `a`. -/
def gathered (got : List (Nat × Byte)) (a n : Nat) : List Byte :=
  (List.range n).map fun i => ((got.find? fun x => x.1 == a + i).map (·.2)).getD 0#8

/-- An element has written bytes of device memory or NVMe, unless its gambit has been resolved (R385, R354). -/
def CopyElem.wrote? (e : CopyElem) (bytes : Bool) : CopyElem :=
  if bytes ∧ !e.voided ∧ [0, 4, 5].contains (recDst e.words) then { e with wrote := true } else e

/-- An element waits for a pipe, before its row (R59). -/
def State.waitPipe (s : State) (c : Fin 64) (q : Fin 4) (e : CopyElem) : State :=
  (s.putElem c q { e with susp := .pipe, phase := .start }).due (.pipeResume c q)

/-- The source has been read: the row is written. A push that finds its pipe full by now waits for room (R59). -/
def State.rowDeliver (s : State) (c : Fin 64) (q : Fin 4) (e : CopyElem) (src : List Byte) : State × Bool :=
  if (s.elemPipe e).any fun p => !s.pipeReady p then (s.waitPipe c q e, false)
  else
  let s := match s.elemPipe e with
    | some (l, i, false) =>
      match s.pipe? l i with
      | some p => s.setPipe l i (p.entries.drop 1)
      | none => s
    | _ => s
  match s.rowWrite c q e src e.row with
  | (some f, _, s) => (s.suspend c q e f, false)
  | (none, some p, s) => (s.putElem c q { e with phase := p }, true)
  | (none, none, s) => (s.putElem c q { e.wrote? (e.count e.row != 0) with row := e.row + 1, phase := .start }, true)

/-- An element whose source is malformed writes nothing (R8). -/
def State.noRows (s : State) (c : Fin 64) (q : Fin 4) (e : CopyElem) : State × Bool :=
  (s.putElem c q { e with row := recRows e.words, phase := .start }, true)

/-- Whether an element's source is device memory that is no pipe. -/
def State.fromDevice (s : State) (e : CopyElem) : Bool := recSrc e.words == 0 && (s.elemPipe e).isNone

/-- The device address at which a row's source bytes begin; a compressed stream's, for every row. -/
def CopyElem.rowVa (e : CopyElem) (r : Nat) : Nat :=
  ofSigned 48 ((recSrcAddr e.words : Int) + if recKind e.words = 2 then 0 else r * recSrcStride e.words)

/-- The bytes at `rowVa` that are read first: the row's, or a compressed stream's header. -/
def CopyElem.firstBytes (e : CopyElem) (r : Nat) : Nat := if recKind e.words = 2 then 32 else e.srcBytes r

/-- The units of a source that have been collected are all there is, but for what a stream's header names. -/
def State.fetched (s : State) (c : Fin 64) (q : Fin 4) (e : CopyElem) (got : List (Nat × Byte)) : State × Bool :=
  if recKind e.words = 2 then
    match imageHeader (gathered got 0 32) with
    | none => s.noRows c q e
    | some h =>
      if got.length = 32 ∧ h.coded ≠ 0 then
        let us := alignedUnits 8 (ofSigned 48 ((e.rowVa e.row + 32 : Nat) : Int)) h.coded
        (s.putElem c q { e with phase := .fetching got (us.map fun u => (u.1 + 32, u.2)) }, true)
      else
        match h.decode (gathered got 32 h.coded) with
        | none => s.noRows c q e
        | some bs => s.rowDeliver c q e (bs.drop (e.row * recCols e.words * fmtWidth (recSrcFmt e.words) / 8))
  else s.rowDeliver c q e (gathered got 0 (e.srcBytes e.row))

/-- One unit of a source is read; which one comes next is an open choice (R147; log 5). -/
def State.fetchUnit (s : State) (c : Fin 64) (q : Fin 4) (e : CopyElem) (got : List (Nat × Byte))
    (todo : List (Nat × Nat)) : State × Bool :=
  let (n, s) := s.choose todo.length
  match todo[n]? with
  | none => s.fetched c q e got
  | some u =>
    match s.engRead (campOf c) e.view (ofSigned 48 ((e.rowVa e.row + u.1 : Nat) : Int)) u.2 with
    | (.error f, s) => (s.suspend c q e f, false)
    | (.ok bs, s) =>
      (s.putElem c q { e with phase := .fetching (got ++ bs.mapIdx fun i b => (u.1 + i, b)) (todo.eraseIdx n) }, true)

/-- One unit of a row is written. -/
def State.storeUnit (s : State) (c : Fin 64) (q : Fin 4) (e : CopyElem) (todo : List (Int × List Byte)) :
    State × Bool :=
  let (n, s) := s.choose todo.length
  match todo[n]? with
  | none => (s.putElem c q { e with row := e.row + 1, phase := .start }, true)
  | some u =>
    match s.runsWrite c e [u] with
    | (some f, s) => (s.suspend c q e f, false)
    | (none, s) => (s.putElem c q { e.wrote? true with phase := .storing (todo.eraseIdx n) }, true)

/-- A row is read whole and delivered. -/
def State.wholeRow (s : State) (c : Fin 64) (q : Fin 4) (e : CopyElem) : State × Bool :=
  match s.rowSource c e e.row with
  | (.error f, s) => (s.suspend c q e f, false)
  | (.ok none, s) => s.noRows c q e
  | (.ok (some src), s) => s.rowDeliver c q e src

/-- The address at which a row is read, in its space's form: an offset from the window's base in space 1 (R389). -/
def CopyElem.readAt (e : CopyElem) (r : Nat) : Nat := ofSigned 48 ((recSrcAddr e.words : Int) + r * recSrcStride e.words)

/-- One move of a queue's first element; whether it moved. -/
def State.moveElem (s : State) (c : Fin 64) (q : Fin 4) : State × Bool :=
  match s.firstElem c q with
  | none => (s, false)
  | some e =>
    if !e.begun || e.susp != .none then (s, false)
    else
      match e.phase with
      | .finished => (s, false)
      | .writing =>
        if s.outstanding (.copy c q e.seq) then (s, false)
        else (s.putElem c q { e with row := e.row + 1, phase := .start }, true)
      | .reading got =>
        if s.outstanding (.copy c q e.seq) then (s, false)
        else
          match s.spadSpan c e (recSrc e.words) (recSrcAddr e.words) (e.row * recSrcStride e.words)
              (e.srcBytes e.row) with
          | .error f => (s.suspend c q e f, false)
          | .ok (_, a) => s.rowDeliver c q e (gathered got a (e.srcBytes e.row))
      | .fetching got todo => s.fetchUnit c q e got todo
      | .storing todo => s.storeUnit c q e todo
      | .start =>
        if recRows e.words ≤ e.row ∨ recCols e.words = 0 then
          (((s.putElem c q { e with phase := .finished }).settle c q).due (.copyElementComplete c q), false)
        else if (s.elemPipe e).any fun p => !s.pipeReady p then (s.waitPipe c q e, false)
        else if (recSrc e.words = 1 ∨ recSrc e.words = 3) ∧ e.srcBytes e.row ≠ 0 then
          match s.spadSpan c e (recSrc e.words) (recSrcAddr e.words) (e.row * recSrcStride e.words)
              (e.srcBytes e.row) with
          | .error f => (s.suspend c q e f, false)
          | .ok (k, a) =>
            if s.isBad (.spad k) a (e.srcBytes e.row) then
              (s.suspend c q e (memeccFault 0x00#8 (e.readAt e.row)), false)
            else
              ((s.portReads k (.copy c q e.seq) ((List.range (e.srcBytes e.row)).map (a + ·))).putElem c q
                { e with phase := .reading [] }, true)
        else if s.fromDevice e then
          let (n, s) := s.choose 2
          if n = 1 then
            (s.putElem c q { e with phase := .fetching [] (alignedUnits 8 (e.rowVa e.row) (e.firstBytes e.row)) }, true)
          else s.wholeRow c q e
        else s.wholeRow c q e

/-- An element moves on while it can. Before each row an open choice may leave it until later (log 5). -/
def State.advance (s : State) (c : Fin 64) (q : Fin 4) : Nat → State
  | 0 => s.due (.copyElementStart c q)
  | fuel + 1 =>
    match s.moveElem c q with
    | (s, false) => s
    | (s, true) =>
      let (n, s) := s.choose 2
      if n = 1 then s.due (.copyElementStart c q) else s.advance c q fuel

/-- The moves taken at once. -/
def advanceFuel : Nat := 400000

/-! ## ENGINE_PORT_SERVE (R133, R136) -/

/-- What an access brings to its owner. -/
def State.brought (s : State) (o : AccOwner) (got : List (Nat × Byte)) : State :=
  match o with
  | .copy c q seq =>
    match s.firstElem c q with
    | some e =>
      match e.phase with
      | .reading old => if e.seq = seq then s.putElem c q { e with phase := .reading (old ++ got) } else s
      | _ => s
    | none => s
  | .entry c seq =>
    s.modCtx c fun x => { x with aq := x.aq.map fun e =>
      if e.seq = seq then { e with got := e.got ++ got } else e }
  | .req _ => s

/-- The owner goes on after an access of it has performed. -/
def State.ownerMoves (s : State) : AccOwner → State
  | .copy c q _ => s.advance c q advanceFuel
  | .entry _ _ => s
  | .req _ => s

/-- The first access of a bank's queue performs. -/
def State.servePort (s : State) (c : Fin 64) (b : Fin 32) : State :=
  match (s.core c).bankq[b] with
  | [] => s
  | x :: rest =>
    let k := s.core c
    let got := x.reads.map fun a => (a, k.spad.get a)
    let ws := x.write.getD []
    let k := { k with bankq := k.bankq.set b rest, spad := k.spad.setCells ws }
    ((((s.setCore c (k.refill b)).mendCells (.spad c) ws).duePorts c).brought x.owner got).ownerMoves x.owner

/-- A bank's engine port is taken for this cycle: it serves one block per cycle (R133). -/
def State.portTaken (s : State) (c : Fin 64) (b : Fin 32) : State :=
  s.modCore c fun k => { k with portFree := k.portFree.set b (s.cycle + 1) }

/-- A bank's engine port may serve. -/
def State.portReady (s : State) (c : Fin 64) (b : Fin 32) : Bool := decide ((s.core c).portFree[b] ≤ s.cycle)

/-- ENGINE_PORT_SERVE. -/
def execEnginePortServe (c : Fin 64) (b : Fin 32) (s : State) : Out := .next ((s.portTaken c b).servePort c b)

/-- A bank's queue as it stands is served, `n` accesses of it (R136, MA). -/
def State.serveMany (s : State) (c : Fin 64) (b : Fin 32) : Nat → State
  | 0 => s
  | n + 1 => (s.servePort c b).serveMany c b n

/-- Every access now in the core's bank queues performs (R136, MA). -/
def State.serveAll (s : State) (c : Fin 64) : State :=
  let ns := (List.finRange 32).map fun b => (b, (s.core c).bankq[b].length)
  ns.foldl (fun s x => s.serveMany c x.1 x.2) s

/-! ## COPY_ELEMENT_START, COPY_ELEMENT_COMPLETE, PIPE_RESUME -/

/-- The bytes of a compressed element's source: its header's, and those of the coded stream that the header names as it
now stands (R327). -/
def State.streamLength (s : State) (c : Fin 64) (e : CopyElem) : Nat :=
  let h := if recSrc e.words = 4 then s.nvmeRead (recSrcAddr e.words) 32
    else (s.engRead (campOf c) e.view (recSrcAddr e.words) 32).1
  32 + match h with
    | .ok bs => ((imageHeader bs).map (·.coded)).getD 0
    | .error _ => 0

/-- Byte ranges an element reads or writes, for may-alias (R290): space, core, first byte, length. A canopy load
writes one block, and a compressed element reads one stream. -/
def State.elemRanges (s : State) (c : Fin 64) (e : CopyElem) (dst : Bool) : List (Nat × Nat × Nat × Nat) :=
  if dst && recKind e.words == 4 then
    [(2, c.val, recDstAddr e.words, 128 * (recRows e.words * fmtWidth (recDstFmt e.words) / 8))]
  else if !dst && recKind e.words == 2 then
    let a := recSrcAddr e.words
    [if recSrc e.words = 4 then (4, bits a 43 5, bits a 0 43, s.streamLength c e) else (0, 0, a, s.streamLength c e)]
  else
  let sp := if dst then recDst e.words else recSrc e.words
  let a := if dst then recDstAddr e.words else recSrcAddr e.words
  let w := fmtWidth (if dst then recDstFmt e.words else recSrcFmt e.words)
  let stride := if dst then recDstStride e.words else recSrcStride e.words
  let turn := dst && recFlag e.words 0
  let rows := if turn then recCols e.words else recRows e.words
  let cols := if turn then recRows e.words else recCols e.words
  (List.range rows).map fun (r : Nat) =>
    let o : Int := r * stride
    match sp with
    | 1 => (1, c.val, ((e.base + a : Nat) + o).toNat, cols * w / 8)
    | 3 => (1, bits a 40 8, ((bits a 0 21 : Nat) + o).toNat, cols * w / 8)
    | 2 => (2, c.val, ((a : Int) + o).toNat, cols * w / 8)
    | 4 => (4, bits a 43 5, ofSigned 43 ((a : Int) + o), cols * w / 8)
    | _ => (0, 0, ofSigned 48 ((a : Int) + o), cols * w / 8)

/-- Two elements' ranges overlap, at least one writing. -/
def State.elemsOverlap (s : State) (c : Fin 64) (e f : CopyElem) : Bool :=
  let hit (a b : List (Nat × Nat × Nat × Nat)) : Bool :=
    a.any fun x => b.any fun y => x.1 == y.1 && x.2.1 == y.2.1 && overlap x.2.2.1 x.2.2.2 y.2.2.1 y.2.2.2
  hit (s.elemRanges c e true) (s.elemRanges c f true) || hit (s.elemRanges c e true) (s.elemRanges c f false) ||
    hit (s.elemRanges c e false) (s.elemRanges c f true)

/-- Every element of a core's queues. -/
def Core.allElems (k : Core) : List (Fin 4 × CopyElem) :=
  (List.finRange 4).flatMap fun q => k.copyq[q].elems.map fun e => (q, e)

/-- Whether a queue's first element may begin (R158, R159, R151, R290). -/
def State.mayBegin (s : State) (c : Fin 64) (q : Fin 4) : Bool :=
  match s.firstElem c q with
  | none => true
  | some e =>
    e.begun ||
      (!(s.core c).allElems.any (fun x => e.fence.contains (x.1, x.2.seq)) && !s.awaits e.after &&
        (e.silent || (s.ctx e.owner).run != .faulted) &&
        (!recFlag e.words 7 ||
          !(s.core c).allElems.any fun x => decide (x.2.id < e.id) && s.elemsOverlap c e x.2))

/-- COPY_ELEMENT_START: the queue's first element begins, or goes on. -/
def execCopyElementStart (c : Fin 64) (q : Fin 4) (s : State) : Out :=
  match s.firstElem c q with
  | none => .next s
  | some e =>
    if !s.mayBegin c q then .next s
    else .next ((s.putElem c q { e with begun := true }).advance c q advanceFuel)

/-- The queue's first element leaves, and the next one's start is due. -/
def State.leaveQueue (s : State) (c : Fin 64) (q : Fin 4) : State :=
  let x := (s.core c).copyq[q]
  let s := s.modCore c fun k =>
    { k with copyq := k.copyq.set q { x with elems := x.elems.drop 1, comp := x.comp + 1#32 } }
  if x.elems.length ≤ 1 then s else s.due (.copyElementStart c q)

/-- A user-level interrupt waits for its context (R294). -/
def State.raiseUi (s : State) (c : CtxRef) (cookie : Word) : State :=
  (s.modCtx c fun x => { x with uiQueue := x.uiQueue ++ [cookie] }).due (.uiEntry c)

/-- COPY_ELEMENT_COMPLETE (R289, R294): the count, the decrement or the interrupt, and the sink of R385. -/
def execCopyElementComplete (c : Fin 64) (q : Fin 4) (s : State) : Out :=
  match s.firstElem c q with
  | none => .next s
  | some e =>
    if e.phase ≠ .finished then .next s
    else if recFlag e.words 5 ∧ !e.silent ∧ 16 ≤ (s.ctx e.owner).uiQueue.length then
      .next (s.putElem c q { e with susp := .interrupts })
    else
      let s := s.leaveQueue c q
      let s := if e.wrote then s.sink (e.task.map (·.launch)) else s
      if e.silent then .next s
      else if recFlag e.words 6 then
        .next (s.sendDec ((e.task.map (·.launch)).getD 0) (recTask e.words) e.words[13] (some (campOf c)) none)
      else if recFlag e.words 5 then .next (s.raiseUi e.owner e.words[13])
      else .next s

/-- PIPE_RESUME (R59): room or an entry has come. -/
def execPipeResume (c : Fin 64) (q : Fin 4) (s : State) : Out :=
  match s.firstElem c q with
  | none => .next s
  | some e =>
    if e.susp = .pipe ∧ (s.elemPipe e).all fun p => s.pipeReady p then
      .next ((s.putElem c q { e with susp := .none }).advance c q advanceFuel)
    else .next s

/-! ## Stops and resumption (R399) -/

/-- A context whose engine has met a fault that is not recoverable stops before its next packet, with its whole
set: the task's retirement is due. -/
def State.engineStop (s : State) (c : CtxRef) : State :=
  if (s.ctx c).run = .faulted then s
  else
    let s := s.modCtx c fun x => { x with engineFaulted := true, failed := some s.gptp }
    ((s.fusedSet c).foldl (fun s m => s.modCtx m fun x => { x with run := .faulted }) s).due (.faultRetire (s.leaderOf c))

/-- A queue's suspended element goes on, from the first element of its row (R291). -/
def State.resumeElem (s : State) (c : Fin 64) (q : Fin 4) : State :=
  match s.firstElem c q with
  | none => s
  | some e =>
    match e.susp with
    | .fault _ => (s.putElem c q { e with susp := .none, phase := .start }).due (.copyElementStart c q)
    | _ => s

/-- A context's suspended address queue goes on at its entry (R206). -/
def State.resumeAq (s : State) (c : CtxRef) : State :=
  match (s.ctx c).aqFault with
  | none => s
  | some (seq, _) =>
    let s := s.modCtx c fun x => { x with aqFault := none }
    if (s.ctx c).aq.any fun e => e.seq == seq && e.begun then s.due (.scatterEntryPerform c seq)
    else s.due (.gatherEntryBegin c)

/-- A fault that waits for a tagged way. -/
def EngFault.gcap (f : EngFault) : Bool := f.waits && f.code == 0x12#8

/-- The record of an engine fault in the submitting context (R399). -/
def State.engineRecord (s : State) (c : CtxRef) (src : Nat) (index : Word) (f : EngFault) : State :=
  s.modCtx c fun x =>
    { x with cause := causeWord (BitVec.ofNat 4 src) true 0 f.detail f.code, faddr := f.faddr
             finfo := BitVec.ofNat 4 src ++ index }

/-- Engines that wait for a tagged way try again: one has freed. The record is written first, if it is still due
(R399). -/
def State.resumeGcap (s : State) : State :=
  let s := (List.finRange 64).foldl (fun (s : State) (c : Fin 64) =>
    (List.finRange 4).foldl (fun (s : State) (q : Fin 4) =>
      match s.firstElem c q with
      | some e => match e.susp with
        | .fault f =>
          if f.gcap then
            (if s.faultDue (.copy c q) ∧ !e.silent then s.engineRecord e.owner (2 + q.val) (BitVec.ofNat 32 e.row) f
              else s).resumeElem c q
          else s
        | _ => s
      | none => s) s) s
  allCtxs.foldl (fun (s : State) (c : CtxRef) =>
    match (s.ctx c).aqFault with
    | some (seq, f) =>
      if f.gcap then (if s.faultDue (.address c) then s.engineRecord c 1 seq f else s).resumeAq c else s
    | none => s) s

/-! ## Discards (R424) -/

/-- Elements of a core's queue that are discarded leave it at once: their accesses that have not performed go, the
completion count grows by 1 for each, and the next element begins (R424). -/
def State.dropElems (s : State) (c : Fin 64) (q : Fin 4) (gone : CopyElem → Bool) : State :=
  let x := (s.core c).copyq[q]
  let out := x.elems.filter gone
  let kept := x.elems.filter fun e => !gone e
  let s := out.foldl (fun (s : State) e => s.cancelAccesses (.copy c q e.seq)) s
  let s := if x.elems.head?.any gone then s.settle c q else s
  let s := s.modCore c fun k =>
    { k with copyq := k.copyq.set q { x with elems := kept, comp := x.comp + BitVec.ofNat 32 out.length } }
  if out.isEmpty ∨ kept.isEmpty then s else s.due (.copyElementStart c q)

/-- An element of a context that is discarded at its retirement: not begun, or suspended by a fault or on a pipe. One
that waits for room in the list of interrupts has performed. -/
def CopyElem.goesWith (e : CopyElem) (c : CtxRef) : Bool :=
  e.owner == c && !e.silent && (!e.begun || match e.susp with
    | .fault _ | .pipe => true
    | .none | .interrupts => false)

/-- An element whose task is retired completes in silence: it raises no interrupt, and waits for none. -/
def CopyElem.silenced (e : CopyElem) : CopyElem :=
  { e with silent := true, susp := if e.susp = .interrupts then .none else e.susp }

/-- A queue's elements of a context complete in silence. -/
def State.silence (s : State) (c : CtxRef) (q : Fin 4) : State :=
  let x := (s.core c.core).copyq[q]
  let s := s.modCore c.core fun k =>
    { k with copyq := k.copyq.set q { x with elems := x.elems.map fun e => if e.owner = c then e.silenced else e } }
  if x.elems.head?.any fun e => e.owner == c && e.susp == .interrupts then s.due (.copyElementComplete c.core q) else s

/-- The elements of a context that have not begun or are suspended are discarded; its others complete in
silence (R396, R424). -/
def State.discardElems (s : State) (c : CtxRef) : State :=
  (List.finRange 4).foldl (fun (s : State) (q : Fin 4) => (s.dropElems c.core q (·.goesWith c)).silence c q) s

/-- Page faults of elements that are not suspended any more are forgotten. -/
def State.dropEngineWalks (s : State) : State :=
  { s with walks := s.walks.filter fun (w : Walk) =>
      match w.who with
      | .engine (.copy k q) => (s.firstElem k q).any fun e => e.susp != .none && e.susp != .pipe
      | .engine (.address c) => (s.ctx c).aqFault.isSome
      | _ => true }

/-- Entries of a context's address queue leave it unperformed: with them go their accesses, their reserved slots and a
fault of theirs, and the queue goes on (R206, R207). -/
def State.dropEntries (s : State) (c : CtxRef) (gone : AqEntry → Bool) : State :=
  let x := s.ctx c
  let out := (x.aq.filter gone).map (·.seq)
  let s := s.cancelOn (fun o => match o with | .entry d seq => d == c && out.contains seq | _ => false) c.core
  let met := x.aqFault.any fun f => out.contains f.1
  let s := s.modCtx c fun x =>
    { x with
      aq := x.aq.filter fun e => !gone e
      dq := x.dq.map fun d => d.filter fun y => y.data.isSome || !out.contains y.seq
      aqFault := if met then none else x.aqFault }
  let s := { s with agenda := s.agenda.filter fun i => match i with
      | .gatherDataLand d seq => !(d == c && out.contains seq)
      | .scatterEntryPerform d seq => !(d == c && out.contains seq)
      | .engineFault e => !(met && e == .address c)
      | _ => true }
  if !out.isEmpty && (s.ctx c).aq.any (fun f => !f.begun) then s.due (.gatherEntryBegin c) else s

/-! ## Late faults (R395, R349) -/

/-- An element that a request's context submitted after it, and that has not performed. -/
def CopyElem.follows (e : CopyElem) (r : Req) : Bool :=
  e.owner == r.c && !e.silent && decide (r.id < e.id) && e.phase != .finished

/-- What a context issued after a request and has not performed is discarded: accesses and requests, with their
decrements, elements and entries. -/
def State.discardLater (s : State) (r : Req) : State :=
  let old := earlier r.id s.reqs
  let gone (q : Req) : Bool :=
    q.c == r.c && !q.orphaned && q.state == .waiting && !old.any fun o => o.id == q.id
  let ids := (s.reqs.filter gone).map (·.id)
  let s := { s with
    reqs := s.reqs.filter fun q => q.id != r.id && !gone q
    decs := s.decs.filter fun d => !d.req.any ids.contains }
  let s := (List.finRange 4).foldl (fun (s : State) (q : Fin 4) => s.dropElems r.c.core q (·.follows r)) s
  (s.dropEntries r.c fun e => decide (r.cycle < e.at_)).dropEngineWalks

/-- A fault found after its packet has issued: what the context issued later and has not performed is discarded, and EPC
names the first packet that has not issued. -/
def State.lateFault (s : State) (r : Req) (cause : Cause) (faddr : DWord) : State :=
  if r.orphaned then s.dropReq r.id
  else (s.discardLater r).takeFault r.c 7 cause 0x00#8 (s.ctx r.c).pc faddr

/-- MEMECC_LOAD_FAULT (R146, R395). -/
def execMemeccLoadFault (id : Nat) (s : State) : Out :=
  match s.req? id with
  | none => .next s
  | some r =>
    match s.reqBad r with
    | none => .next s
    | some va => .next (s.lateFault r .memecc (BitVec.ofNat 64 va))

/-- The virtual address a request names first. -/
def ReqKind.va (k : ReqKind) : Nat := (k.places.head?.map (·.1)).getD 0

/-- GCAP (R349) of a GST. -/
def execGcap (id : Nat) (s : State) : Out :=
  match s.req? id with
  | none => .next s
  | some r => .next (s.lateFault r .gcap (BitVec.ofNat 64 r.kind.va))

/-! ## The gather engine (R200 to R206) -/

/-- An entry of a context's address queue. -/
def Context.entry? (x : Context) (seq : Word) : Option AqEntry := x.aq.find? fun e => e.seq == seq

/-- The entries before one. -/
def aqBefore (seq : Word) : List AqEntry → List AqEntry
  | [] => []
  | e :: es => if e.seq = seq then [] else e :: aqBefore seq es

/-- Two begun entries of one space overlap, at least one writing (R205): bytes of device memory are the same by their
physical addresses. -/
def AqEntry.meets (e f : AqEntry) : Bool :=
  let at_ (e : AqEntry) : Nat := if e.spad then e.addr.toNat else e.pa
  e.spad == f.spad && (e.kind != .gather || f.kind != .gather) && overlap (at_ e) e.size (at_ f) f.size

/-- A free data-queue slot. -/
def Context.freeSlot (x : Context) : Option (Fin 32) :=
  (List.finRange 32).find? fun i => x.dq[i].isNone

/-- The fault of an entry that begins, or the physical address of a device entry (R206). -/
def State.checkEntry (s : State) (c : CtxRef) (e : AqEntry) : Except EngFault Nat × State :=
  let a := e.addr.toNat
  let x := s.ctx c
  if a % e.size ≠ 0 then (.error (alignFault a), s)
  else if e.spad then
    if a + e.size ≤ x.spsize.toNat then
      if s.isBad (.spad c.core) (x.spbase.toNat * 4096 + a) e.size && e.kind == .gather then
        (.error (memeccFault 0x00#8 a), s)
      else (.ok 0, s)
    else (.error (rangeFault a), s)
  else
    let (t, acc) : Toucher × Access := match e.kind with
      | .gather => (.engRead, .read)
      | .scatter => (.engWrite, .write)
      | .addF | .addI => (.engReduce, .write)
    match s.engSpan (campOf c.core) t acc a e.size with
    | (.error f, s) => (.error f, s)
    | (.ok ps, s) =>
      let pa := (ps.head?.map (·.1)).getD 0
      if e.kind ≠ .scatter ∧ s.isBad .dram pa e.size then (.error (memeccFault 0x00#8 a), s)
      else (.ok pa, s)

/-- A scatter under a gambit into device memory, which GCAP may stop as it performs. DEDUCED: since no entry after a
failing one has begun (R206), such an entry begins alone: the earlier ones have performed, and later ones wait for it
(log 41). -/
def AqEntry.mayLackWay (e : AqEntry) : Bool := e.kind == .scatter && !e.spad && e.gid != 0#8 && !e.voided

/-- Whether the first entry that has not begun may begin (R202, R205). -/
def State.entryReady (s : State) (c : CtxRef) : Bool :=
  let x := s.ctx c
  match x.aq.find? fun e => !e.begun with
  | none => true
  | some e =>
    !x.aqSusp && x.run != .faulted && !s.awaits e.after &&
      (if e.kind = .gather then (x.freeSlot).isSome else e.data.isSome) &&
      !(aqBefore e.seq x.aq).any (·.mayLackWay) &&
      (match (s.checkEntry c e).1 with
        | .ok _ => !e.mayLackWay || (aqBefore e.seq x.aq).isEmpty
        | .error _ => (aqBefore e.seq x.aq).isEmpty)

/-- GATHER_ENTRY_BEGIN: the oldest entry that has not begun. -/
def execGatherEntryBegin (c : CtxRef) (s : State) : Out :=
  if !s.entryReady c then .next s
  else
    let x := s.ctx c
    match x.aq.find? fun e => !e.begun with
    | none => .next s
    | some e =>
      match s.checkEntry c e with
      | (.error f, s) =>
        .next ((s.modCtx c fun x => { x with aqFault := some (e.seq, f) }).dueFault (.address c))
      | (.ok pa, s) =>
        let slot := if e.kind = .gather then x.freeSlot else none
        let begin_ (f : AqEntry) : AqEntry :=
          if f.seq = e.seq then { f with begun := true, slot := slot, pa := pa } else f
        let s := s.modCtx c fun x =>
          { x with aq := x.aq.map begin_
                   dq := match slot with | some i => x.dq.set i (some ⟨e.seq, none⟩) | none => x.dq }
        let base := x.spbase.toNat * 4096 + e.addr.toNat
        let s :=
          if e.spad then
            match e.kind, e.data with
            | .gather, _ => s.portReads c.core (.entry c e.seq) ((List.range e.size).map (base + ·))
            | _, some (v, m) =>
              s.portWrites c.core (.entry c e.seq)
                ((List.range e.size).filterMap fun i =>
                  if laneOn m (i / 4) then some (base + i, vbyte v i) else none)
            | _, none => s
          else s
        let s := if e.kind = .gather then s.due (.gatherDataLand c e.seq)
          else s.due (.scatterEntryPerform c e.seq)
        .next (if (s.ctx c).aq.any (fun f => !f.begun) then s.due (.gatherEntryBegin c) else s)

/-- Whether a begun entry may perform: its bank accesses done, no earlier overlapping entry (R205). -/
def State.entryMay (s : State) (c : CtxRef) (seq : Word) : Bool :=
  match (s.ctx c).entry? seq with
  | none => true
  | some e =>
    e.begun &&
      (if e.spad then !(s.core c.core).outstanding (.entry c seq)
       else !(aqBefore seq (s.ctx c).aq).any fun f => f.meets e)

/-- The units of a device gather that it has still to read (R147). -/
def AqEntry.unread (e : AqEntry) : List (Nat × Nat) :=
  (alignedUnits 8 e.pa e.size).filter fun u => !e.got.any fun x => x.1 == e.pa + u.1

/-- An entry of a context's queue changed. -/
def State.modEntry (s : State) (c : CtxRef) (seq : Word) (f : AqEntry → AqEntry) : State :=
  s.modCtx c fun x => { x with aq := x.aq.map fun e => if e.seq = seq then f e else e }

/-- A gather's bytes land in its slot, and the entry leaves. A context held by VPOP for them is woken. -/
def State.landGather (s : State) (c : CtxRef) (e : AqEntry) (bs : List Byte) : State :=
  let v := vOfBytes fun i => bs.getD i 0#8
  let s := s.modCtx c fun x =>
    { x with aq := x.aq.filter (fun f => f.seq != e.seq)
             dq := match e.slot with | some i => x.dq.set i (some ⟨e.seq, some v⟩) | none => x.dq }
  (s.issueSet c).foldl (fun s m => s.wake m .pop) s

/-- GATHER_DATA_LAND (R202): the bytes land in the reserved slot, zeros above them, and the entry leaves. Whether a
gather from device memory reads its bytes together or unit by unit, and in which order, is an open choice (R147; log
5). -/
def execGatherDataLand (c : CtxRef) (seq : BitVec 32) (s : State) : Out :=
  match (s.ctx c).entry? seq with
  | none => .next s
  | some e =>
    if !s.entryMay c seq ∨ e.kind ≠ .gather then .next s
    else if e.spad then
      .next (s.landGather c e (gathered e.got ((s.ctx c).spbase.toNat * 4096 + e.addr.toNat) e.size))
    else
      let todo := e.unread
      let (n, s) := if e.got = [] ∧ 1 < todo.length then s.choose (todo.length + 1) else (0, s)
      if e.got = [] ∧ n = 0 then
        let (bs, s) := s.readHome e.gid e.pa e.size
        .next (s.landGather c e bs)
      else
        let (k, s) := if e.got = [] then (n - 1, s) else s.choose todo.length
        match todo[k]? with
        | none => .next (s.landGather c e (gathered e.got e.pa e.size))
        | some u =>
          let (bs, s) := s.readHome e.gid (e.pa + u.1) u.2
          .next ((s.modEntry c seq fun e =>
            { e with got := e.got ++ bs.mapIdx fun i b => (e.pa + u.1 + i, b) }).due (.gatherDataLand c seq))

/-- The words of the lanes that a data push left enabled, written (R203, R240). -/
def State.scatterWords (s : State) (e : AqEntry) (v : VReg) : List Nat → Except (Nat × State) State
  | [] => .ok s
  | i :: is =>
    match s.writeView e.gid e.voided (e.pa + 4 * i) (leBytes 4 (lane v i).toNat) with
    | .ok s => s.scatterWords e v is
    | .error f => .error f

/-- The same lanes added. -/
def State.addLanes (s : State) (int : Bool) (e : AqEntry) (v : VReg) (on : List Nat) : State :=
  on.foldl (fun s i => s.addWords int (e.pa + 4 * i) [lane v i]) s

/-- A scatter's lanes by the aligned unit that they are written in: 8 bytes, or an addition's 4 (R129, R147). -/
def AqEntry.laneUnits (e : AqEntry) (on : List Nat) : List (List Nat) :=
  (groupKey (fun i => if e.kind = .scatter then (e.pa + 4 * i) / 8 else i) on).map (·.2)

/-- The lanes that perform next: all that remain, or those of one unit, an open choice (R147; log 5). -/
def State.chooseLanes (s : State) (e : AqEntry) (on : List Nat) : List Nat × State :=
  let us := e.laneUnits on
  if us.length ≤ 1 then (on, s)
  else
    let (n, s) := s.choose (us.length + 1)
    (if n = 0 then on else us.getD (n - 1) on, s)

/-- A mask without lanes. -/
def dropLanes (m : Pred) (is : List Nat) : Pred := is.foldl (fun m i => m &&& ~~~(BitVec.ofNat 128 (2 ^ i))) m

/-- SCATTER_ENTRY_PERFORM (R203, R205): the entry's write, or its additions, and the sink of R385. -/
def execScatterEntryPerform (c : CtxRef) (seq : BitVec 32) (s : State) : Out :=
  match (s.ctx c).entry? seq with
  | none => .next s
  | some e =>
    if !s.entryMay c seq then .next s
    else
      let leave (s : State) : State :=
        let s := s.modCtx c fun x => { x with aq := x.aq.filter fun f => f.seq != seq }
        if (s.ctx c).aq.any (fun f => !f.begun) then s.due (.gatherEntryBegin c) else s
      match e.data with
      | none => .next s
      | some (v, m) =>
        if e.spad then .next (leave s)
        else
          let (on, s) := s.chooseLanes e ((List.range (e.size / 4)).filter (laneOn m))
          let left := dropLanes m on
          let after (s : State) : State :=
            if (List.range (e.size / 4)).any (laneOn left) then
              (s.modEntry c seq fun e => { e with data := some (v, left) }).due (.scatterEntryPerform c seq)
            else leave (if e.voided then s else s.sink ((s.ctx c).task.map (·.launch)))
          match e.kind with
          | .gather => .next s
          | .scatter =>
            match s.scatterWords e v on with
            | .ok s => .next (after s)
            | .error (_, s) =>
              .next ((s.modCtx c fun x =>
                { x with aqFault := some (seq, gcapFault e.addr.toNat) }).dueFault (.address c))
          | .addF => .next (after (s.addLanes false e v on))
          | .addI => .next (after (s.addLanes true e v on))

end Sys2Proof.Machine
end

