-- ==== Sys2Proof/Machine/Spad.lean ====
section
/-!
DEFINITION. The scratchpad window as packets reach it: the checks at issue of R132, R208 and R214, pending
bits (R137), reads and writes and their order with the engines' accesses (R135, R136).
-/
namespace Sys2Proof.Machine

/-! ## Reads and writes -/

/-- The first byte of a context's window in its core's scratchpad (R131). -/
def Context.windowBase (x : Context) : Nat := x.spbase.toNat * 4096

/-- The writes queued at the engine port for a block, oldest first. -/
def Core.queuedWrites (k : Core) (block : Nat) : List (List (Nat × Byte)) :=
  k.bankq[bankOf block].filterMap fun x => if x.block = block then x.write else none

/-- The blocks of addresses that have queued writes. -/
def Core.racedBlocks (k : Core) (addrs : List Nat) : List Nat :=
  if k.bankq.all (·.isEmpty) then []
  else ((addrs.map fun a => a / 64 * 64).eraseDups).filter fun b => !(k.queuedWrites b).isEmpty

/-- Cells of raced blocks, each as it stands after some of its queued writes: an open choice block by block
(R136; log 5). -/
def State.raceCells (s : State) (c : Fin 64) : List Nat → List (Nat × Byte) × State
  | [] => ([], s)
  | b :: bs =>
    let ws := (s.core c).queuedWrites b
    let (n, s) := s.choose (ws.length + 1)
    let (rest, s) := s.raceCells c bs
    ((ws.take n).flatten ++ rest, s)

/-- The last of the cells at an address. -/
def lastCell (cells : List (Nat × Byte)) (a : Nat) : Option Byte :=
  (cells.reverse.find? fun c => c.1 == a).map (·.2)

/-- What the executing core's scratchpad holds at addresses that a packet reads. Under MA the accesses in the
bank queues perform first (R136). -/
def State.spadRead (s : State) (ma : Bool) (addrs : List Nat) : (Nat → Byte) × State :=
  let c := s.focus.c.core
  if ma then
    let s := s.serveAll c
    (fun a => (s.core c).spad.get a, s)
  else
    match (s.core c).racedBlocks addrs with
    | [] => (fun a => (s.core c).spad.get a, s)
    | bs =>
      let (cells, s') := s.raceCells c bs
      (fun a => (lastCell cells a).getD ((s.core c).spad.get a), s')

/-- How many accesses of a bank's queue stand up to the n-th access of a block. -/
def upToNth (block : Nat) : Nat → List BankAcc → Nat
  | 0, _ => 0
  | _, [] => 0
  | n + 1, x :: xs => if x.block = block then 1 + upToNth block n xs else 1 + upToNth block (n + 1) xs

/-- A store without MA is unordered with the queued accesses of each block it writes: some of them perform
before it (R136; log 5). -/
def State.raceStore (s : State) (c : Fin 64) : List Nat → State
  | [] => s
  | b :: bs =>
    let q := (s.core c).bankq[bankOf b]
    let m := (q.filter fun x => x.block == b).length
    if m = 0 then s.raceStore c bs
    else
      let (n, s) := s.choose (m + 1)
      (s.serveMany c (bankOf b) (upToNth b n q)).raceStore c bs

/-- A packet's scratchpad write: it waits for the end of the packet's issue (R135). -/
def State.spadWrite (s : State) (ma : Bool) (cells : List (Nat × Byte)) : State :=
  let c := s.focus.c.core
  let s :=
    if ma then s.serveAll c
    else if (s.core c).bankq.all (·.isEmpty) then s
    else s.raceStore c ((cells.map fun x => x.1 / 64 * 64).eraseDups)
  { s with focus := { s.focus with stores := s.focus.stores ++ cells.map fun x => (c, x.1, x.2) } }

/-- Writes applied core by core, in order: the later, of the higher position, remains. -/
def applyStores (s : State) : List (Fin 64 × Nat × Byte) → State
  | [] => s
  | (c, a, b) :: rest => applyStores ((s.modCore c fun k => { k with spad := k.spad.set a b }).mend (.spad c) a 1) rest

/-- The packet's writes perform, in position order: the higher position's byte remains. -/
def State.performStores (s : State) : State :=
  { applyStores s s.focus.stores with focus := { s.focus with stores := [] } }

/-! ## Pending bits (R137) -/

/-- Whether an element has a row yet to write that covers a word of its submitting context's window, named by space 1,
or by space 3 with its own core (R134, R137). -/
def CopyElem.willWrite (e : CopyElem) (a : Nat) : Bool :=
  let w := fmtWidth (recDstFmt e.words)
  let from_ := if e.phase = .writing then e.row + 1 else e.row
  let hits (o : Int) (n : Nat) : Bool :=
    let b := (if recDst e.words = 1 then e.base + recDstAddr e.words else bits (recDstAddr e.words) 0 21 : Nat) + o
    decide (b < (a : Int) + 4) && decide ((a : Int) < b + n)
  (recDst e.words == 1 || recDst e.words == 3 && bits (recDstAddr e.words) 40 8 == e.owner.core.val) && (List.range (recRows e.words)).any fun (r : Nat) =>
    decide (from_ ≤ r) &&
      if recFlag e.words 0 then
        (List.range (e.count r)).any fun (c : Nat) =>
          hits (c * recDstStride e.words + ((r * (w / 8) : Nat) : Int)) (w / 8)
      else hits (r * recDstStride e.words) (e.count r * w / 8)

/-- An access of an engine that the context's own Q operations started. -/
def State.ownAccess (s : State) (c : CtxRef) : AccOwner → Bool
  | .copy k q seq =>
    k == c.core && (s.core k).copyq[q].elems.any fun e => e.seq == seq && e.owner == c
  | .req id => s.reqs.any fun r => r.id == id && r.c == c
  | .entry _ _ => false

/-- A write access that covers a word. -/
def BankAcc.writesWord (x : BankAcc) (a : Nat) : Bool :=
  x.block == a / 64 * 64 && match x.write with
    | some ws => ws.any fun w => decide (a ≤ w.1) && decide (w.1 < a + 4)
    | none => false

/-- Whether a word's pending bit traps a read by the executing context. -/
def State.pendingTrap (s : State) (ma : Bool) (a : Nat) : Bool :=
  let c := s.focus.c
  let k := s.core c.core
  k.allElems.any (fun x => x.2.owner == c && x.2.willWrite a) ||
    s.reqs.any (fun r => r.c == c && !r.orphaned && r.outs.any fun o => overlap o.1 o.2 a 4) ||
    k.upstream.any (fun x => x.writesWord a && s.ownAccess c x.owner) ||
    (!ma && k.bankq[bankOf a].any fun x => x.writesWord a)

/-! ## Checks at issue (R132, R208, R214) -/

/-- The lowest offset of a list that a test picks out. -/
def lowest (bad : Int → Bool) (os : List Int) : Option Int :=
  (os.filter bad).foldl (fun m o => match m with | none => some o | some x => some (min x o)) none

/-- An offset as FADDR holds it, sign-extended. -/
def offAddr (o : Int) : DWord := BitVec.ofInt 64 o

/-- Whether bytes [o, o+n) lie outside the window (R132). -/
def Context.outside (x : Context) (n : Nat) (o : Int) : Bool :=
  decide (o < 0) || decide ((x.spsize.toNat : Int) < o + n)

/-- The lowest byte of a failing access that lies outside (R132). -/
def Context.firstOutside (x : Context) (o : Int) : Int :=
  if o < 0 then o else max o x.spsize.toNat

/-- An access's checks in the order of R208 for elements of `n` bytes at offsets of active lanes. `limit`
holds for stack stores. `k` gets the bytes' first addresses. -/
def State.withSpad (s : State) (align n : Nat) (limit : Bool) (os : List Int) (k : List Nat → Out) : Out :=
  let x := s.me
  match lowest (fun o => o % align != 0) os with
  | some o => s.raise .align (offAddr o)
  | none =>
    match lowest (fun o => limit && decide (o < x.splim.toNat)) os with
    | some o => s.raise .stacklimit (offAddr o)
    | none =>
      match lowest (x.outside n) os with
      | some o => s.raise .spadrange (offAddr (x.firstOutside o))
      | none => k (os.map fun o => x.windowBase + o.toNat)

/-- Bytes [a, a+n) for each address. -/
def spread (n : Nat) (as : List Nat) : List Nat := as.flatMap fun a => (List.range n).map (a + ·)

/-- A read of elements of `n` bytes at addresses already checked: MEMECC for an uncorrectable byte (R146),
else what they hold. -/
def State.readElems (s : State) (ma : Bool) (n : Nat) (as : List Nat) (k : (Nat → Byte) → State → Out) : Out :=
  match as.find? fun a => s.isBad (.spad s.focus.c.core) a n with
  | some a => s.raise .memecc (BitVec.ofNat 64 (a - s.me.windowBase))
  | none =>
    let (f, s) := s.spadRead ma (if (s.core s.focus.c.core).bankq.all (·.isEmpty) then [] else spread n as)
    k f s

/-- An L load's pending check, by words of active lanes (R137). -/
def State.withPending (s : State) (ma : Bool) (as : List Nat) (k : Out) : Out :=
  if s.me.pendchk then
    match (as.map fun a => a / 4 * 4).find? fun a => s.pendingTrap ma a with
    | some _ =>
      let low := (as.map fun a => a / 4 * 4).filter (s.pendingTrap ma)
      s.raiseD .earlyread 0x02#8 (BitVec.ofNat 64 (low.foldl min (low.headD 0) - s.me.windowBase))
    | none => k
  else k

/-- The n-byte little-endian number at an address of what was read. -/
def readNum (f : Nat → Byte) (a n : Nat) : Nat := natOfBytes (fun i => f (a + i)) n

/-- Bytes of a scratchpad record or operand that a Q operation reads at issue (R135, R269): alignment, the
window, then the bytes. -/
def State.withRecord (s : State) (align n o : Nat) (k : List Byte → State → Out) : Out :=
  s.withSpad align n false [(o : Int)] fun as =>
    s.readElems false n as fun f s => k ((List.range n).map fun i => f (s.me.windowBase + o + i)) s

end Sys2Proof.Machine
end

