-- ==== Sys2Proof/Machine/Matrix.lean ====
section
/-!
DEFINITION. The M slot (P5): R248 to R256 and R262 to R267 of spec/19_matrix_instructions.md, R118 to R120,
R138 to R142.
-/
namespace Sys2Proof.Machine

/-! ## Descriptors (R249) -/

/-- A row descriptor. -/
structure RowDesc where
  row0   : Nat
  n      : Nat
  stride : Nat
  base   : Nat
deriving DecidableEq, Repr

/-- A block descriptor. -/
structure BlockDesc where
  side  : Nat
  lo    : Bool
  frame : Nat
deriving DecidableEq, Repr

/-- A descriptor of row kind with clean reserved bits. -/
def rowDesc (d : DWord) : Option RowDesc :=
  let n := d.toNat
  if n / 2 ^ 51 = 0 then some ⟨bits n 44 7, bits n 37 7 + 1, bits n 21 16, bits n 0 21⟩ else none

/-- A descriptor of block kind with clean reserved bits. -/
def blockDesc (d : DWord) : Option BlockDesc :=
  let n := d.toNat
  if bits n 60 4 = 4 ∧ !n.testBit 10 then some ⟨bits n 12 48, n.testBit 11, bits n 0 10⟩ else none

/-- Table 4: a descriptor with one field moved. -/
def maddDesc (aux : Bool) (d : DWord) (imm : Int) : DWord :=
  let n := d.toNat
  let put (lo w : Nat) (step : Int) : DWord :=
    BitVec.ofNat 64 (n - bits n lo w * 2 ^ lo + ofSigned w (bits n lo w + step * imm) * 2 ^ lo)
  match bits n 62 2 with
  | 0 => if aux then put 44 7 1 else put 0 21 32
  | 1 => if aux then put 12 48 32 else put 0 10 1
  | _ => d

/-! ## Accumulator handles (R138, R139, R262) -/

/-- The handles that the task's template reserves. -/
def Context.handles (x : Context) : Nat := (x.task.map (·.h)).getD 0

/-- The slots a context holds. -/
def Context.held (x : Context) : Nat := (x.acc.toList.filter (·.isSome)).length

/-- Whether an operation on a handle raises ACCRANGE. -/
def Context.accBad (x : Context) (h : Fin 16) (write : Bool) : Bool :=
  decide (x.handles ≤ h.val) || write && (x.acc[h]).isNone && decide (min x.handles 8 ≤ x.held)

/-- A free slot of a core. DESIGN CHOICE: R139 does not say which free slot is taken: the lowest is (log 45). -/
def Core.freeAcc (k : Core) : Option (Fin 8) := (List.finRange 8).find? fun i => !k.slotTaken[i]

/-- A write of a handle: checked, and bound to a slot that reads as zero if it holds none. -/
def State.withAcc (s : State) (h : Fin 16) (k : Fin 8 → State → Out) : Out :=
  let x := s.me
  if x.accBad h true then s.raise .accrange (BitVec.ofNat 64 h.val)
  else match x.acc[h] with
  | some slot => k slot s
  | none =>
    match s.mine.freeAcc with
    | none => s.raise .accrange (BitVec.ofNat 64 h.val)
    | some slot =>
      let s := s.setMe { x with acc := x.acc.set h (some slot) }
      k slot ((s.modCore s.focus.c.core fun k =>
        { k with slotTaken := k.slotTaken.set slot true, tiles := zeroTile k.tiles slot }).mend (.acc s.focus.c.core)
          (slot.val * 128) 128)

/-! ## Checks 1, 3 and 4 of R267 -/

/-- A descriptor check that fails. -/
def State.badDesc (s : State) : Out := s.raiseD .illegal 0x18#8 (pcAddr s.me.pc)

/-- Rows of a descriptor: alignment, the side array's alignment, then the window. `k` gets the first byte of
each row in the scratchpad. DESIGN CHOICE: of several misaligned fields R267 does not say which is reported: BASE comes
before STRIDE and STRIDE before SIDE, and FADDR holds the field's own value, STRIDE's too (log 45). -/
def State.withRows (s : State) (r : RowDesc) (side : Option Nat) (rowBytes : Nat) (k : List Nat → Out) : Out :=
  if r.base % 32 ≠ 0 then s.raise .align (BitVec.ofNat 64 r.base)
  else if r.stride % 32 ≠ 0 then s.raise .align (BitVec.ofNat 64 r.stride)
  else match side with
  | some v =>
    if v % 32 ≠ 0 then s.raise .align (BitVec.ofNat 64 v)
    else s.withSpad 1 rowBytes false ((List.range r.n).map fun i => ((r.base + i * r.stride : Nat) : Int)) k
  | none => s.withSpad 1 rowBytes false ((List.range r.n).map fun i => ((r.base + i * r.stride : Nat) : Int)) k

/-! ## The block (R140 to R142, R250) -/

/-- The elements of a K-block and the added port delay (Table 3). -/
def kBlock (fa fb : Fmt) : Nat × Nat :=
  let w := max (fmtWidth fa) (fmtWidth fb)
  if w ≤ 6 then (256, 0) else if w ≤ 8 then (128, 0) else if w ≤ 16 then (64, 2) else (32, 4)

/-- The physical first frame of a block, if its frames lie in their range (check 5). -/
def State.blockFrame (s : State) (b : BlockDesc) (frames : Nat) : Option Nat :=
  if b.lo then if b.frame + frames ≤ s.canopyC then some (1024 - s.canopyC + b.frame) else none
  else if b.frame + frames ≤ 1024 - s.canopyC then some b.frame else none

/-- The 16-byte unit of a block's columns of `col` bytes in which a byte of the canopy lies: a column's units are
counted from its own start (R142). `a` is the block's first byte. -/
def blockUnit (a col x : Nat) : Nat × Nat := ((x - a) / col, (x - a) % col / 16)

/-- Whether an element has a row yet to write that touches a unit of a block. -/
def CopyElem.touchesUnit (e : CopyElem) (first a n col : Nat) (unit : Nat × Nat) : Bool :=
  let hit (x : Nat) : Bool := decide (a ≤ x) && decide (x < a + n) && blockUnit a col x == unit
  (List.range (recRows e.words)).any fun r =>
    decide (e.row ≤ r) &&
      (if recKind e.words = 4 then
        (e.canopyRow (fun _ => 0#8) r fun _ => 0#8).any fun x => hit (first + recDstAddr e.words + x.1)
       else
        (e.rowOut (fun _ => 0#8) r).any fun x => hit ((first + recDstAddr e.words : Nat) + x.1).toNat)

/-- Units of the canopy that a queue's first element has written whole: each is seen as it was or as it will
be (R142; log 5). -/
def State.unitCells (s : State) (a col : Nat) (cells : List (Nat × Byte)) :
    List (Nat × Nat) → List (Nat × Byte) × State
  | [] => ([], s)
  | u :: us =>
    let (n, s) := s.choose 2
    let (rest, s) := s.unitCells a col cells us
    ((if n = 1 then cells.filter fun x => blockUnit a col x.1 == u else []) ++ rest, s)

/-- What a matrix operation reads of a core's canopy: the block from byte `a` on, in columns of `col` bytes. -/
def State.canopyRead (s : State) (c : Fin 64) (a n col : Nat) : (Nat → Byte) × State :=
  let k := s.core c
  if k.canopyIn.all (·.isEmpty) then (fun i => k.canopy.get (a + i), s)
  else
    let first := (1024 - s.canopyC) * 16384
    let (new, s) := (List.finRange 4).foldl (fun (x : List (Nat × Byte) × State) (q : Fin 4) =>
      let cells := k.canopyIn[q].filter fun y => decide (a ≤ y.1) && decide (y.1 < a + n)
      let units := ((cells.map fun y => blockUnit a col y.1).eraseDups).filter fun u =>
        !(k.copyq[q].elems.head?.any fun e => e.touchesUnit first a n col u)
      let (got, s) := x.2.unitCells a col cells units
      (x.1 ++ got, s)) ([], s)
    (fun i => (lastCell new (a + i)).getD (k.canopy.get (a + i)), s)

/-! ## The side array (R163, R255) -/

/-- The bytes of a side array through the metadata cache, sector by sector; a miss holds the core for a fill,
or for a walk. -/
def State.withSide (s : State) (va : Nat) (k : List Byte → Out) : Nat → Nat → List Byte → Out
  | 0, _, acc => k acc
  | n + 1, i, acc =>
    let a := (va + 32 * i) % 2 ^ 48
    match lookupNat s.mine.metaCache (a / 32) with
    | some bs => s.withSide va k n (i + 1) (acc ++ bs)
    | none =>
      s.withPage a 32 .read .load fun _ =>
        .next ((s.holdFor (.side (BitVec.ofNat 48 a))).due (.shadowReturn s.focus.c))

/-! ## Partial sums (R119, R120, R254) -/

/-- The exact sum of the products of a row and a column; `term k` is the pair of operands of product k. -/
def dotF (term : Nat → FVal × FVal) (k : Nat) : ExSum :=
  exactSum ((List.range k).map fun i => prodF (term i).1 (term i).2)

/-- A group sum scaled by 2^(c-127). -/
def ExSum.scale : ExSum → Int → FVal
  | .nan, _ => .nan false false
  | .inf n, _ => .inf n
  | .num n e, x => dyadic n (e + x) false

/-- The integer of an exact integer value. -/
def intOf : FVal → Int
  | .fin neg m _ => if neg then -(m : Int) else m
  | _ => 0

/-- One partial sum without sub-scales. -/
def psum (ints : Bool) (term : Nat → FVal × FVal) (k : Nat) : Word :=
  if ints then BitVec.ofInt 32 (((List.range k).map fun i => intOf (term i).1 * intOf (term i).2).foldl (· + ·) 0)
  else round32 (dotF term k).val

/-- One partial sum under MX: the groups of 32 scaled and added exactly. -/
def psumMx (term : Nat → FVal × FVal) (scale : Nat → Nat) (k : Nat) : Word :=
  if (List.range (k / 32)).any fun g => scale g == 255 then nan32
  else
    round32 (exactSum ((List.range (k / 32)).map fun g =>
      (dotF (fun i => term (32 * g + i)) 32).scale ((scale g : Int) - 127))).val

/-- A stream that begins: R252 gives its delay, R253 its window. -/
def Context.streamAt (x : Context) (n lb dw : Nat) (ints : Bool) (rows : List VReg) : Stream :=
  ⟨x.clock, x.clock + max n lb, x.clock + 20 + dw + (lb - 8), ints, rows, false⟩

/-- Whether a new stream keeps R253 beside those under way. -/
def Context.streamFits (x : Context) (n lb dw : Nat) : Bool :=
  let y := x.streamAt n lb dw false []
  x.streams.all fun st => decide (st.free ≤ y.issued) && decide (st.port + st.rows.length ≤ y.port)

/-- The new stream; those whose window has passed are discarded (R259). -/
def Context.addStream (x : Context) (y : Stream) : Context :=
  { x with streams := (x.streams.filter fun st =>
      decide (x.clock < st.free) || decide (x.clock < st.port + st.rows.length)) ++ [y] }

/-- Whether a float format or an integer format. -/
def isIntFmt (f : Fmt) : Bool := (intSpec f).isSome

/-- The rows of a matrix operation: `el i j` is the partial sum of row i and column j. -/
def psumRows (n : Nat) (el : Nat → Nat → Word) : List VReg := (List.range n).map fun i => lanes (el i)

/-! ## MMA and MMAS (R251, R254) -/

def execMma (mx : Bool) (mA mB : Fin 16) (fa fb : Fmt) (s : State) : Out :=
  let x := s.me
  match rowDesc x.m[mA], blockDesc x.m[mB] with
  | some a, some b =>
    let (k, dw) := kBlock fa fb
    let rowBytes := k * fmtWidth fa / 8
    let colBytes := k * fmtWidth fb / 8
    let lb := (colBytes + 15) / 16
    if !x.streamFits a.n lb dw then s.badDesc
    else
      s.withRows a (if mx then some b.side else none) rowBytes fun as =>
        match s.blockFrame b ((128 * colBytes + 16383) / 16384) with
        | none => s.raiseD .protection 0x03#8 (BitVec.ofNat 64 b.frame)
        | some f =>
          s.withSide b.side (fun side =>
            s.readElems false rowBytes as fun rd s =>
              if s.isBad (.canopy s.focus.c.core) (f * 16384) (128 * colBytes) then
                s.raise .memecc (BitVec.ofNat 64 (f * 16384))
              else
                let (blk, s) := s.canopyRead s.focus.c.core (f * 16384) (128 * colBytes) colBytes
                let arow (i e : Nat) : FVal :=
                  fval fa (elemAt (fun y => rd (x.windowBase + a.base + i * a.stride + y)) (fmtWidth fa) e)
                let bcol (j e : Nat) : FVal :=
                  fval fb (elemAt (fun y => blk (j * colBytes + y)) (fmtWidth fb) e)
                let el (i j : Nat) : Word :=
                  let term (e : Nat) := (arow i e, bcol j e)
                  if mx then psumMx term (fun g => (side.getD (j * (k / 32) + g) 0#8).toNat) k
                  else psum (isIntFmt fa) term k
                .next (s.setMe (s.me.addStream (s.me.streamAt a.n lb dw (isIntFmt fa) (psumRows a.n el)))))
            (if mx then 128 * (k / 32) / 32 else 0) 0 []
  | _, _ => s.badDesc

/-- The places of a mask's one bits, in order. -/
def maskPlaces (m : Byte) : List Nat := (List.range 8).filter fun e => m.getLsbD e

/-- The A element that kept element n of a column meets (R254). -/
def sparseIndex (side : List Byte) (j n : Nat) : Nat :=
  8 * (n / 4) + (maskPlaces (side.getD (32 * j + n / 4) 0#8)).getD (n % 4) 0

def execMmas (mA mB : Fin 16) (fa fb : Fmt) (s : State) : Out :=
  let x := s.me
  match rowDesc x.m[mA], blockDesc x.m[mB] with
  | some a, some b =>
    if !x.streamFits a.n 8 0 then s.badDesc
    else
      s.withRows a (some b.side) 256 fun as =>
        match s.blockFrame b 1 with
        | none => s.raiseD .protection 0x03#8 (BitVec.ofNat 64 b.frame)
        | some f =>
          s.withSide b.side (fun side =>
            match firstBelow (fun i => (maskPlaces (side.getD i 0#8)).length != 4) 4096 with
            | some i => s.raise .metadata (BitVec.ofNat 64 ((b.side + i) % 2 ^ 48))
            | none =>
              s.readElems false 256 as fun rd s =>
                if s.isBad (.canopy s.focus.c.core) (f * 16384) 16384 then
                  s.raise .memecc (BitVec.ofNat 64 (f * 16384))
                else
                  let (blk, s) := s.canopyRead s.focus.c.core (f * 16384) 16384 128
                  let arow (i e : Nat) : FVal :=
                    fval fa (elemAt (fun y => rd (x.windowBase + a.base + i * a.stride + y)) 8 e)
                  let bcol (j e : Nat) : FVal := fval fb (elemAt (fun y => blk (j * 128 + y)) 8 e)
                  let el (i j : Nat) : Word :=
                    psum (isIntFmt fa) (fun n => (arow i (sparseIndex side j n), bcol j n)) 128
                  .next (s.setMe (s.me.addStream (s.me.streamAt a.n 8 0 (isIntFmt fa) (psumRows a.n el)))))
            128 0 []
  | _, _ => s.badDesc

/-! ## AZERO and AREL (R262) -/

def execAzero (acc : Fin 16) (s : State) : Out :=
  s.withAcc acc fun slot s => .next (s.land 1 (.zeroTile slot))

/-- Whether a result in flight writes rows of a slot. -/
def RegWrite.ofSlot (w : RegWrite) (slot : Fin 8) : Bool :=
  match w with
  | .promRow t _ _ _ _ => t == slot
  | .aldRow t _ _ => t == slot
  | .zeroTile t => t == slot
  | _ => false

/-- A context without the results in flight to a slot. DESIGN CHOICE: R262 names promote rows; rows of an ALD and an
AZERO in flight to the slot are discarded with them (log 45). -/
def Context.dropRows (x : Context) (slot : Fin 8) : Context :=
  { x with landings := x.landings.filter (fun l => !l.write.ofSlot slot)
           frozen := x.frozen.map fun f =>
             { f with landings := f.landings.filter fun l => !l.write.ofSlot slot } }

/-- A slot goes back to the free list, and rows in flight to it are discarded. -/
def State.releaseAcc (s : State) (c : CtxRef) (h : Fin 16) : State :=
  match (s.ctx c).acc[h] with
  | none => s
  | some slot =>
    let s := s.modCtx c fun x => { x.dropRows slot with acc := x.acc.set h none }
    s.modCore c.core fun k =>
      { k with slotTaken := k.slotTaken.set slot false, tiles := zeroTile k.tiles slot }

def execArel (acc : Fin 16) (s : State) : Out :=
  if s.me.accBad acc false then s.raise .accrange (BitVec.ofNat 64 acc.val)
  else .next (s.releaseAcc s.focus.c acc)

/-! ## ACPY and ALD (R263, R264) -/

/-- A row descriptor whose rows lie in a tile. -/
def tileDesc (d : DWord) : Option RowDesc :=
  match rowDesc d with
  | some r => if r.row0 + r.n ≤ 128 then some r else none
  | none => none

/-- One element of ACPY. -/
def acpyElem (rm : RM) (sat i : Bool) (f : Fmt) (w : Word) : Nat :=
  let same := if i then f == .int32 else f == .fp32
  if same then w.toNat
  else (cvt (if i then intVal w.toInt else f32 w) f (.det rm) sat 0).1

def execAcpy (rm : RM) (sat i : Bool) (acc : Fin 16) (a : RK 16) (fmt : Fmt) (s : State) : Out :=
  let x := s.me
  match tileDesc (x.mSrc a) with
  | none => s.badDesc
  | some r =>
    if x.accBad acc false then s.raise .accrange (BitVec.ofNat 64 acc.val)
    else
      let w := fmtWidth fmt
      s.withRows r none (16 * w) fun as =>
        let row (n : Nat) : VReg :=
          match x.acc[acc] with
          | some slot => tileRow s.mine.tiles slot (r.row0 + n)
          | none => splat 0#32
        .next (s.spadWrite false (as.zipIdx.flatMap fun (p, n) =>
          let v := row n
          (List.range (16 * w)).map fun b =>
            (p + b, packByte (fun j => acpyElem rm sat i fmt (lane v j)) w 128 b)))

/-- One element of ALD. -/
def aldElem (f : Fmt) (x : Nat) : Word :=
  match f with
  | .bf16 | .fp16 => round32 (fval f x)
  | _ => BitVec.ofNat 32 x

def execAld (acc : Fin 16) (a : RK 16) (fmt : Fmt) (s : State) : Out :=
  let x := s.me
  match tileDesc (x.mSrc a) with
  | none => s.badDesc
  | some r =>
    if x.accBad acc true then s.raise .accrange (BitVec.ofNat 64 acc.val)
    else
      let w := fmtWidth fmt
      s.withRows r none (16 * w) fun as =>
        s.readElems false (16 * w) as fun rd s =>
          s.withAcc acc fun slot s =>
            .next ((as.zipIdx.foldl (fun (s : State) (p : Nat × Nat) =>
              s.land 8 (.aldRow slot (Fin.ofNat 128 (r.row0 + p.2))
                (lanes fun j => aldElem fmt (elemAt (fun y => rd (p.1 + y)) w j)))) s))

/-! ## Descriptors (R256) -/

/-- MSET.PF: the metadata cache fills the 4 KiB at SIDE, so far as it can; whether it does before a later
operation needs it is an open choice (log 5). -/
def State.prefetchSide (s : State) (d : DWord) : State :=
  match blockDesc d with
  | none => s
  | some b =>
    let (n, s) := s.choose 2
    if n = 0 then s
    else
      (List.range 128).foldl (fun (s : State) (i : Nat) =>
        let a := (b.side / 32 * 32 + 32 * i) % 2 ^ 48
        match s.tlbLookup s.focus.c.core a with
        | none => s
        | some e =>
          if e.r ∧ !s.inPipe a 32 ∧ !s.isBad .dram (e.phys a) 32 then
            let (bs, s) := s.readHome 0#8 (e.phys a) 32
            s.modCore s.focus.c.core fun k => k.metaFill (a / 32) bs
          else s) s

def execMset (pf : Bool) (d : Fin 16) (a : RK 16) (s : State) : Out :=
  let w := s.me.mSrc a
  let s := s.land 1 (.m d w)
  .next (if pf then s.prefetchSide w else s)
def execMadd (aux : Bool) (d : Fin 16) (a : RK 16) (imm : BitVec 20) (s : State) : Out :=
  .next (s.land 1 (.m d (maddDesc aux (s.me.mSrc a) imm.toInt)))

end Sys2Proof.Machine
end

