-- ==== Sys2Proof/Machine/Index.lean ====
section
/-!
DEFINITION. The X slot (P1): R195 to R207 of spec/13_index_scratchpad_instructions.md.
-/
namespace Sys2Proof.Machine

/-! ## Arithmetic (R196) -/

/-- A two-source operation. -/
def execX2 (f : Word → Word → Word) (lat : Nat) (d : Fin 32) (a : RK 32) (b : Fin 32) (s : State) : Out :=
  .next (s.land lat (.x d (f (s.me.xSrc a) s.me.x[b])))

/-- An operation of one source. -/
def execX1 (f : Word → Word) (d : Fin 32) (a : RK 32) (s : State) : Out :=
  .next (s.land 1 (.x d (f (s.me.xSrc a))))

/-- The lesser or greater word. -/
def xMin (u : Bool) (a b : Word) : Word := if (if u then a.ult b else a.slt b) then a else b
def xMax (u : Bool) (a b : Word) : Word := if (if u then a.ult b else a.slt b) then b else a

def execXadd (d : Fin 32) (a : RK 32) (b : Fin 32) (s : State) : Out := execX2 (· + ·) 1 d a b s
def execXsub (d : Fin 32) (a : RK 32) (b : Fin 32) (s : State) : Out := execX2 (· - ·) 1 d a b s
def execXmul (d : Fin 32) (a : RK 32) (b : Fin 32) (s : State) : Out := execX2 (· * ·) 3 d a b s
def execXand (d : Fin 32) (a : RK 32) (b : Fin 32) (s : State) : Out := execX2 (· &&& ·) 1 d a b s
def execXxor (d : Fin 32) (a : RK 32) (b : Fin 32) (s : State) : Out := execX2 (· ^^^ ·) 1 d a b s
def execXshl (d : Fin 32) (a : RK 32) (b : Fin 32) (s : State) : Out :=
  execX2 (fun a b => a <<< (b.toNat % 32)) 1 d a b s
def execXshr (d : Fin 32) (a : RK 32) (b : Fin 32) (s : State) : Out :=
  execX2 (fun a b => a >>> (b.toNat % 32)) 1 d a b s
def execXmin (u : Bool) (d : Fin 32) (a : RK 32) (b : Fin 32) (s : State) : Out :=
  execX2 (xMin u) 1 d a b s
def execXmax (u : Bool) (d : Fin 32) (a : RK 32) (b : Fin 32) (s : State) : Out :=
  execX2 (xMax u) 1 d a b s
def execXaddi (d : Fin 32) (a : RK 32) (imm : BitVec 20) (s : State) : Out :=
  execX1 (· + imm.signExtend 32) d a s
def execXshli (d : Fin 32) (a : RK 32) (sh : BitVec 5) (s : State) : Out := execX1 (· <<< sh.toNat) d a s
def execXshri (d : Fin 32) (a : RK 32) (sh : BitVec 5) (s : State) : Out := execX1 (· >>> sh.toNat) d a s
def execXli (d : Fin 32) (imm : BitVec 29) (s : State) : Out := .next (s.land 1 (.x d (imm.signExtend 32)))
def execXpopc (d : Fin 32) (a : RK 32) (s : State) : Out :=
  execX1 (fun a => BitVec.ofNat 32 (popcount 32 a.toNat)) d a s
def execXclz (d : Fin 32) (a : RK 32) (s : State) : Out :=
  execX1 (fun a => BitVec.ofNat 32 (leadingZeros 32 a.toNat)) d a s

/-! ## Selection, the scratchpad, the merge cursor (R197 to R199) -/

def execXsel (d c : Fin 32) (a : RK 32) (b : Fin 32) (s : State) : Out :=
  .next (s.land 1 (.x d (if s.me.x[c] ≠ 0#32 then s.me.xSrc a else s.me.x[b])))

/-- XLDW: the offset is base + 4 × imm, modulo 2^32, as a signed number (R198). -/
def execXldw (d : Fin 32) (a : RK 32) (imm : BitVec 20) (s : State) : Out :=
  let o := (s.me.xSrc a + imm.signExtend 32 <<< 2).toInt
  s.withSpad 4 4 false [o] fun as =>
    s.readElems false 4 as fun f s =>
      .next (s.land 4 (.x d (BitVec.ofNat 32 (readNum f (s.me.windowBase + o.toNat) 4))))

/-- A merge cursor after an advance (R199, Table 2). -/
def advanceCursor (a b c : Word) : Word :=
  let i := bits c.toNat 16 15
  let j := bits c.toNat 0 15
  let next (n : Nat) : Nat := min (n + 1) 0x7FFF
  if a.ult b then BitVec.ofNat 32 (next i * 2 ^ 16 + j)
  else if b.ult a then BitVec.ofNat 32 (i * 2 ^ 16 + next j)
  else BitVec.ofNat 32 (2 ^ 31 + next i * 2 ^ 16 + next j)

def execXadv (d : Fin 32) (a : RK 32) (b : Fin 32) (s : State) : Out :=
  .next (s.land 2 (.x d (advanceCursor (s.me.xSrc a) s.me.x[b] s.me.x[d])))

/-! ## Pushes (R200, R201, R204) -/

/-- The row address of a push: (b << 16) + (a << sh) modulo 2^48. -/
def Context.rowAddr (x : Context) (p : PushArgs) : BitVec 48 :=
  x.x[p.b].setWidth 48 <<< 16 + (x.xSrc p.a).setWidth 48 <<< p.sh.toNat

/-- Whether a push takes place: always, or under `.if` by bit 31 of its condition. -/
def Context.pushes (x : Context) (p : PushArgs) : Bool :=
  match p.cond with
  | none => true
  | some c => x.x[c].getLsbD 31

/-- An entry joins the address queue. -/
def State.push (s : State) (kind : AqKind) (spad : Bool) (p : PushArgs) : Out :=
  let x := s.me
  if !x.pushes p then .next s
  else if 64 ≤ x.aq.length then s.raise .aqoverflow 0#64
  else
    let e : AqEntry :=
      { seq := x.aqSeq, kind, spad, addr := x.rowAddr p, size := 64 * 2 ^ p.size.toNat, gid := x.gid
        data := none, at_ := s.cycle, begun := false, got := [], after := s.fencesOf s.focus.c, slot := none
        pa := 0, voided := false }
    .next ((s.setMe { x with aq := x.aq ++ [e], aqSeq := x.aqSeq + 1#32 }).due (.gatherEntryBegin s.focus.c))

def execAqg (sp : Bool) (args : PushArgs) (s : State) : Out := s.push .gather sp args
def execAqs (sp : Bool) (args : PushArgs) (s : State) : Out := s.push .scatter sp args
def execAqsa (i32 : Bool) (args : PushArgs) (s : State) : Out :=
  s.push (if i32 then .addI else .addF) false args

/-! ## The queues' counts (R202, R207) -/

/-- The sequence numbers of gathers that have not landed. -/
def Context.gathersOut (x : Context) : List Word :=
  (x.aq.filter fun e => e.kind == .gather).map (·.seq)

/-- Whether a slot's gather is older than every gather that has not landed, counting from the push counter. -/
def Context.older (x : Context) (seq : Word) : Bool :=
  x.gathersOut.all fun q => decide ((x.aqSeq - q).toNat < (x.aqSeq - seq).toNat)

/-- The data-queue slots that may be popped. -/
def Context.poppable (x : Context) : List (Fin 32 × Word × VReg) :=
  (List.finRange 32).filterMap fun i =>
    match x.dq[i] with
    | some ⟨seq, some v⟩ => if x.older seq then some (i, seq, v) else none
    | _ => none

/-- Entries that an earlier packet pushed: an operation of the packet that pushes one does not see it (R87). -/
def State.pushed (s : State) : List AqEntry := s.me.aq.filter fun e => e.data.isSome || e.at_ != s.cycle

/-- Scatter entries that await data. -/
def Context.awaiting (x : Context) : List AqEntry := x.aq.filter fun e => e.kind != .gather && e.data.isNone

/-- AQCNT's word (Table 6). -/
def Context.aqCounts (x : Context) (susp : Bool) : Word :=
  ((BitVec.ofBool susp ++ BitVec.ofNat 7 x.awaiting.length ++ 0#2 ++ BitVec.ofNat 6 x.poppable.length ++
    0#1 ++ BitVec.ofNat 7 x.aq.length : BitVec 24)).setWidth 32

def execAqcnt (d : Fin 32) (s : State) : Out := .next (s.land 1 (.x d (s.me.aqCounts (s.me.aqSusp && !s.faultDue (.address s.focus.c)))))

end Sys2Proof.Machine
end

