-- ==== Sys2Proof/Machine/Scratch.lean ====
section
/-!
DEFINITION. The L slot (P3): R208 to R215 of spec/13_index_scratchpad_instructions.md.
-/
namespace Sys2Proof.Machine

/-! ## Lanes and addresses -/

/-- The active lanes of a guard, in order. -/
def Context.lanesOn (x : Context) (g : Guard) : List Nat := (List.range 128).filter (x.active g)

/-- The offset of each active lane: base + i × step. -/
def laneOffs (on : List Nat) (o step : Int) : List Int := on.map fun (i : Nat) => o + i * step

/-- The offsets of LDVS and STVS, sums modulo 2^32 (R210). -/
def strideOffs (on : List Nat) (a b : Word) : List Int :=
  on.map fun i => (a + BitVec.ofNat 32 i * b).toInt

/-- The F1I offset of an access. -/
def Context.lOff (x : Context) (a : RK 16) (off : BitVec 19) : Int := lOffset (x.aSrc a) off

/-- Whether a store is one that the stack limit checks (R214). -/
def isStack : RK 16 → Bool
  | .r i => i == 14 || i == 15
  | .k _ => false

/-! ## Loads of v registers (R209, R215) -/

/-- The lanes that the packet's V operation writes in a v register. -/
def Context.vWrites (x : Context) (d : Fin 32) : Pred :=
  x.landings.foldl (fun m l =>
    match l.write with
    | .v i _ mask => if l.issued = x.clock ∧ l.pos = 2 ∧ i = d then m ||| mask else m
    | _ => m) 0#128

/-- The V result of the packet without some lanes of a register (R215). -/
def Context.loseLanes (x : Context) (d : Fin 32) (lost : Pred) : Context :=
  { x with landings := x.landings.map fun l =>
      match l.write with
      | .v i w mask =>
        if l.issued = x.clock ∧ l.pos = 2 ∧ i = d then { l with write := .v i w (mask &&& ~~~lost) } else l
      | _ => l }

/-- A load's lanes in flight. Lanes that V writes too take the load's value, and WAW is set as it lands. -/
def State.landLoad (s : State) (d : Fin 32) (w : VReg) (mask : Pred) : State :=
  let both := s.me.vWrites d &&& mask
  let s := if both = 0#128 then s
    else (s.setMe (s.me.loseLanes d both)).land 6 (.sticky wawBit)
  s.land 6 (.v d w mask)

/-- A load of one element a lane: `n` bytes at each active lane's offset. -/
def State.loadLanes (s : State) (n : Nat) (ma : Bool) (d : Fin 32) (g : Guard) (os : List Int) : Out :=
  s.withSpad n n false os fun as =>
    s.withPending ma as <|
      s.readElems ma n as fun f s =>
        let on := s.me.lanesOn g
        let w := lanes fun i =>
          match (on.zip as).find? fun p => p.1 == i with
          | some p => BitVec.ofNat 32 (readNum f p.2 n)
          | none => 0#32
        .next (s.landLoad d w (s.me.mask g))

def execLdv (d : Fin 32) (a : RK 16) (ma : Bool) (off : BitVec 19) (g : Guard) (s : State) : Out :=
  s.loadLanes 4 ma d g (laneOffs (s.me.lanesOn g) (s.me.lOff a off) 4)
def execLdvh (d : Fin 32) (a : RK 16) (ma : Bool) (off : BitVec 19) (g : Guard) (s : State) : Out :=
  s.loadLanes 2 ma d g (laneOffs (s.me.lanesOn g) (s.me.lOff a off) 2)
def execLdve (d : Fin 32) (a : RK 16) (ma : Bool) (off : BitVec 19) (g : Guard) (s : State) : Out :=
  s.loadLanes 4 ma d g (laneOffs (s.me.lanesOn g) (s.me.lOff a off) 0)
def execLdvs (d : Fin 32) (a : RK 16) (b : Fin 16) (ma : Bool) (g : Guard) (s : State) : Out :=
  s.loadLanes 4 ma d g (strideOffs (s.me.lanesOn g) (s.me.aSrc a) s.me.a[b])

/-! ## Stores of v registers -/

/-- A store of `n` bytes of each active lane, in lane order. -/
def State.storeLanes (s : State) (n : Nat) (ma : Bool) (src : Fin 32) (a : RK 16) (g : Guard)
    (os : List Int) : Out :=
  s.withSpad n n (isStack a) os fun as =>
    let v := s.me.v[src]
    .next (s.spadWrite ma (((s.me.lanesOn g).zip as).flatMap fun p =>
      (leBytes n (lane v p.1).toNat).mapIdx fun i b => (p.2 + i, b)))

def execStv (src : Fin 32) (a : RK 16) (ma : Bool) (off : BitVec 19) (g : Guard) (s : State) : Out :=
  s.storeLanes 4 ma src a g (laneOffs (s.me.lanesOn g) (s.me.lOff a off) 4)
def execStvh (src : Fin 32) (a : RK 16) (ma : Bool) (off : BitVec 19) (g : Guard) (s : State) : Out :=
  s.storeLanes 2 ma src a g (laneOffs (s.me.lanesOn g) (s.me.lOff a off) 2)
def execStvs (src : Fin 32) (a : RK 16) (b : Fin 16) (ma : Bool) (g : Guard) (s : State) : Out :=
  s.storeLanes 4 ma src a g (strideOffs (s.me.lanesOn g) (s.me.aSrc a) s.me.a[b])

/-! ## One word (R209, R211): they act only if lane 0 is active -/

/-- A load of `n` bytes; one that does not act leaves its register, which the scoreboard counts as pending (R93). -/
def State.loadOne (s : State) (n : Nat) (ma : Bool) (o : Int) (g : Guard) (kept : RegWrite) (k : Nat → RegWrite) : Out :=
  if !s.me.active g 0 then .next (s.land 6 kept)
  else
    s.withSpad n n false [o] fun as =>
      s.withPending ma (as.flatMap fun a => (List.range (n / 4)).map (a + 4 * ·)) <|
        s.readElems ma n as fun f s =>
          .next (s.land 6 (k (readNum f (s.me.windowBase + o.toNat) n)))

/-- A store of `n` bytes. -/
def State.storeOne (s : State) (n : Nat) (ma : Bool) (o : Int) (a : RK 16) (g : Guard) (v : Nat) : Out :=
  if !s.me.active g 0 then .next s
  else
    s.withSpad n n (isStack a) [o] fun as =>
      .next (s.spadWrite ma (as.flatMap fun p => (leBytes n v).mapIdx fun i b => (p + i, b)))

/-- The 8-byte word of a b register (R211). -/
def BReg.word (r : BReg) : DWord := ((r.target ++ 0#4 ++ BitVec.ofBool r.prepared : BitVec 48)).setWidth 64

def execLda (d : Fin 16) (a : RK 16) (ma : Bool) (off : BitVec 19) (g : Guard) (s : State) : Out :=
  s.loadOne 4 ma (s.me.lOff a off) g (.keepA d) fun n => .a d (BitVec.ofNat 32 n)
def execSta (src : Fin 16) (a : RK 16) (ma : Bool) (off : BitVec 19) (g : Guard) (s : State) : Out :=
  s.storeOne 4 ma (s.me.lOff a off) a g s.me.a[src].toNat
def execLdb (d : Fin 8) (a : RK 16) (ma : Bool) (off : BitVec 19) (g : Guard) (s : State) : Out :=
  s.loadOne 8 ma (s.me.lOff a off) g (.keepB d) fun n => .b d ((BitVec.ofNat 64 n).extractLsb' 5 43)
def execStb (src : Fin 8) (a : RK 16) (ma : Bool) (off : BitVec 19) (g : Guard) (s : State) : Out :=
  s.storeOne 8 ma (s.me.lOff a off) a g s.me.b[src].word.toNat

/-! ## Address arithmetic (R212) -/

def execAadd (d : Fin 16) (a : RK 16) (b : Fin 16) (g : Guard) (s : State) : Out :=
  if s.me.active g 0 then .next (s.land 1 (.a d (s.me.aSrc a + s.me.a[b]))) else .next s
def execAaddi (d : Fin 16) (a : RK 16) (imm : BitVec 20) (g : Guard) (s : State) : Out :=
  if s.me.active g 0 then .next (s.land 1 (.a d (s.me.aSrc a + imm.signExtend 32))) else .next s
def execAli (d : Fin 16) (imm : BitVec 29) (s : State) : Out :=
  .next (s.land 1 (.a d (imm.signExtend 32)))

end Sys2Proof.Machine
end

