-- ==== Sys2Proof/Machine/Vector.lean ====
section
/-!
DEFINITION. The V slot (P2), arithmetic and conversion: R216 to R229 of
spec/15_vector_arithmetic_instructions.md, and the reductions, permutes and moves of R232 to R235 of
spec/17_vector_special_instructions.md.
-/
namespace Sys2Proof.Machine

/-! ## Results -/

/-- A result of 128 lanes, of which those of the guard are written (R76, R216). -/
def State.landV (s : State) (lat : Nat) (d : Fin 32) (g : Guard) (f : Nat → Word) : Out :=
  .next (s.land lat (.v d (lanes f) (s.me.mask g)))

/-- Every lane written. -/
def State.landAllV (s : State) (lat : Nat) (d : Fin 32) (f : Nat → Word) : State :=
  s.land lat (.v d (lanes f) (BitVec.allOnes 128))

/-- Sticky flags land beside the result they describe (R126). -/
def State.landFlags (s : State) (lat : Nat) (fl : Flags) : State :=
  if fl.sticky = 0#10 then s else s.land lat (.sticky fl.sticky)

/-- The flags of some lanes. -/
def flagsOf (on : Nat → Bool) (f : Nat → Flags) : Flags :=
  (List.range 128).foldl (fun a i => if on i then a.or (f i) else a) .none

/-- A result of 128 lanes with flags, those of the active lanes (R113, R126). -/
def State.landVF (s : State) (lat : Nat) (d : Fin 32) (g : Guard) (f : Nat → Word × Flags) : Out :=
  let r : Vector (Word × Flags) 128 := Vector.ofFn fun i : Fin 128 => f i.val
  let at_ (i : Nat) : Word × Flags := r[i % 128]'(Nat.mod_lt _ (by decide))
  let fl := flagsOf (s.me.active g) fun i => (at_ i).2
  .next ((s.land lat (.v d (lanes fun i => (at_ i).1) (s.me.mask g))).landFlags lat fl)

/-- Lane by lane over the sources a and b. -/
def State.lanes2 (s : State) (f : Word → Word → Word) (lat : Nat) (d : Fin 32) (a : RK 32) (b : Fin 32)
    (g : Guard) : Out :=
  let va := s.me.vSrc a
  let vb := s.me.v[b]
  s.landV lat d g fun i => f (lane va i) (lane vb i)

/-- The same with flags. -/
def State.lanes2F (s : State) (f : Word → Word → Word × Flags) (lat : Nat) (d : Fin 32) (a : RK 32)
    (b : Fin 32) (g : Guard) : Out :=
  let va := s.me.vSrc a
  let vb := s.me.v[b]
  s.landVF lat d g fun i => f (lane va i) (lane vb i)

/-- Lane by lane over the source a, with flags. -/
def State.lanes1F (s : State) (f : Word → Word × Flags) (lat : Nat) (d : Fin 32) (a : RK 32) (g : Guard) : Out :=
  let va := s.me.vSrc a
  s.landVF lat d g fun i => f (lane va i)

/-! ## Integer operations (R219) -/

/-- The product's part that VMUL gives. -/
def mulPart (h : MulHalf) (a b : Word) : Word :=
  match h with
  | .lo => a * b
  | .hs => (a.signExtend 64 * b.signExtend 64).extractLsb' 32 32
  | .hu => (a.setWidth 64 * b.setWidth 64).extractLsb' 32 32

/-- A clamped sum or difference (VADDS). -/
def addSat (u sub : Bool) (a b : Word) : Word :=
  let x : Int := if u then a.toNat else a.toInt
  let y : Int := if u then b.toNat else b.toInt
  let r := if sub then x - y else x + y
  let lo : Int := if u then 0 else -2147483648
  let hi : Int := if u then 4294967295 else 2147483647
  BitVec.ofInt 32 (max lo (min hi r))

def execVadd (d : Fin 32) (a : RK 32) (b : Fin 32) (g : Guard) (s : State) : Out := s.lanes2 (· + ·) 2 d a b g
def execVsub (d : Fin 32) (a : RK 32) (b : Fin 32) (g : Guard) (s : State) : Out := s.lanes2 (· - ·) 2 d a b g
def execVmul (h : MulHalf) (d : Fin 32) (a : RK 32) (b : Fin 32) (g : Guard) (s : State) : Out :=
  s.lanes2 (mulPart h) 2 d a b g
def execVmin (u : Bool) (d : Fin 32) (a : RK 32) (b : Fin 32) (g : Guard) (s : State) : Out :=
  s.lanes2 (xMin u) 2 d a b g
def execVmax (u : Bool) (d : Fin 32) (a : RK 32) (b : Fin 32) (g : Guard) (s : State) : Out :=
  s.lanes2 (xMax u) 2 d a b g
def execVand (d : Fin 32) (a : RK 32) (b : Fin 32) (g : Guard) (s : State) : Out := s.lanes2 (· &&& ·) 2 d a b g
def execVor (d : Fin 32) (a : RK 32) (b : Fin 32) (g : Guard) (s : State) : Out := s.lanes2 (· ||| ·) 2 d a b g
def execVxor (d : Fin 32) (a : RK 32) (b : Fin 32) (g : Guard) (s : State) : Out := s.lanes2 (· ^^^ ·) 2 d a b g
def execVshl (d : Fin 32) (a : RK 32) (b : Fin 32) (g : Guard) (s : State) : Out :=
  s.lanes2 (fun a b => a <<< (b.toNat % 32)) 2 d a b g
def execVshr (d : Fin 32) (a : RK 32) (b : Fin 32) (g : Guard) (s : State) : Out :=
  s.lanes2 (fun a b => a >>> (b.toNat % 32)) 2 d a b g
def execVsar (d : Fin 32) (a : RK 32) (b : Fin 32) (g : Guard) (s : State) : Out :=
  s.lanes2 (fun a b => a.sshiftRight (b.toNat % 32)) 2 d a b g
def execVadds (u sub : Bool) (d : Fin 32) (a : RK 32) (b : Fin 32) (g : Guard) (s : State) : Out :=
  s.lanes2 (addSat u sub) 2 d a b g

/-! ## Floating point (R220 to R223) -/

def execVfadd (rm : RM) (d : Fin 32) (a : RK 32) (b : Fin 32) (g : Guard) (s : State) : Out :=
  s.lanes2F (fadd rm) 4 d a b g
def execVfsub (rm : RM) (d : Fin 32) (a : RK 32) (b : Fin 32) (g : Guard) (s : State) : Out :=
  s.lanes2F (fsub rm) 4 d a b g
def execVfmul (rm : RM) (d : Fin 32) (a : RK 32) (b : Fin 32) (g : Guard) (s : State) : Out :=
  s.lanes2F (fmul rm) 4 d a b g
def execVfma (rm : RM) (d : Fin 32) (a : RK 32) (b c : Fin 32) (g : Guard) (s : State) : Out :=
  let va := s.me.vSrc a
  let vb := s.me.v[b]
  let vc := s.me.v[c]
  s.landVF 4 d g fun i => ffma rm (lane va i) (lane vb i) (lane vc i)

/-- VFMIN or VFMAX on one lane (R221). -/
def minmaxF (isMax nan : Bool) (a b : Word) : Word × Flags :=
  (fminmax isMax nan a b, { iv := isSig32 a || isSig32 b })

def execVfmin (nan : Bool) (d : Fin 32) (a : RK 32) (b : Fin 32) (g : Guard) (s : State) : Out :=
  s.lanes2F (minmaxF false nan) 2 d a b g
def execVfmax (nan : Bool) (d : Fin 32) (a : RK 32) (b : Fin 32) (g : Guard) (s : State) : Out :=
  s.lanes2F (minmaxF true nan) 2 d a b g

/-- The bits [30:0] of a with the sign that the mode gives (R222). -/
def signed (m : SgnMode) (a b : Word) : Word :=
  let sign := match m with
    | .copy => b.msb
    | .neg => !b.msb
    | .xor => a.msb != b.msb
  (BitVec.ofBool sign ++ a.extractLsb' 0 31 : BitVec 32)

def execVfsgn (m : SgnMode) (d : Fin 32) (a : RK 32) (b : Fin 32) (g : Guard) (s : State) : Out :=
  s.lanes2 (signed m) 2 d a b g
def execVfrcp (rm : RM) (d : Fin 32) (a : RK 32) (g : Guard) (s : State) : Out := s.lanes1F (frcp rm) 8 d a g
def execVfrsq (rm : RM) (d : Fin 32) (a : RK 32) (g : Guard) (s : State) : Out := s.lanes1F (frsq rm) 8 d a g
def execVfexp2 (rm : RM) (d : Fin 32) (a : RK 32) (g : Guard) (s : State) : Out := s.lanes1F (fexp2 rm) 8 d a g
def execVflog2 (rm : RM) (d : Fin 32) (a : RK 32) (g : Guard) (s : State) : Out := s.lanes1F (flog2 rm) 8 d a g

/-! ## Compare and select (R224, R225) -/

def execVcmp (cc : ICc) (d : Fin 8) (a : RK 32) (b : Fin 32) (g : Guard) (s : State) : Out :=
  let va := s.me.vSrc a
  let vb := s.me.v[b]
  .next (s.land 2 (.p d (predOf fun i => iccHolds cc (lane va i) (lane vb i)) (s.me.mask g)))
def execVfcmp (cc : FCc) (d : Fin 8) (a : RK 32) (b : Fin 32) (g : Guard) (s : State) : Out :=
  let va := s.me.vSrc a
  let vb := s.me.v[b]
  let fl := flagsOf (s.me.active g) fun i => { iv := isSig32 (lane va i) || isSig32 (lane vb i) }
  .next ((s.land 2 (.p d (predOf fun i => fccHolds cc (lane va i) (lane vb i)) (s.me.mask g))).landFlags 2 fl)
def execVsel (d : Fin 32) (c : Fin 8) (a : RK 32) (b : Fin 32) (g : Guard) (s : State) : Out :=
  let va := s.me.vSrc a
  let vb := s.me.v[b]
  s.landV 2 d g fun i => if laneOn s.me.p[c] i then lane va i else lane vb i

/-! ## Conversions (R226 to R229) -/

def execVcvt (rm : RMode) (sat : Bool) (d : Fin 32) (a : RK 32) (src dst : Fmt) (g : Guard) (s : State) : Out :=
  let va := s.me.vSrc a
  let old := s.me.v[d]
  s.landVF 4 d g fun i =>
    let (y, fl) := cvt (fval src ((lane va i).toNat % 2 ^ fmtWidth src)) dst rm sat (lane old i).toNat
    (BitVec.ofNat 32 y, fl)

/-- The element n of a VQNT row: its bits and flags. -/
def quantElem (va vb : VReg) (rm : RM) (sat : Bool) (f : Fmt) (n : Nat) : Nat × Flags :=
  let (x, iv) := scaleF (f32 (lane va n)) (f32 (lane vb n))
  let (y, fl) := cvt x f (.det rm) sat 0
  (y, { fl with iv := fl.iv || iv })

def execVqnt (rm : RM) (sat : Bool) (d : Fin 32) (a : RK 32) (b : Fin 32) (fmt : Fmt) (g : Guard) (s : State) :
    Out :=
  let va := s.me.vSrc a
  let vb := s.me.v[b]
  let w := fmtWidth fmt
  let r : Vector (Nat × Flags) 128 := Vector.ofFn fun n : Fin 128 => quantElem va vb rm sat fmt n.val
  let at_ (n : Nat) : Nat × Flags := r[n % 128]'(Nat.mod_lt _ (by decide))
  let on (n : Nat) : Bool := s.me.active g (w * n / 32) || s.me.active g ((w * n + w - 1) / 32)
  let row := vOfBytes (packByte (fun n => (at_ n).1) w 128)
  .next ((s.land 4 (.v d row (s.me.mask g))).landFlags 4 (flagsOf on fun n => (at_ n).2))

/-- A lane of VDQNT: element n of the row by its scale; with MX, by round32 (R117, R9), and without it by rm (R229). -/
def dequantElem (row scales : VReg) (rm : RM) (mx : Bool) (f : Fmt) (n : Nat) : Word × Flags :=
  let x := fval f (elemAt (vbyte row) (fmtWidth f) n)
  if mx then
    let c := (vbyte scales (n / 32)).toNat
    if c = 255 then (nan32, .none) else to32 .rne (scaleF x (.fin false 1 ((c : Int) - 127))).1
  else finish rm (scaleF x (f32 (lane scales n)))

def execVdqnt (rm : RM) (mx : Bool) (d : Fin 32) (a : RK 32) (b : Fin 32) (fmt : Fmt) (g : Guard) (s : State) :
    Out :=
  let va := s.me.vSrc a
  let vb := s.me.v[b]
  s.landVF 4 d g (dequantElem va vb rm mx fmt)

/-! ## Reductions and scans (R232 to R234) -/

/-- What a reduction combines with. -/
structure Combine where
  op : Word → Word → Word × Flags
  id : Word

/-- Addition. -/
def addOp (rm : RM) (i32 : Bool) : Combine :=
  if i32 then ⟨fun a b => (a + b, .none), 0#32⟩ else ⟨fadd rm, 0#32⟩

/-- Minimum and maximum. -/
def maxOp (u nan i32 : Bool) : Combine :=
  if i32 then ⟨fun a b => (xMax u a b, .none), if u then 0#32 else 0x80000000#32⟩
  else ⟨minmaxF true nan, 0xFF800000#32⟩
def minOp (u nan i32 : Bool) : Combine :=
  if i32 then ⟨fun a b => (xMin u a b, .none), if u then 0xFFFFFFFF#32 else 0x7FFFFFFF#32⟩
  else ⟨minmaxF false nan, 0x7F800000#32⟩

/-- One level of the tree: neighbours combined. -/
def pairUp (c : Combine) : List Word → List Word × Flags
  | a :: b :: rest =>
    let (r, fl) := c.op a b
    let (rs, fls) := pairUp c rest
    (r :: rs, fl.or fls)
  | xs => (xs, .none)

/-- The levels of the tree. -/
def tree (c : Combine) : Nat → List Word → List Word × Flags
  | 0, xs => (xs, .none)
  | l + 1, xs =>
    let (ys, fl) := pairUp c xs
    let (zs, fls) := tree c l ys
    (zs, fl.or fls)

/-- The contributing lanes of a source. -/
def Context.contributors (x : Context) (g : Guard) (v : VReg) (id : Word) : List Word :=
  (List.range 128).map fun i => if x.active g i then lane v i else id

def execVrsum (rm : RM) (i32 : Bool) (seg : Fin 8) (d : Fin 32) (a : RK 32) (g : Guard) (s : State) : Out :=
  let c := addOp rm i32
  let (rs, fl) := tree c seg.val (s.me.contributors g (s.me.vSrc a) c.id)
  .next ((s.landAllV 6 d fun i => rs.getD (i / 2 ^ seg.val) 0#32).landFlags 6 fl)

/-- The lowest active lane of a segment whose value equals the result (R233). DESIGN CHOICE: where no active lane does,
as when the active lanes are all NaN, NANP is clear and an inactive lane's identity is the result, R233 states no lane:
the answer is 0xFFFF_FFFF, as for a segment with no active lane (log 43). -/
def argLane (on : Nat → Bool) (v : VReg) (i32 : Bool) (seg i : Nat) (r : Word) : Word :=
  let first := i / 2 ^ seg * 2 ^ seg
  match firstBelow (fun j =>
      on (first + j) && (lane v (first + j) == r || !i32 && isNan32 r && isNan32 (lane v (first + j))))
      (2 ^ seg) with
  | some j => BitVec.ofNat 32 (first + j)
  | none => 0xFFFFFFFF#32

/-- VRMAX and VRMIN. -/
def State.reduceM (s : State) (c : Combine) (arg i32 : Bool) (seg : Fin 8) (d : Fin 32) (a : RK 32) (g : Guard) :
    Out :=
  let v := s.me.vSrc a
  let (rs, fl) := tree c seg.val (s.me.contributors g v c.id)
  .next ((s.landAllV 6 d fun i =>
    let r := rs.getD (i / 2 ^ seg.val) 0#32
    if arg then argLane (s.me.active g) v i32 seg.val i r else r).landFlags 6 fl)

def execVrmax (arg u nan i32 : Bool) (seg : Fin 8) (d : Fin 32) (a : RK 32) (g : Guard) (s : State) : Out :=
  s.reduceM (maxOp u nan i32) arg i32 seg d a g
def execVrmin (arg u nan i32 : Bool) (seg : Fin 8) (d : Fin 32) (a : RK 32) (g : Guard) (s : State) : Out :=
  s.reduceM (minOp u nan i32) arg i32 seg d a g

/-- Running sums of one segment. -/
def scan (c : Combine) (excl : Bool) : Word → List Word → List Word × Flags
  | _, [] => ([], .none)
  | run, x :: xs =>
    let (r, fl) := c.op run x
    let (rs, fls) := scan c excl r xs
    ((if excl then run else r) :: rs, fl.or fls)

/-- The segments one after another. -/
def scanAll (c : Combine) (excl : Bool) (len : Nat) : Nat → List Word → List Word × Flags
  | 0, _ => ([], .none)
  | n + 1, xs =>
    let (rs, fl) := scan c excl c.id (xs.take len)
    let (rest, fls) := scanAll c excl len n (xs.drop len)
    (rs ++ rest, fl.or fls)

def execVscan (rm : RM) (excl i32 : Bool) (seg : Fin 8) (d : Fin 32) (a : RK 32) (g : Guard) (s : State) : Out :=
  let c := addOp rm i32
  let len := 2 ^ seg.val
  let (rs, fl) := scanAll c excl len (128 / len) (s.me.contributors g (s.me.vSrc a) c.id)
  .next ((s.landAllV 8 d fun i => rs.getD i 0#32).landFlags 8 fl)

/-! ## Permutes and moves (R235) -/

def execVperm (z : Bool) (d : Fin 32) (a : RK 32) (b : Fin 32) (g : Guard) (s : State) : Out :=
  let va := s.me.vSrc a
  let vb := s.me.v[b]
  s.landV 3 d g fun i =>
    if z && (lane vb i).getLsbD 7 then 0#32 else lane va ((lane vb i).toNat % 128)
def execVrot (d : Fin 32) (a : RK 32) (imm : BitVec 20) (g : Guard) (s : State) : Out :=
  let va := s.me.vSrc a
  s.landV 3 d g fun i => lane va (i + imm.toNat)
def execVbcst (d : Fin 32) (a : RK 32) (n : BitVec 7) (g : Guard) (s : State) : Out :=
  let w := lane (s.me.vSrc a) n.toNat
  s.landV 3 d g fun _ => w
def execVli (d : Fin 32) (imm : BitVec 29) (s : State) : Out :=
  .next (s.landAllV 2 d fun _ => imm.signExtend 32)
def execVmov (d : Fin 32) (a : RK 32) (g : Guard) (s : State) : Out :=
  let va := s.me.vSrc a
  s.landV 2 d g (lane va)
def execViota (rank : Option (Fin 8)) (d : Fin 32) (g : Guard) (s : State) : Out :=
  match rank with
  | none => s.landV 2 d g fun i => BitVec.ofNat 32 i
  | some c => s.landV 2 d g fun i => BitVec.ofNat 32 (popcount i s.me.p[c].toNat)

end Sys2Proof.Machine
end

