-- ==== Sys2Proof/Machine/VectorSpecial.lean ====
section
/-!
DEFINITION. The V slot (P2): predicates, queue transfers, GATE, DICE, VDESC and VCMP48, R236 to R246 of
spec/17_vector_special_instructions.md, R202 to R204 of spec/13_index_scratchpad_instructions.md, R360.
-/
namespace Sys2Proof.Machine

/-! ## Predicates (R236 to R238) -/

def execPlog (t : BitVec 4) (d a b : Fin 8) (g : Guard) (s : State) : Out :=
  let pa := s.me.p[a]
  let pb := s.me.p[b]
  .next (s.land 2 (.p d (predOf fun i =>
    t.getLsbD ((if laneOn pa i then 2 else 0) + if laneOn pb i then 1 else 0)) (s.me.mask g)))

/-- The p registers that a SET names. -/
def pset : PGroup → List (Fin 8)
  | .all => [0, 1, 2, 3, 4, 5, 6, 7]
  | .lo => [0, 1, 2, 3]
  | .hi => [4, 5, 6, 7]

def execPpack (set : PGroup) (d : Fin 32) (g : Guard) (s : State) : Out :=
  s.landV 2 d g fun i =>
    if i < 32 ∧ (pset set).contains (Fin.ofNat 8 (i / 4)) then
      (s.me.p[Fin.ofNat 8 (i / 4)] >>> (32 * (i % 4))).setWidth 32
    else 0#32

def execPunpk (set : PGroup) (a : RK 32) (s : State) : Out :=
  let v := s.me.vSrc a
  .next ((pset set).foldl (fun s k =>
    s.land 2 (.p k (lane v (4 * k + 3) ++ lane v (4 * k + 2) ++ lane v (4 * k + 1) ++ lane v (4 * k))
      (BitVec.allOnes 128))) s)

def execPcnt (m : PcntMode) (d : Fin 32) (a : Fin 8) (g : Guard) (s : State) : Out :=
  let on (i : Nat) : Bool := laneOn s.me.p[a] i && s.me.active g i
  let n := match m with
    | .count => countBelow on 128
    | .first => (firstBelow on 128).getD 128
    | .last => (lastBelow on 128).getD 128
  .next (s.landAllV 2 d fun _ => BitVec.ofNat 32 n)

/-! ## Queue transfers (R202 to R204, R239, R240) -/

/-- The slot that VPOP takes: the poppable one whose gather was pushed first. -/
def Context.oldestSlot (x : Context) : Option (Fin 32 × VReg) :=
  (x.poppable.foldl (fun (m : Option (Fin 32 × Word × VReg)) e =>
    match m with
    | none => some e
    | some b => if (x.aqSeq - b.2.1).toNat < (x.aqSeq - e.2.1).toNat then some e else m) none).map
      fun e => (e.1, e.2.2)

/-- Whether every gather lies behind a scatter entry that awaits data (R204). -/
def blockedGathers : List AqEntry → Bool
  | [] => true
  | e :: es => if e.kind = .gather then false else if e.data.isNone then true else blockedGathers es

def execVpop (d : Fin 32) (g : Guard) (s : State) : Out :=
  let x := s.me
  match x.oldestSlot with
  | some (i, v) =>
    let s := s.setMe { x with dq := x.dq.set i none }
    let s := if x.aq.any (fun e => !e.begun) then s.due (.gatherEntryBegin s.focus.c) else s
    s.landV 2 d g (lane v)
  | none =>
    if !s.pushed.any (fun e => e.kind == .gather) then s.raiseD .dqunderflow 0x01#8 0#64
    else if blockedGathers s.pushed then s.raiseD .dqunderflow 0x03#8 0#64
    else .next (s.holdFor .pop)

/-- The first entry that awaits data takes it. -/
def attach (v : VReg) (m : Pred) (cycle : Nat) (after : List Nat) (seq : Word) (e : AqEntry) : AqEntry :=
  if e.seq = seq then { e with data := some (v, m), at_ := cycle, after := e.after ++ after } else e

def execVpushd (a : RK 32) (g : Guard) (s : State) : Out :=
  let x := s.me
  match s.pushed.find? fun e => e.kind != .gather && e.data.isNone with
  | none => s.raiseD .dqunderflow 0x02#8 0#64
  | some e =>
    .next ((s.setMe { x with aq := x.aq.map (attach (x.vSrc a) (x.mask g) s.cycle (s.fencesOf s.focus.c) e.seq) }).due
      (.gatherEntryBegin s.focus.c))

/-! ## GATE (R241 to R243) -/

/-- A candidate: its score and its expert. -/
structure Cand where
  score : Word
  id    : Nat
deriving DecidableEq, Repr

/-- A lane's candidate joins the set, or raises the score of its expert. DESIGN CHOICE: where the gate row carries an
identifier twice, R242 does not say which entry's score is meant: each is raised (log 43). -/
def addCand (cs : List Cand) (c : Cand) : List Cand :=
  if cs.any fun x => x.id == c.id then
    cs.map fun x => if x.id = c.id then { x with score := fminmax true false x.score c.score } else x
  else cs ++ [c]

/-- The order of candidates: the better score first, then the lower expert. -/
def Cand.before (a b : Cand) : Bool :=
  decide (ordKey b.score < ordKey a.score) || ordKey a.score == ordKey b.score && decide (a.id < b.id)

/-- The candidates that a gate row carries, each as it stands. -/
def rowCands (b : VReg) : List Cand :=
  (List.range 8).filterMap fun j =>
    if (lane b (8 + j)).msb && !isNan32 (lane b j) then some ⟨lane b j, bits (lane b (8 + j)).toNat 0 20⟩ else none

/-- The candidates of this chunk's logits. -/
def laneCands (on : Nat → Bool) (a : VReg) (pre chunk : Nat) : List Cand :=
  (List.range 128).filterMap fun i =>
    if on i && !isNan32 (lane a i) then some ⟨lane a i, pre * 2 ^ 9 + chunk * 128 + i⟩ else none

/-- FP32 of a small count. -/
def ofCount (n : Nat) : Word := round32 (.fin false n 0)

/-- 1.0. -/
def one32 : Word := 0x3F800000#32

/-- The final weights (R243). -/
def gateWeights (scores : List Word) : List Word :=
  match scores with
  | [] => []
  | s0 :: _ =>
    if s0 = inf32 false then
      let m := (scores.filter (· == inf32 false)).length
      scores.map fun x => if x = inf32 false then div32 one32 (ofCount m) else 0#32
    else if s0 = inf32 true then scores.map fun _ => div32 one32 (ofCount scores.length)
    else
      let es := scores.map fun x => (fexp2 .rne (mul32 (sub32 x s0) 0x3FB8AA3B#32)).1
      let t := match es with
        | [] => 0#32
        | e :: rest => rest.foldl add32 e
      es.map fun e => div32 e t

/-- GATE's row (R242). -/
def gateRow (on : Nat → Bool) (a b : VReg) (k chunk : Nat) (first final : Bool) : Nat → Word :=
  let pre := bits (lane b 16).toNat 9 11
  let held := if first then [] else (rowCands b).eraseDups
  let cs := ((sortBy Cand.before ((laneCands on a pre chunk).foldl addCand held).eraseDups)).take k
  let ws := if final then gateWeights (cs.map (·.score)) else cs.map (·.score)
  fun i =>
    if i < 8 then ws.getD i 0#32
    else if i < 16 then
      match cs[i - 8]? with
      | some c => BitVec.ofNat 32 (2 ^ 31 + c.id)
      | none => 0#32
    else if i = 16 then BitVec.ofNat 32 (k * 2 ^ 28 + (if final then 2 ^ 27 else 0) + pre * 2 ^ 9)
    else 0#32

def execGate (first final : Bool) (d : Fin 32) (a : RK 32) (b : Fin 32) (k : Fin 8) (chunk : Fin 4) (g : Guard)
    (s : State) : Out :=
  .next (s.landAllV 12 d (gateRow (s.me.active g) (s.me.vSrc a) s.me.v[b] (k.val + 1) chunk.val first final))

/-! ## DICE (R244, R360) -/

/-- The draw index, DCTRL[47:32]. -/
def drawIndex (lo : DWord) : Nat := bits lo.toNat 32 16

/-- The position, DCTRH[15:0] over DCTRL[63:48]. -/
def dicePos (hi lo : DWord) : Nat := bits hi.toNat 0 16 * 2 ^ 16 + bits lo.toNat 48 16

/-- The counter with a position, and the draw index 0. -/
def withPos (hi lo : DWord) (p : Nat) : DWord × DWord :=
  (BitVec.ofNat 64 (hi.toNat / 2 ^ 16 * 2 ^ 16 + p / 2 ^ 16 % 2 ^ 16),
    BitVec.ofNat 64 (p % 2 ^ 16 * 2 ^ 48 + lo.toNat % 2 ^ 32))

/-- The counter with the draw index advanced, unless it is saturated. -/
def nextDraw (lo : DWord) : DWord :=
  if drawIndex lo < 0xFFFF then lo + 0x100000000#64 else lo

def execDice (pos : Bool) (d : Fin 32) (g : Guard) (s : State) : Out :=
  let x := s.me
  let sat := drawIndex x.dctrl = 0xFFFF
  if sat ∧ x.dsattrap then s.raise .dicesat 0#64
  else
    let s := s.land 10 (.v d (lanes fun i => diceWord x.dkey x.dctrh x.dctrl i) (x.mask g))
    let s := if sat then s.land 1 (.sticky dsatBit) else s
    if pos then
      let p := dicePos x.dctrh x.dctrl
      let (hi, lo) := withPos x.dctrh x.dctrl ((p + 1) % 2 ^ 32)
      let s := (s.land 1 (.sr .dctrh hi)).land 1 (.sr .dctrl lo)
      .next (if p = 0xFFFFFFFF then s.land 1 (.sticky pwrapBit) else s)
    else .next (s.land 1 (.sr .dctrl (nextDraw x.dctrl)))

/-! ## VDESC (R245) -/

/-- An ordered greater-than. -/
def gt32 (a b : Word) : Bool := fccHolds .gt a b

/-- VDESC's first four lanes. -/
def descend (init : Bool) (a b : VReg) : Nat → Word :=
  let u :=
    if init then round32 (mulF (.fin false (bits (lane b 0).toNat 8 24) (-24)) (f32 (lane a 127))).1 else lane b 0
  let node : Nat := if init then 0 else (lane b 1).toNat
  let prev (i : Nat) : Word := if i = 0 then 0#32 else lane a (i - 1)
  let (c, fb, em) : Nat × Nat × Nat :=
    match firstBelow (fun i => gt32 (lane a i) u) 128 with
    | some c => (c, 0, 0)
    | none =>
      match lastBelow (fun i => gt32 (lane a i) (prev i)) 128 with
      | some c => (c, 1, 0)
      | none => (0, 1, 1)
  fun i =>
    match i with
    | 0 => fminmax true false 0#32 (sub32 u (prev c))
    | 1 => BitVec.ofNat 32 (node * 128 + c)
    | 2 => BitVec.ofNat 32 c
    | 3 => BitVec.ofNat 32 (em * 2 + fb)
    | _ => 0#32

def execVdesc (init : Bool) (d : Fin 32) (a : RK 32) (b : Fin 32) (s : State) : Out :=
  .next (s.landAllV 6 d (descend init (s.me.vSrc a) s.me.v[b]))

/-! ## VCMP48 (R246) -/

/-- An element's magnitude as an ordinal: a NaN above an infinity. -/
def magnitude (f : Fmt) (x : Nat) : Nat :=
  match floatSpec f with
  | some sp => if (fval f x).isNan then 2 ^ (fmtWidth f) else x % 2 ^ (sp.ebits + sp.mbits)
  | none =>
    match fval f x with
    | .fin _ m _ => m
    | _ => 0

/-- Whether element j of a group of eight is kept. -/
def kept (m : Nat → Nat) (j : Nat) : Bool :=
  decide (countBelow (fun k => decide (m j < m k) || m j == m k && decide (k < j)) 8 < 4)

/-- The byte n of a VCMP48 result. -/
def cmp48Byte (m : C48Mode) (src : Nat → Byte) (f : Fmt) : Nat → Byte :=
  let w := fmtWidth f
  let count := 4096 / w
  let el := elemAt src w
  let mag (g j : Nat) : Nat := magnitude f (el (8 * g + j))
  match m with
  | .mask => fun n => if n < count / 8 then BitVec.ofNat 8 (bitsOf (kept (mag n)) 8) else 0#8
  | .zero => fun n => if kept (mag (n * 8 / w / 8)) (n * 8 / w % 8) then src n else 0#8
  | .pack =>
    let nth (g i : Nat) : Nat := (((List.range 8).filter (kept (mag g))).getD i 0)
    packByte (fun e => el (8 * (e / 4) + nth (e / 4) (e % 4))) w (count / 2)

def execVcmp48 (m : C48Mode) (d : Fin 32) (a : RK 32) (fmt : Fmt) (g : Guard) (s : State) : Out :=
  let v := s.me.vSrc a
  let row := vOfBytes (cmp48Byte m (vbyte v) fmt)
  s.landV 5 d g (lane row)

end Sys2Proof.Machine
end

