-- ==== Sys2Proof/Machine/Copy.lean ====
section
/-!
DEFINITION. The Q slot's submissions to the copy queues and to the network engine: R279 to R297 of
spec/21_global_queue_instructions.md, R159, R161, R417.
-/
namespace Sys2Proof.Machine

/-! ## Copy records (R284 to R286) -/

/-- The source and destination spaces of a kind (Table 16). -/
def kindSpaces (kind : Nat) : List Nat × List Nat :=
  match kind with
  | 1 => ([0, 1, 3, 4], [0, 1, 2, 3, 4])
  | 2 => ([0, 4], [0, 1, 2])
  | 3 => ([0, 1, 3], [5])
  | 4 => ([0, 1, 4], [2])
  | _ => ([], [])

/-- Whether an address's low or high word has bits outside its form (Table 15, R134, R141). -/
def badAddr (space : Nat) (lo hi : Word) : Bool × Bool :=
  match space with
  | 1 => (lo.toNat / 2 ^ 22 != 0, hi != 0#32)
  | 2 => (lo.toNat / 2 ^ 24 != 0, hi != 0#32)
  | 3 => (lo.toNat / 2 ^ 21 != 0, bits hi.toNat 0 8 != 0 || hi.toNat / 2 ^ 16 != 0)
  | _ => (false, hi.toNat / 2 ^ 16 != 0)

/-- How many elements of a format fill whole bytes. -/
def perByte (f : Fmt) : Nat :=
  match fmtWidth f with
  | 4 => 2
  | 6 => 4
  | _ => 1

/-- The words of a record that break a rule of R284 to R286, with the rule's test. DESIGN CHOICE: R283 does not say
which word fails first where a condition lies in two: a valid count above its bound fails at w8, formats that do not
fit the flags or the kind at w9, and a flag that the formats or the kind forbid at w0 (log 45). -/
def recTests (w : Vector Word 16) : List (Nat × Bool) :=
  let sf := recSrcFmt w
  let df := recDstFmt w
  let sp := kindSpaces (recKind w)
  let narrow := decide (fmtWidth sf < 8) || decide (fmtWidth df < 8)
  let src := badAddr (recSrc w) w[1] w[2]
  let dst := badAddr (recDst w) w[3] w[4]
  let k4 := recKind w == 4
  [ (0, recVersion w != 1 || !sp.1.contains (recSrc w) || !sp.2.contains (recDst w) ||
        recFlag w 5 && recFlag w 6 || recFlag w 0 && (narrow || k4)),
    (1, src.1), (2, src.2), (3, dst.1 || k4 && recDstAddr w % 16384 != 0), (4, dst.2),
    (5, recCols w % perByte sf != 0 || recCols w % perByte df != 0 ||
        k4 && (recRows w != (kBlock df df).1 || recCols w != 128)),
    (7, k4 && w[7] != 0#32),
    (8, decide (recRows w < recVRows w) || decide (recCols w < recVCols w) ||
        recVCols w % perByte sf != 0 || recVCols w % perByte df != 0),
    (9, w[9].toNat / 2 ^ 8 != 0 || decide (14 ≤ bits w[9].toNat 4 4) || decide (14 ≤ bits w[9].toNat 0 4) ||
        !recFlag w 1 && sf != df || recFlag w 1 && df == .tf32 ||
        recKind w == 3 && !(df == .fp32 || df == .int32) || k4 && decide (11 < bits w[9].toNat 0 4)),
    (11, w[11].toNat / 2 ^ 3 != 0 || decide (4 < recMode w)),
    (12, w[12].toNat / 2 ^ 28 != 0),
    (14, w[14] != 0#32), (15, w[15] != 0#32) ]

/-- The first failing word of a malformed record. -/
def recBad (w : Vector Word 16) : Option Nat := ((recTests w).find? (·.2)).map (·.1)

/-- A record's sixteen words. -/
def recOf (bs : List Byte) : Vector Word 16 := Vector.ofFn fun i : Fin 16 => BitVec.ofNat 32 (leAt bs (4 * i.val) 4)

/-- An address or a stride that breaks check 4 (Table 13). -/
def recMisaligned (w : Vector Word 16) : Option Int :=
  let side (space : Nat) (f : Fmt) (a : Nat) (stride : Int) : List (Int × Bool) :=
    let n : Int := (fmtWidth f / 8 : Nat)
    let off (x : Int) : Bool := (decide (1 < n) && x % n != 0) || (space == 4 && x % 512 != 0)
    [((a : Int), off a), (stride, off stride)]
  ((side (recSrc w) (recSrcFmt w) (recSrcAddr w) (recSrcStride w) ++
    side (recDst w) (recDstFmt w) (recDstAddr w) (recDstStride w)).find? (·.2)).map (·.1)

/-- An address of a record that lies in a pipe. -/
def State.recPipe (s : State) (w : Vector Word 16) : Option Nat :=
  if recSrc w = 0 ∧ s.inPipe (recSrcAddr w) 1 then some (recSrcAddr w)
  else if (recDst w = 0 ∨ recDst w = 5) ∧ s.inPipe (recDstAddr w) 1 then some (recDstAddr w)
  else none

/-- The form of a pipe access (R59, R292). -/
def State.pipeForm (s : State) (e : CopyElem) : Bool :=
  let w := e.words
  (s.elemPipe e).isSome && recKind w == 1 && recRows w == 1 && recVRows w == 1 && recVCols w == recCols w &&
    recCols w * fmtWidth (recSrcFmt w) == 4096 && !recFlag w 1 && !recFlag w 0

/-! ## Submission (R159, R279, R280) -/

/-- An element as the executing context submits it, without its numbers. -/
def State.newElem (s : State) (w : Vector Word 16) (isRed : Bool) (q : Fin 4) : CopyElem :=
  let x := s.me
  let marks := s.reqs.flatMap fun r =>
    match r.kind with
    | .qfence m ms => if r.c = s.focus.c ∧ r.state = .waiting ∧ m.getLsbD q.val then ms else []
    | _ => []
  { id := 0, seq := 0#32, owner := s.focus.c, task := x.task, gid := x.gid, base := x.windowBase
    size := x.spsize.toNat, words := w, isRed, dice := (x.dkey, x.dctrh, x.dctrl), fence := marks
    after := s.fencesOf s.focus.c, begun := false, row := 0, phase := .start, susp := .none, silent := false
    voided := false, wrote := false }

/-- A ticket (Table 11). -/
def ticket (q : Fin 4) (core : Fin 64) (seq : Word) : DWord :=
  ((BitVec.ofNat 2 q.val ++ BitVec.ofNat 6 core.val ++ seq : BitVec 40)).setWidth 64

/-- An element joins a queue that has room for it, and its ticket is the result. -/
def State.submit (s : State) (q : Fin 4) (d : Fin 16) (e : CopyElem) : State :=
  let c := s.focus.c.core
  let (id, s) := s.newId
  let x := (s.core c).copyq[q]
  let seq := x.sub + 1#32
  let s := s.modCore c fun k =>
    { k with copyq := k.copyq.set q { x with elems := x.elems ++ [{ e with id, seq }], sub := seq } }
  let s := if x.elems.isEmpty then s.due (.copyElementStart c q) else s
  s.land 1 (.g d (ticket q c seq))

/-- Whether a queue holds 32 elements. -/
def State.queueFull (s : State) (q : Fin 4) : Bool := decide (32 ≤ (s.mine.copyq[q]).elems.length)

/-- The dice of a stochastic record advance as DICE's draw index does (R288). -/
def State.drawForCopy (s : State) : State :=
  let lo := s.me.dctrl
  let s := s.land 1 (.sr .dctrl (nextDraw lo))
  if drawIndex lo = 0xFFFF then s.land 1 (.sticky dsatBit) else s

def execQcpy (d : Fin 16) (a : RK 16) (q : Fin 4) (s : State) : Out :=
  s.withG (d :: RK.gReg a) <|
    let o : Nat := (s.me.gSrc a).toNat % 2 ^ 32
    s.withRecord 64 64 o fun bs s =>
      let w := recOf bs
      match recBad w with
      | some i => s.raiseD .illegal 0x20#8 (BitVec.ofNat 64 (o + 4 * i))
      | none =>
        match recMisaligned w with
        | some x => s.raise .align (BitVec.ofInt 64 x)
        | none =>
          let e := s.newElem w false q
          match s.recPipe w, s.pipeForm e with
          | some p, false => s.raiseD .protection 0x02#8 (BitVec.ofNat 64 p)
          | _, _ =>
            if recDst w = 4 ∧ s.me.gid ≠ 0#8 then
              s.raiseD .protection 0x04#8 (BitVec.ofNat 64 (recDstAddr w))
            else if recMode w = 4 ∧ drawIndex s.me.dctrl = 0xFFFF ∧ s.me.dsattrap then s.raise .dicesat 0#64
            else if s.queueFull q then s.raise .qfull (BitVec.ofNat 64 q.val)
            else .next ((if recMode w = 4 then s.drawForCopy else s).submit q d e)

/-- The record that a QRED stands for. -/
def redRecord (i32 : Bool) (va off size : Nat) : Vector Word 16 :=
  let f := if i32 then 13 else 12
  #v[0x01031500#32, BitVec.ofNat 32 off, 0#32, BitVec.ofNat 32 va, BitVec.ofNat 32 (va / 2 ^ 32),
    BitVec.ofNat 32 (2 ^ 16 + size / 4), 0#32, 0#32, BitVec.ofNat 32 (2 ^ 16 + size / 4),
    BitVec.ofNat 32 (f * 16 + f), 0#32, 0#32, 0#32, 0#32, 0#32, 0#32]

def execQred (i32 : Bool) (d : Fin 16) (a : RK 16) (b : Fin 16) (size : BitVec 2) (q : Fin 4) (s : State) : Out :=
  s.withG (d :: b :: RK.gReg a) <|
    let n := 64 * 2 ^ size.toNat
    let va := devAddr (s.me.gSrc a) 0
    let o : Nat := s.me.g[b].toNat % 2 ^ 32
    s.withSpad 64 n false [(o : Int)] fun _ =>
      if va % n ≠ 0 then s.raise .align (BitVec.ofNat 64 va)
      else if s.queueFull q then s.raise .qfull (BitVec.ofNat 64 q.val)
      else .next (s.submit q d (s.newElem (redRecord i32 va o n) true q))

/-! ## QPOLL and QFENCE (R281, R282) -/

/-- QPOLL's word (Table 12); a fault that is met and not yet detected does not show (R399). -/
def pollWord (core : Fin 64) (x : CopyQueue) (met : Bool) (t : DWord) : DWord :=
  let seq := t.setWidth 32
  let done := (bits t.toNat 32 6 != core.val) || decide ((x.comp - seq).toNat < 2 ^ 31)
  let susp := !met && x.elems.head?.any fun e => match e.susp with | .fault _ => true | _ => false
  BitVec.ofBool done ++ BitVec.ofBool susp ++ 0#6 ++ BitVec.ofNat 8 (32 - x.elems.length) ++ 0#16 ++ x.comp

def execQpoll (acq : Bool) (d : Fin 16) (a : RK 16) (s : State) : Out :=
  s.withG (d :: RK.gReg a) <|
    let t := s.me.gSrc a
    let q : Fin 4 := Fin.ofNat 4 (bits t.toNat 38 2)
    let c := s.focus.c.core
    let s := s.land 1 (.g d (pollWord c (s.core c).copyq[q] (s.faultDue (.copy c q)) t))
    .next (if acq then s.acquireNow c else s)

/-- The elements of masked queues, as marks for a fence. -/
def Core.marks (k : Core) (mask : BitVec 4) : List (Fin 4 × Word) :=
  (k.allElems.filter fun x => mask.getLsbD x.1.val).map fun x => (x.1, x.2.seq)

def execQfence (d : Fin 16) (mask : BitVec 4) (s : State) : Out :=
  s.withG [d] <|
    .next (s.post (.qfence mask (s.mine.marks mask)) (some d) none false false .qfenceComplete)

/-- Whether a fence's elements have all completed. -/
def State.fenceDone (s : State) (r : Req) : Bool :=
  match r.kind with
  | .qfence _ ms => !(s.core r.c.core).allElems.any fun x => ms.contains (x.1, x.2.seq)
  | _ => true

/-- QFENCE_COMPLETE. -/
def execQfenceComplete (id : Nat) (s : State) : Out :=
  match s.req? id with
  | none => .next s
  | some r => if r.state = .waiting ∧ s.fenceDone r then .next (s.form r 0#64 0#64) else .next s

/-! ## MSG and A2A (R296, R297, R417) -/

/-- Bytes at pieces written at the home slices. -/
def State.putPieces (s : State) : List (Nat × Nat) → List Byte → State
  | [], _ => s
  | (pa, n) :: ps, bs => (s.writeHome pa (bs.take n)).putPieces ps (bs.drop n)

/-- The pieces of a span that a delivery writes, translated by the module's tables. -/
def State.deliverSpan (s : State) (va n : Nat) : (Trans ⊕ List (Nat × Nat)) × State :=
  if s.inPipe va n then (.inl (.bad 0x0C#8 0x02#8), s)
  else
    match s.transSpan none .write va (n / 65536 + 2) n [] with
    | (.inl t, _, s) => (.inl t, s)
    | (.inr ps, _, s) =>
      (if (s.guardedAt .engWrite va ps).isSome then .inl (.bad 0x0C#8 0x02#8) else .inr ps, s)

/-- A delivery at this module, translated by its tables: written at the home slices, then its bell. The
result is none where translation or permission fails, and asks the host where a page awaits it. DESIGN CHOICE: R296 does
not say what is written where the bell alone fails, by its page or by an uncorrectable error in it (R146): neither the
payload nor the bell is (log 45). -/
def State.deliver (s : State) (va : Nat) (bs : List Byte) (bell : Option Nat) : Trans × State :=
  match s.deliverSpan va bs.length, bell with
  | (.inl t, s), _ => (t, s)
  | (.inr ps, s), none => (.ok 0, s.putPieces ps bs)
  | (.inr ps, s), some b =>
    match s.deliverSpan b 8 with
    | (.inl t, s) => (t, s)
    | (.inr qs, s) =>
      if qs.any fun p => s.isBad .dram p.1 p.2 then (.ecc b, s)
      else
        let s := s.putPieces ps bs
        let old := leNat (qs.flatMap fun p => s.dram.bytes p.1 p.2)
        (.ok 0, s.putPieces qs (leBytes 8 (old + 1)))

/-- The association of a peer. -/
def State.peerAssoc (s : State) (m : Nat) : Option (Fin 16) :=
  (List.finRange 16).find? fun a => s.assocs[a].any fun x => x.opened && x.peer.map (·.val) == some m

/-- Whether a peer is a member other than the module itself, whose own bit is ignored (R408, R421). -/
def PeerSet.holds (x : PeerSet) (p : Nat) : Bool := x.members.getLsbD p && decide (p ≠ x.own.val)

/-- Whether the peer set has a member. -/
def State.hasPeer (s : State) (m : Nat) : Bool := s.peers.holds m

/-- A PEER message: the request's number, the address, the bell's address or all ones, and the payload (log 17). -/
def State.peerSend (s : State) (id m va : Nat) (bs : List Byte) (bell : Option Nat) : State :=
  match s.peerAssoc m with
  | none => s
  | some a => s.send a 0x09#8 (leBytes 8 id ++ leBytes 8 va ++ leBytes 8 (bell.getD (2 ^ 64 - 1)) ++ bs)

/-- The bit of a peer in a mask. -/
def peerBit (p : Nat) : BitVec 8 := BitVec.ofNat 8 (2 ^ p)

/-- A peer's result has come for a MSG or an A2A: with the last one, the delivery is complete. -/
def State.netAnswer (s : State) (id p : Nat) (causes : BitVec 4) : State :=
  match s.netWaits.find? fun w => w.id == id && w.peers.getLsbD p with
  | none => s
  | some w =>
    let w := { w with
      peers := w.peers &&& ~~~ peerBit p, causes := w.causes ||| causes
      failed := if causes = 0#4 then w.failed else w.failed ||| peerBit p }
    let rest := s.netWaits.filter fun x => x.id != id
    if w.peers ≠ 0#8 then { s with netWaits := rest ++ [w] }
    else
      let s := { s with netWaits := rest }
      match (s.req? id).map Req.kind with
      | some (.unit (.msg ..) ..) => s.due (.msgDelivered id w.causes)
      | some (.unit .a2a ..) => s.due (.a2aDelivered id w.causes w.failed)
      | _ => s

/-- The association with a peer is lost: what waits for its results has bit 2 (R417). -/
def State.peerLost (s : State) (p : Nat) : State :=
  (s.netWaits.filter fun w => w.peers.getLsbD p).foldl (fun s w => s.netAnswer w.id p 0x4#4) s

/-- MSG. DESIGN CHOICE: Table 18 gives g[b][63:32] as 0 and names no consequence of other bits: they are ignored (log
45). -/
def execMsg (bell : Bool) (size : BitVec 2) (d : Fin 16) (a : RK 16) (b : Fin 16) (s : State) : Out :=
  s.withG (d :: b :: RK.gReg a) <|
    let n := 64 * 2 ^ size.toNat
    let w := s.me.gSrc a
    let va := w.toNat % 2 ^ 48
    let o : Nat := s.me.g[b].toNat % 2 ^ 32
    if va % 64 ≠ 0 then s.raise .align (BitVec.ofNat 64 va)
    else
      s.withRecord 64 n o fun bs s =>
        .next (s.post (.unit (.msg bell n) w s.me.g[b] bs) (some d) none false false (.msgDelivered · 0#4))

/-- The result of MSG and A2A: 0, or bit 63 with the causes and the failed peers. -/
def netResult (causes : BitVec 4) (failed : BitVec 8) : DWord :=
  if causes = 0#4 then 0#64 else 0x8000000000000000#64 ||| (failed ++ 0#4 ++ causes : BitVec 16).setWidth 64

/-- The network engine's requests of a context perform in issue order (R296), after its earlier fences (R151). -/
def State.netReady (s : State) (r : Req) : Bool :=
  s.unfenced r && (earlier r.id s.reqs).all fun q =>
    !(q.c == r.c && q.state == .waiting && match q.kind with
      | .unit (.msg ..) .. | .unit .a2a .. => true
      | _ => false)

/-- A unit's access waits for the host to answer a page fault (R405). -/
def State.unitPageFault (s : State) (r : Req) (va : Nat) (access : Access) : State :=
  let s := { s with reqs := s.reqs.map fun (q : Req) => if q.id = r.id then { q with started := true } else q }
  let (id, s) := s.startWalk (.unit r.id) 7 va access (r.task.map (·.launch))
  match s.walks.find? fun w => w.id == id with
  | some w => s.pageFault w
  | none => s

/-- Whether the request waits for the host. -/
def State.unitWaits (s : State) (id : Nat) : Bool :=
  s.walks.any fun w => w.who == .unit id && w.fault.isSome

/-- Causes of a delivery at this module: none, or bit 1. -/
def transCauses (t : Trans) : BitVec 4 :=
  match t with
  | .ok _ => 0#4
  | _ => 0x2#4

/-- A delivery's result forms; a delivery without a failure is a sink of its launch's watchdog (R385). -/
def State.formNet (s : State) (r : Req) (causes : BitVec 4) (failed : BitVec 8) : State :=
  let s := if causes = 0#4 then s.sink (r.task.map (·.launch)) else s
  s.form r (netResult causes failed) 0#64

/-- A fault of a unit's own access of device memory: the record names the unit, and the context stops before
its next packet (R390, R399; log 21). -/
def State.unitFault (s : State) (r : Req) (src : BitVec 4) (code detail : BitVec 8) (va : Nat) : State :=
  let s := s.dropReq r.id
  if r.orphaned ∨ (s.ctx r.c).run = .faulted then s
  else
    (s.modCtx r.c fun x =>
      { x with cause := causeWord src true 0 detail code, faddr := BitVec.ofNat 64 va, finfo := src ++ 0#32 }).engineStop r.c

/-- MSG's PEER message goes to its module, or the payload and the bell are written here. -/
def State.sendMsg (s : State) (r : Req) (bell : Bool) (n : Nat) (a : DWord) (bs : List Byte) : State :=
  let m := bits a.toNat 48 3
  let va := a.toNat % 2 ^ 48
  let ring := if bell then some ((va + n) % 2 ^ 48) else none
  if bits a.toNat 51 13 ≠ 0 then s.formNet r 0x8#4 0#8
  else if m = s.peers.own.val then
    match s.deliver va bs ring with
    | (.host, s) => if r.pageFailed ≠ [] then s.formNet r 0x2#4 0#8 else s.unitPageFault r va .write
    | (.ecc a, s) => s.unitFault r 0x6#4 0x0E#8 0x00#8 a
    | (t, s) => s.formNet r (transCauses t) 0#8
  else if !s.hasPeer m then s.formNet r 0x1#4 0#8
  else if (s.peerAssoc m).isNone then s.formNet r 0x4#4 0#8
  else
    let sent : NetWait := ⟨r.id, peerBit m, 0#4, 0#8⟩
    let s := { s with netWaits := s.netWaits ++ [sent] }
    (s.putReq { r with state := .served }).peerSend r.id m va bs ring

/-- MSG_DELIVERED: in its turn, the message goes; with its module's result, or at once here, its result forms. -/
def execMsgDelivered (id : Nat) (causes : BitVec 4) (s : State) : Out :=
  match s.req? id with
  | none => .next s
  | some r =>
    match r.kind with
    | .unit (.msg bell n) a _ bs =>
      match r.state with
      | .formed => .next s
      | .served => .next (if s.netWaits.any (·.id == id) then s else s.formNet r causes 0#8)
      | .waiting => .next (if !s.netReady r ∨ s.unitWaits id then s else s.sendMsg r bell n a bs)
    | _ => .next s

/-- The row count of a peer in an A2A record. -/
def a2aCount (w : Vector Word 16) (p : Nat) : Nat :=
  bits (w.toList.getD (7 + p / 2) 0#32).toNat (16 * (p % 2)) 16

/-- The peers of an A2A record's mask. -/
def a2aPeers (w : Vector Word 16) : List Nat := (List.range 8).filter fun p => w[0].getLsbD (16 + p)

/-- The first failing word of an A2A record (Table 19). -/
def a2aBad (w : Vector Word 16) : Option Nat :=
  let row := bits w[5].toNat 0 16
  ((([ (0, recVersion w != 1 || bits w[0].toNat 1 15 != 0),
      (5, w[5].toNat / 2 ^ 16 != 0 || row % 64 != 0 || row == 0 || decide (4096 < row)),
      (6, w[6].toNat % 64 != 0 || (a2aPeers w).any fun p => decide (w[6].toNat < 64 + a2aCount w p * row)),
      (14, w[14] != 0#32), (15, w[15] != 0#32) ] : List (Nat × Bool))).find? (·.2)).map (·.1)

def execA2a (d : Fin 16) (a : RK 16) (s : State) : Out :=
  s.withG (d :: RK.gReg a) <|
    let o : Nat := (s.me.gSrc a).toNat % 2 ^ 32
    s.withRecord 64 64 o fun bs s =>
      match a2aBad (recOf bs) with
      | some i => s.raiseD .illegal 0x20#8 (BitVec.ofNat 64 (o + 4 * i))
      | none =>
        .next (s.post (.unit .a2a 0#64 0#64 bs) (some d) none false false (.a2aDelivered · 0#4 0#8))

/-- What one peer receives: its header and rows, in one run from its slot on. -/
def a2aBytes (w : Vector Word 16) (n : Nat) (rows : List Byte) : List Byte :=
  leBytes 4 n ++ leBytes 4 w[11].toNat ++ List.replicate 56 0#8 ++ rows

/-- Deliveries to the peers of the mask in ascending order: one here is written, one elsewhere goes as a PEER
message whose result is waited for. With them, where a delivery here has read an uncorrectable error, if it has. -/
def State.a2aRun (s : State) (id : Nat) (w : Vector Word 16) (send : List Byte) :
    List Nat → NetWait → Option Nat → NetWait × Option Nat × State
  | [], x, e => (x, e, s)
  | p :: ps, x, e =>
    let n := a2aCount w p
    let len := n * bits w[5].toNat 0 16
    let recv := (w[3].toNat + 2 ^ 32 * w[4].toNat + s.peers.own.val * w[6].toNat) % 2 ^ 48
    let bell := if w[0].getLsbD 0 then some ((w[12].toNat + 2 ^ 32 * w[13].toNat) % 2 ^ 48) else none
    let bs := a2aBytes w n (send.take len)
    let fails (c : BitVec 4) : NetWait :=
      if c = 0#4 then x else { x with causes := x.causes ||| c, failed := x.failed ||| peerBit p }
    let (x, e, s) : NetWait × Option Nat × State :=
      if p = s.peers.own.val then
        match s.deliver recv bs bell with
        | (.ecc a, s) => (x, some a, s)
        | (t, s) => (fails (transCauses t), e, s)
      else if !s.hasPeer p then (fails 0x1#4, e, s)
      else if (s.peerAssoc p).isNone then (fails 0x4#4, e, s)
      else ({ x with peers := x.peers ||| peerBit p }, e, s.peerSend id p recv bs bell)
    s.a2aRun id w (send.drop len) ps x e

/-- The bytes that an A2A sends, in one run. -/
def a2aTotal (w : Vector Word 16) : Nat :=
  ((a2aPeers w).foldl (fun n p => n + a2aCount w p) 0) * bits w[5].toNat 0 16

/-- A page of the send area, of the local peer's slot, or of the local bell, that awaits the host. -/
def State.a2aHost (s : State) (w : Vector Word 16) : Option (Nat × Access) :=
  let send := (w[1].toNat + 2 ^ 32 * w[2].toNat) % 2 ^ 48
  let n := a2aTotal w
  match s.transSpan none .read send (n / 65536 + 2) n [] with
  | (.inl .host, va, _) => some (va, .read)
  | _ =>
    if (a2aPeers w).contains s.peers.own.val then
      let recv := (w[3].toNat + 2 ^ 32 * w[4].toNat + s.peers.own.val * w[6].toNat) % 2 ^ 48
      let len := 64 + a2aCount w s.peers.own.val * bits w[5].toNat 0 16
      match s.transSpan none .write recv (len / 65536 + 2) len [] with
      | (.inl .host, va, _) => some (va, .write)
      | (.inl _, _, _) => none
      | (.inr _, _, _) =>
        let bell := (w[12].toNat + 2 ^ 32 * w[13].toNat) % 2 ^ 48
        if w[0].getLsbD 0 then
          match s.transSpan none .write bell 2 8 [] with
          | (.inl .host, va, _) => some (va, .write)
          | _ => none
        else none
    else none

/-- An A2A's rows are read at the home slices and go to its peers; with none elsewhere, its result forms. -/
def State.sendA2a (s : State) (r : Req) (w : Vector Word 16) : State :=
  let send := (w[1].toNat + 2 ^ 32 * w[2].toNat) % 2 ^ 48
  let n := a2aTotal w
  match (s.a2aHost w).filter fun x => !r.pageFailed.contains (x.1 / 65536) with
  | some (va, access) => s.unitPageFault r va access
  | none =>
    match s.transSpan none .read send (n / 65536 + 2) n [] with
    | (.inl (.bad code detail), va, s) => s.unitFault r 0x6#4 code detail va
    | (.inl (.ecc pa), _, s) => s.unitFault r 0x6#4 0x0E#8 0x00#8 pa
    | (.inl _, va, s) => s.unitFault r 0x6#4 0x0B#8 0x03#8 va
    | (.inr ps, _, s) =>
      if s.inPipe send n then s.unitFault r 0x6#4 0x0C#8 0x02#8 send
      else if ps.any fun p => s.isBad .dram p.1 p.2 then s.unitFault r 0x6#4 0x0E#8 0x00#8 send
      else
        let (rows, s) := s.readPieces 0#8 ps
        let (x, e, s) := s.a2aRun r.id w rows (a2aPeers w) ⟨r.id, 0#8, 0#4, 0#8⟩ none
        if let some a := e then s.unitFault r 0x6#4 0x0E#8 0x00#8 a
        else if x.peers = 0#8 then s.formNet r x.causes x.failed
        else ({ s with netWaits := s.netWaits ++ [x] }).putReq { r with state := .served }

/-- A2A_DELIVERED: in its turn, the rows go; with every peer's result its own forms. -/
def execA2aDelivered (id : Nat) (causes : BitVec 4) (failed : BitVec 8) (s : State) : Out :=
  match s.req? id with
  | none => .next s
  | some r =>
    match r.kind with
    | .unit .a2a _ _ bs =>
      match r.state with
      | .formed => .next s
      | .served => .next (if s.netWaits.any (·.id == id) then s else s.formNet r causes failed)
      | .waiting => .next (if !s.netReady r ∨ s.unitWaits id then s else s.sendA2a r (recOf bs))
    | _ => .next s

/-! ## NVMe timeouts (R419) -/

/-- The space-4 address at which an element reads its row, or a compressed stream begins. -/
def CopyElem.flashSource (e : CopyElem) : Nat :=
  flashAddr (recSrcAddr e.words) (if recKind e.words = 2 then 0 else e.row * recSrcStride e.words)

/-- The space-4 address at which an element writes the first of its row's elements. -/
def CopyElem.flashTarget (e : CopyElem) : Nat :=
  flashAddr (recDstAddr e.words) (if recFlag e.words 0 then ((e.row * (fmtWidth (recDstFmt e.words) / 8) : Nat) : Int)
    else e.row * recDstStride e.words)

/-- The space-4 address whose drive has not answered, in the row at hand; which of two is an open choice (log 5). -/
def State.slowDrive (s : State) (e : CopyElem) : Nat × State :=
  if recSrc e.words = 4 ∧ recDst e.words = 4 then
    let (n, s) := s.choose 2
    (if n = 0 then e.flashSource else e.flashTarget, s)
  else (if recSrc e.words = 4 then e.flashSource else e.flashTarget, s)

/-- NVME_TIMEOUT: an element's command to a drive has not completed within 1 s: MEMECC, detail 0x11, and an
NVME event with the drive and the status (log 17). It acts on a queue's element that uses space 4. -/
def execNvmeTimeout (core : Fin 64) (q : Fin 4) (s : State) : Out :=
  match s.firstElem core q with
  | none => .next s
  | some e =>
    if !e.begun ∨ e.susp ≠ .none ∨ !(recSrc e.words = 4 ∨ recDst e.words = 4) ∨ e.phase = .finished then .next s
    else
      let (a, s) := s.slowDrive e
      let s := s.moduleEvent 0x0B (leBytes 4 (bits a 46 2) ++ leBytes 4 0x11)
      .next (s.suspend core q e (memeccFault 0x11#8 a))

end Sys2Proof.Machine
end

