-- ==== Sys2Proof/Machine/Gambit.lean ====
section
/-!
DEFINITION. Gambits: R342 to R355 of spec/27_gambits.md.
-/
namespace Sys2Proof.Machine

/-! ## Issue (R350) -/

/-- A request to a unit, performed by an event. -/
def State.unit (s : State) (op : UnitOp) (a b : DWord) (bs : List Byte) (d : Fin 16) (rel : Bool)
    (e : Nat → Instr) : State :=
  s.post (.unit op a b bs) (some d) none false rel e

/-- The next packet of the context waits for a g register. -/
def State.waitG (s : State) (d : Fin 16) : State := s.setMe { s.me with gWait := some d }

def execGopen (d : Fin 16) (a : RK 16) (s : State) : Out :=
  s.withG (d :: RK.gReg a) (.next ((s.unit .gopen (s.me.gSrc a) 0#64 [] d false .gResultLand).waitG d))
def execGenter (d : Fin 16) (a : RK 16) (s : State) : Out :=
  s.withG (d :: RK.gReg a) (.next ((s.unit .genter (s.me.gSrc a) 0#64 [] d false .gResultLand).waitG d))
def execGresConfirm (d : Fin 16) (a : RK 16) (s : State) : Out :=
  s.withG (d :: RK.gReg a) (.next ((s.unit (.gres false) (s.me.gSrc a) 0#64 [] d true .gresComplete).waitG d))
def execGresRefute (d : Fin 16) (a : RK 16) (s : State) : Out :=
  s.withG (d :: RK.gReg a) (.next ((s.unit (.gres true) (s.me.gSrc a) 0#64 [] d true .gresComplete).waitG d))
def execGqry (d : Fin 16) (a : Option (RK 16)) (s : State) : Out :=
  match a with
  | some a => s.withG (d :: RK.gReg a) (.next (s.unit (.gqry false) (s.me.gSrc a) 0#64 [] d false .gResultLand))
  | none => s.withG [d] (.next (s.unit (.gqry true) 0#64 0#64 [] d false .gResultLand))

/-! ## The tree (R342, R351 to R355) -/

/-- An error result (Table 3). -/
def gErr (n : Nat) : DWord := BitVec.ofNat 64 (0xFFFFFFFFFFFFFF00 + n)

/-- Whether a gambit is live. -/
def State.live (s : State) (g : Nat) : Bool := g == 0 || (lookupNat s.gambits g).isSome

/-- Its depth. -/
def State.depth (s : State) (g : Nat) : Nat := ((lookupNat s.gambits g).map (·.depth)).getD 0

/-- Its parent. -/
def State.parent (s : State) (g : Nat) : Nat := ((lookupNat s.gambits g).map (·.parent.toNat)).getD 0

/-- The lowest free identifier. -/
def State.freeGambit (s : State) : Option Nat := (List.range 256).find? fun g => !s.live g

/-- Requests to the gambit controller. -/
def UnitOp.toGambits : UnitOp → Bool
  | .gopen | .genter | .gres _ | .gqry _ => true
  | _ => false

/-- A request to the controller in its context's issue order (R343). -/
def State.gambitReady (s : State) (r : Req) : Bool :=
  (earlier r.id s.reqs).all fun q =>
    !(q.c == r.c && q.state == .waiting && match q.kind with
      | .unit op .. => op.toGambits
      | _ => false)

/-- GDEPTH: it stops the context as its result would form (R351). -/
def State.gdepth (s : State) (r : Req) (p : Nat) : State :=
  let s := s.dropReq r.id
  if r.orphaned then s
  else s.takeFault r.c 7 .gdepth 0x00#8 (s.ctx r.c).pc (BitVec.ofNat 64 p)

/-- GOPEN is served. -/
def State.serveGopen (s : State) (r : Req) (a : DWord) : State :=
  let p := a.toNat
  if p / 2 ^ 8 ≠ 0 then s.finish { r with res := gErr 3 }
  else if !s.live p then s.finish { r with res := gErr 1 }
  else if s.depth p = 15 then s.gdepth r p
  else
    match s.freeGambit with
    | none => s.finish { r with res := gErr 2 }
    | some g =>
      ({ s with gambits := insertNat g ⟨BitVec.ofNat 8 p, s.depth p + 1⟩ s.gambits }).finish
        { r with res := BitVec.ofNat 64 g }

/-- GENTER is served. -/
def State.serveGenter (s : State) (r : Req) (a : DWord) : State :=
  let g := a.toNat
  if g / 2 ^ 8 ≠ 0 then s.finish { r with res := gErr 3 }
  else if !s.live g then s.finish { r with res := gErr 1 }
  else
    let s := if r.orphaned then s
      else s.modCtx r.c fun x => { x with gid := BitVec.ofNat 8 g, orphan := false }
    s.finish r

/-- GQRY's word (Table 2). -/
def State.gqryWord (s : State) (g : Nat) (live self orph : Bool) : DWord :=
  let lines := ((s.versions.filter fun v => v.gid.toNat == g).map fun v => v.sector / 8).eraseDups.length
  let kids := (s.gambits.filter fun x => x.2.parent.toNat == g).length
  let own := BitVec.ofBool (self && orph)
  if live then
    BitVec.ofNat 16 (min lines 65535) ++ 0#8 ++ BitVec.ofBool true ++ own ++ 0#2 ++
      BitVec.ofNat 4 (s.depth g) ++ BitVec.ofNat 8 (s.parent g) ++ BitVec.ofNat 8 g ++ BitVec.ofNat 8 kids ++
      BitVec.ofNat 8 s.gambits.length
  else
    0#24 ++ 0#1 ++ own ++ 0#2 ++ 0#4 ++ 0#8 ++ BitVec.ofNat 8 g ++ 0#8 ++ BitVec.ofNat 8 s.gambits.length

/-- GQRY is served. -/
def State.serveGqry (s : State) (r : Req) (self : Bool) (a : DWord) : State :=
  if self then
    let x := s.ctx r.c
    s.finish { r with res := s.gqryWord x.gid.toNat (s.live x.gid.toNat && !x.orphan) true x.orphan }
  else if a.toNat / 2 ^ 8 ≠ 0 then s.finish { r with res := gErr 3 }
  else s.finish { r with res := s.gqryWord a.toNat (s.live a.toNat) false false }

/-! ## Resolution (R353, R354) -/

/-- Whether a gambit is g or a descendant of it. -/
def under (gs : List (Nat × Gambit)) (g : Nat) : Nat → Nat → Bool
  | 0, _ => false
  | fuel + 1, x =>
    x == g || (x != 0 && match lookupNat gs x with
      | some y => under gs g fuel y.parent.toNat
      | none => false)

/-- A context's entries under resolved gambits: a scatter is discarded, and a gather goes on under the gambit that
remains (R354; log 22). -/
def Context.voidEntries (gone : BitVec 8 → Bool) (next : BitVec 8) (x : Context) : Context :=
  { x with aq := x.aq.map fun e =>
      if !gone e.gid then e else if e.kind = .gather then { e with gid := next } else { e with voided := true } }

/-- Work that contexts, bound or SAVED, submitted under resolved gambits: tagged writes that have not performed are
discarded, and reads that have not go on under the gambit that remains (R354; log 22). -/
def State.voidWork (s : State) (gone : BitVec 8 → Bool) (next : BitVec 8) : State :=
  { s with
    reqs := s.reqs.map fun r =>
      if !gone r.gid then r else if r.kind.isStore then { r with voided := true } else { r with gid := next }
    launches := s.launches.map fun l =>
      (l.1, { l.2 with tasks := l.2.tasks.map fun t => { t with saved := t.saved.map (·.voidEntries gone next) } })
    cores := s.cores.map fun k =>
      let ctxs := k.ctxs.map (·.voidEntries gone next)
      let copyq := k.copyq.map fun q =>
        { q with elems := q.elems.map fun e => if gone e.gid then { e with gid := next, voided := true } else e }
      { k with ctxs := ctxs, copyq := copyq, l1 := k.l1.filter fun y => !gone y.gid } }

/-- Every context, bound or SAVED, under a condition on its GID. -/
def State.mapGid (s : State) (gone : BitVec 8 → Bool) (f : Context → Context) : State :=
  let g (x : Context) : Context := if gone x.gid then f x else x
  { s with
    cores := s.cores.map fun k => { k with ctxs := k.ctxs.map g }
    launches := s.launches.map fun l =>
      (l.1, { l.2 with tasks := l.2.tasks.map fun t => { t with saved := t.saved.map g } }) }

/-- A version of g becomes its parent's, or committed data. -/
def State.mergeVersion (s : State) (p : BitVec 8) (v : Version) : State :=
  if p = 0#8 then s.writeHome (v.sector * 32) v.data
  else
    { s with versions :=
        s.versions.filter (fun w => !(w.gid == p && w.sector == v.sector)) ++ [{ v with gid := p }] }

/-- Confirm of g. -/
def State.confirm (s : State) (g : Nat) : State :=
  let p := s.parent g
  let pb := BitVec.ofNat 8 p
  let is (x : BitVec 8) : Bool := x.toNat == g
  let mine := s.versions.filter fun v => is v.gid
  let s := { s with versions := s.versions.filter fun v => !is v.gid }
  let s := mine.foldl (fun s v => s.mergeVersion pb v) s
  let s := (s.voidWork is pb).mapGid is fun x => { x with gid := pb }
  { s with gambits := (eraseNat g s.gambits).map fun x =>
      (x.1, { parent := if x.2.parent.toNat = g then pb else x.2.parent
              depth := if under s.gambits g 16 x.1 then x.2.depth - 1 else x.2.depth }) }

/-- Refute of g. -/
def State.refute (s : State) (g : Nat) : State :=
  let is (x : BitVec 8) : Bool := under s.gambits g 16 x.toNat
  let s' := s.mapGid is fun x => { x with orphan := true }
  let s' := s'.voidWork is (BitVec.ofNat 8 (s.parent g))
  { s' with versions := s'.versions.filter (fun v => !is v.gid)
            gambits := s'.gambits.filter fun x => !under s.gambits g 16 x.1 }

/-- GRES_COMPLETE: the release has completed, and every L1 and slice has processed the resolution. -/
def execGresComplete (id : Nat) (s : State) : Out :=
  match s.req? id with
  | none => .next s
  | some r =>
    match r.kind with
    | .unit (.gres refute) a _ _ =>
      if r.state ≠ .waiting ∨ !s.released r .dev ∨ !s.gambitReady r then .next s
      else
        let g := a.toNat
        if g / 2 ^ 8 ≠ 0 then .next (s.form r (gErr 3) 0#64)
        else if g = 0 then .next (s.form r (gErr 4) 0#64)
        else if !s.live g then .next (s.form r (gErr 1) 0#64)
        else
          let s := (if refute then s.refute g else s.confirm g).resumeGcap
          match s.req? id with
          | some r => .next (s.form r 0#64 0#64)
          | none => .next s
    | _ => .next s

end Sys2Proof.Machine
end

