-- ==== Sys2Proof/Machine/ProductKey.lean ====
section
/-!
DEFINITION. The product-key unit: R332 to R340 of spec/25_product_keys.md.
-/
namespace Sys2Proof.Machine

/-! ## The unit's accesses of device memory -/

/-- Why a unit's access fails: a page that awaits the host, a failed translation or permission, or an
uncorrectable error, with the address read. -/
inductive UnitErr where
  | host (va : Nat) (access : Access)
  | fault (code detail : BitVec 8) (va : Nat)
  | ecc (a : Nat)
deriving DecidableEq, Repr

/-- The physical pieces of a span that a unit reaches. -/
def State.unitSpan (s : State) (access : Access) (va n : Nat) : Except UnitErr (List (Nat × Nat)) :=
  match s.transSpan none access va (n / 65536 + 2) n [] with
  | (.inl (.bad c d), va, _) => .error (.fault c d va)
  | (.inl (.ecc pa), _, _) => .error (.ecc pa)
  | (.inl _, va, _) => .error (.host va access)
  | (.inr ps, _, _) => .ok ps

/-- Committed bytes that a unit reads. DESIGN CHOICE: an operation of a unit reads and writes in one step (R147; log
44). -/
def State.unitBytes (s : State) (va n : Nat) : Except UnitErr (List Byte) :=
  match s.unitSpan .read va n with
  | .error e => .error e
  | .ok ps =>
    if ps.any fun p => s.isBad .dram p.1 p.2 then .error (.ecc va)
    else .ok (ps.flatMap fun p => s.dram.bytes p.1 p.2)

/-- The walks of a unit's accesses use the lines of the entries that they read (R145, R405). -/
def State.usedSpans (s : State) (spans : List (Access × Nat × Nat)) : State :=
  spans.foldl (fun s x => (s.transSpan none x.1 x.2.1 (x.2.2 / 65536 + 2) x.2.2 []).2.2) s

/-- Bytes that a unit writes near memory, around the L2 (R333). -/
def State.unitPut (s : State) (bs : List Byte) : List (Nat × Nat) → State
  | [] => s
  | (pa, n) :: ps =>
    ((s.recall none pa n).setDram pa (bs.take n)).unitPut (bs.drop n) ps

/-- Rows of the unit's tables change one after another, each by a function of its bytes; the first that cannot be
read or written stops the rest, and what was done before it stands (R334). -/
def State.changeRows (s : State) : List (Nat × Nat × (List Byte → List Byte)) → Option UnitErr × State
  | [] => (none, s)
  | (va, n, f) :: rest =>
    match s.unitBytes va n, s.unitSpan .write va n with
    | .error e, _ => (some e, s)
    | .ok _, .error e => (some e, s)
    | .ok row, .ok ps => ((s.usedSpans [(.read, va, n), (.write, va, n)]).unitPut (f row) ps).changeRows rest

/-- The first page of spans that awaits the host's answer. -/
def State.awaitsHost (s : State) (r : Req) (spans : List (Access × Nat × Nat)) : Option (Nat × Access) :=
  spans.findSome? fun x =>
    match s.unitSpan x.1 x.2.1 x.2.2 with
    | .error (.host va access) => if r.pageFailed.contains (va / 65536) then none else some (va, access)
    | _ => none

/-- A request whose access fails: it waits for the host, or the record names the unit (log 21). -/
def State.unitFails (s : State) (r : Req) (e : UnitErr) (onEcc : State → State) : State :=
  match e with
  | .ecc _ => onEcc s
  | .fault c d va => s.unitFault r 0x7#4 c d va
  | .host va access =>
    if r.pageFailed.contains (va / 65536) then s.unitFault r 0x7#4 0x0B#8 0x03#8 va else s.unitPageFault r va access

/-! ## The selection record (R336) -/

/-- A record's fields. -/
structure SelRec where
  dw  : Bool
  n   : Nat
  idx : List Nat
  w   : List Word
  dws : List Word
  a   : List Nat
  b   : List Nat
deriving DecidableEq, Repr

/-- `n` little-endian numbers of `k` bytes from an offset. -/
def numsAt (bs : List Byte) (o k n : Nat) : List Nat := (List.range n).map fun i => leAt bs (o + k * i) k

/-- The fields of a record's bytes. -/
def selRec (bs : List Byte) : SelRec where
  dw := (leAt bs 0 4).testBit 6
  n := leAt bs 0 4 % 64
  idx := numsAt bs 16 4 32
  w := (numsAt bs 144 4 32).map (BitVec.ofNat 32)
  dws := (numsAt bs 272 4 32).map (BitVec.ofNat 32)
  a := numsAt bs 400 2 32
  b := numsAt bs 464 2 32

/-- A malformed record. -/
def selBad (bs : List Byte) (needDw : Bool) : Bool :=
  let h := leAt bs 0 4
  let r := selRec bs
  h / 2 ^ 24 != 1 || bits h 7 17 != 0 || leAt bs 4 12 != 0 || r.idx.any (fun i => i / 2 ^ 20 != 0) ||
    r.a.any (fun i => i / 2 ^ 10 != 0) || r.b.any (fun i => i / 2 ^ 10 != 0) || leAt bs 784 240 != 0 ||
    decide (32 < r.n) || (r.idx.take r.n).any (fun i => !r.a.contains (i / 1024) || !r.b.contains (i % 1024)) ||
    needDw && !r.dw

/-! ## Issue (R334, R335) -/

/-- The scratchpad ranges that the last request will write (R137). -/
def State.withOuts (s : State) (outs : List (Nat × Nat)) : State :=
  { s with reqs := s.reqs.map fun r => if r.id + 1 = s.nextId then { r with outs := outs } else r }

/-- The bound row width. -/
def State.pkWidth (s : State) : Nat := (s.pk.map (·.d)).getD 0

/-- Alignment of operand offsets, then their bytes in the window: checks 1 and 2. SPADRANGE names the lowest failing
offset (R132). -/
def State.withOffsets (s : State) (os : List (Nat × Nat)) (k : Out) : Out :=
  match os.find? fun o => o.1 % 64 != 0 with
  | some o => s.raise .align (BitVec.ofNat 64 o.1)
  | none =>
    match lowest (fun _ => true) ((os.filter fun o => s.me.outside o.2 o.1).map fun o => s.me.firstOutside o.1) with
    | some o => s.raise .spadrange (offAddr o)
    | none => k

/-- The bytes at a context-relative offset. -/
def spadBytes (x : Context) (f : Nat → Byte) (o n : Nat) : List Byte :=
  (List.range n).map fun i => f (x.windowBase + o + i)

/-- A product-key operation: its checks, then its request. `reads` are read at issue; `outs` are written. -/
def State.pkIssue (s : State) (op : UnitOp) (d : Fin 16) (a : RK 16) (b : Fin 16) (reads outs : List (Nat × Nat))
    (bad : List Byte → Bool) (write : List Byte → List (Nat × Nat)) : Out :=
  s.withG (d :: b :: RK.gReg a) <|
    let x := s.me
    s.withOffsets (reads ++ outs) <|
      if s.pk.isNone then s.raise .pkrange 0#64
      else
        let as := reads.map fun o => (x.windowBase + o.1, o.2)
        match as.find? fun o => s.isBad (.spad s.focus.c.core) o.1 o.2 with
        | some o => s.raise .memecc (BitVec.ofNat 64 (o.1 - x.windowBase))
        | none =>
          let (f, s) := s.spadRead false (as.flatMap fun o => (List.range o.2).map (o.1 + ·))
          let bs := reads.flatMap fun o => spadBytes x f o.1 o.2
          if bad bs then s.raiseD .illegal 0x20#8 (pcAddr x.pc)
          else .next ((s.unit op (x.gSrc a) x.g[b] bs d true .gResultLand).withOuts
            ((write bs).map fun o => (x.windowBase + o.1, o.2)))

/-- Bits of a number outside fields, given as first bit and width. -/
def strayBits (n : Nat) (fields : List (Nat × Nat)) : Bool :=
  n != fields.foldl (fun t f => t + bits n f.1 f.2 * 2 ^ f.1) 0

def execPkq (bf16 : Bool) (d : Fin 16) (a : RK 16) (b : Fin 16) (s : State) : Out :=
  let x := (s.me.gSrc a).toNat
  let y := s.me.g[b].toNat
  let outs := [(bits x 32 22, 1024), (bits y 0 22, s.pkWidth * (if bf16 then 2 else 4))]
  s.pkIssue (.pkq bf16) d a b [(bits x 0 22, 512)] outs
    (fun _ => strayBits x [(0, 22), (32, 22)] || strayBits y [(0, 22), (32, 28), (63, 1)]) (fun _ => outs)

def execPks (d : Fin 16) (a : RK 16) (b : Fin 16) (s : State) : Out :=
  let x := (s.me.gSrc a).toNat
  let y := s.me.g[b].toNat
  s.pkIssue .pks d a b [(bits x 0 22, 1024), (bits y 0 22, 4 * s.pkWidth)] []
    (fun bs => strayBits x [(0, 22)] || strayBits y [(0, 22)] || selBad (bs.take 1024) false)
    (fun bs => [(bits x 0 22, 4), (bits x 0 22 + 272, 4 * (selRec bs).n)])

def execPkk (d : Fin 16) (a : RK 16) (b : Fin 16) (s : State) : Out :=
  let x := (s.me.gSrc a).toNat
  let y := s.me.g[b].toNat
  let out := (bits y 32 22, 1280)
  s.pkIssue .pkk d a b [(bits x 0 22, 1024), (bits y 0 22, 512)] [out]
    (fun bs => strayBits x [(0, 22)] || strayBits y [(0, 22), (32, 22)] || selBad (bs.take 1024) true) (fun _ => [out])

/-! ## PKQ (R337) -/

/-- The key address of half h, and its bytes. -/
def PkBind.keyAt (p : PkBind) (h a : Nat) : Nat := p.key + 262144 * h + 256 * a

/-- A BF16 element of a byte list. -/
def bfAt (bs : List Byte) (i : Nat) : FVal := fval .bf16 (leAt bs (2 * i) 2)

/-- A score, in which NaN counts as -∞. -/
def orNegInf (w : Word) : Word := if isNan32 w then inf32 true else w

/-- The scores of a half's 1,024 keys. -/
def halfScores (keys q : List Byte) (h : Nat) : List (Word × Nat) :=
  (List.range 1024).map fun a =>
    let row := keys.drop (262144 * h + 256 * a)
    (orNegInf (round32 (dotF (fun k => (bfAt q (128 * h + k), bfAt row k)) 128).val), a)

/-- The best 32, by score and then by key. -/
def bestKeys (xs : List (Word × Nat)) : List (Word × Nat) :=
  (sortBy (fun x y => decide (numKey y.1 < numKey x.1) || numKey x.1 == numKey y.1 && decide (x.2 < y.2)) xs).take 32

/-- The candidates below N, in order, at most 32. -/
def products (n : Nat) (as bs : List (Word × Nat)) : List (Word × Nat) :=
  let all := as.flatMap fun x => bs.filterMap fun y =>
    let idx := 1024 * x.2 + y.2
    if idx < n then some (orNegInf (add32 x.1 y.1), idx) else none
  (sortBy (fun x y => decide (ordKey y.1 < ordKey x.1) || ordKey x.1 == ordKey y.1 && decide (x.2 < y.2)) all).take 32

/-- The address and bytes of a value row. -/
def PkBind.elemBytes (p : PkBind) : Nat := if p.f32 then 4 else 2
def PkBind.rowAt (p : PkBind) (idx : Nat) : Nat := p.val + idx * p.d * p.elemBytes

/-- Element e of a value row's bytes, widened. -/
def PkBind.value (p : PkBind) (row : List Byte) (e : Nat) : Word :=
  if p.f32 then BitVec.ofNat 32 (leAt row (4 * e) 4) else round32 (bfAt row e)

/-- Value rows by their indices. -/
def State.valueRows (s : State) (p : PkBind) : List Nat → Except UnitErr (List (List Byte))
  | [] => .ok []
  | i :: is =>
    match s.unitBytes (p.rowAt i) (p.d * p.elemBytes) with
    | .error e => .error e
    | .ok r =>
      match s.valueRows p is with
      | .error e => .error e
      | .ok rs => .ok (r :: rs)

/-- A selection record's bytes. -/
def selBytes (as bs sel : List (Word × Nat)) (ws : List Word) : List Byte :=
  let pad (n : Nat) (xs : List Nat) : List Nat := xs ++ List.replicate (n - xs.length) 0
  leBytes 4 (2 ^ 24 + sel.length) ++ List.replicate 12 0#8 ++
    (pad 32 (sel.map (·.2))).flatMap (leBytes 4) ++ (pad 32 (ws.map (·.toNat))).flatMap (leBytes 4) ++
    List.replicate 128 0#8 ++ as.flatMap (fun x => leBytes 2 x.2) ++ bs.flatMap (fun x => leBytes 2 x.2) ++
    as.flatMap (fun x => leBytes 4 x.1.toNat) ++ bs.flatMap (fun x => leBytes 4 x.1.toNat) ++ List.replicate 240 0#8

/-- BF16 by round to nearest even. -/
def toBf16 (w : Word) : Nat := (cvt (f32 w) .bf16 (.det .rne) false 0).1

/-- PKQ's result: the record's bytes, the output's bytes, and n. -/
def State.pkqRun (s : State) (p : PkBind) (q : List Byte) (bf16 : Bool) :
    Except UnitErr (List Byte × List Byte × Nat) :=
  match s.unitBytes p.key 524288 with
  | .error e => .error e
  | .ok keys =>
    let as := bestKeys (halfScores keys q 0)
    let bs := bestKeys (halfScores keys q 1)
    let sel := products p.n as bs
    let ws := gateWeights (sel.map (·.1))
    match s.valueRows p (sel.map (·.2)) with
    | .error e => .error e
    | .ok rows =>
      let o (e : Nat) : Word :=
        (ws.zip rows).foldl (fun t x => add32 t (mul32 x.1 (p.value x.2 e))) 0#32
      .ok (selBytes as bs sel ws,
        (List.range p.d).flatMap (fun e => if bf16 then leBytes 2 (toBf16 (o e)) else leBytes 4 (o e).toNat), sel.length)

/-- Bytes written to a core's scratchpad through its bank queues. -/
def State.unitSpad (s : State) (r : Req) (a : Nat) (bs : List Byte) : State :=
  s.portWrites r.c.core (.req r.id) (bs.mapIdx fun i b => (a + i, b))

/-- A request whose writes are under way: its result stands, and forms once they have performed. -/
def State.serveWith (s : State) (r : Req) (res : DWord) : State :=
  (s.putReq { r with state := .served, res := res, outs := [] }).due (.gResultLand r.id)

/-- The error result (R334). -/
def unitError : DWord := 0xFFFFFFFFFFFFFF01#64

/-- Where the n-th range written begins. -/
def Req.out (r : Req) (n : Nat) : Nat := ((r.outs[n]?).map (·.1)).getD 0

/-- PKQ is served. -/
def State.servePkq (s : State) (r : Req) (bf16 : Bool) (bs : List Byte) : State :=
  match s.pk with
  | none => s.serveWith r unitError
  | some p =>
    let t := s.usedSpans [(.read, p.key, 524288)]
    match s.pkqRun p bs bf16 with
    | .error e => t.unitFails r e fun s => s.serveWith r unitError
    | .ok (sel, out, n) =>
      let s := t.usedSpans (((selRec sel).idx.take n).map fun i => (.read, p.rowAt i, p.d * p.elemBytes))
      ((s.unitSpad r (r.out 0) sel).unitSpad r (r.out 1) out).serveWith r (BitVec.ofNat 64 n)

/-! ## PKS (R338) -/

/-- A value row after c has been added: each element by its format. -/
def PkBind.addRow (p : PkBind) (row : List Byte) (c : Nat → Word) : List Byte :=
  (List.range p.d).flatMap fun e =>
    let y := add32 (p.value row e) (c e)
    if p.f32 then leBytes 4 y.toNat else leBytes 2 (toBf16 y)

/-- The additions of a gradient to the selected rows, in order. -/
def PkBind.pksRows (p : PkBind) (g : Nat → Word) (sel : List (Nat × Word)) : List (Nat × Nat × (List Byte → List Byte)) :=
  sel.map fun x => (p.rowAt x.1, p.d * p.elemBytes, fun row => p.addRow row fun e => mul32 (g e) x.2)

/-- PKS is served. Every page is at hand before its first addition; an uncorrectable row leaves the additions before
it (R334). -/
def State.servePks (s : State) (r : Req) (bs : List Byte) : State :=
  match s.pk with
  | none => s.serveWith r unitError
  | some p =>
    let sr := selRec bs
    let sel := sr.idx.take sr.n
    let grad := bs.drop 1024
    let g (e : Nat) : Word := BitVec.ofNat 32 (leAt grad (4 * e) 4)
    match s.awaitsHost r (sel.flatMap fun i =>
        [(.read, p.rowAt i, p.d * p.elemBytes), (.write, p.rowAt i, p.d * p.elemBytes)]) with
    | some (va, access) => s.unitPageFault r va access
    | none =>
      match s.valueRows p sel, s.changeRows (p.pksRows g (sel.zip sr.w)) with
      | .ok rows, (none, s) =>
        let dws := rows.map fun row =>
          round32 (dotF (fun e => (f32 (g e), f32 (p.value row e))) p.d).val
        let head := leAt bs 0 4 ||| 0x40
        ((s.unitSpad r (r.out 0) (leBytes 4 head)).unitSpad r (r.out 1) (dws.flatMap fun w => leBytes 4 w.toNat)).serveWith
          r 0#64
      | _, (some e, s) => s.unitFails r e fun s => s.serveWith r unitError
      | .error e, (none, s) => s.unitFails r e fun s => s.serveWith r unitError

/-! ## PKK (R339) -/

/-- The score gradients ds_j. -/
def scoreGrads (r : SelRec) : List Word :=
  let pairs := (r.w.zip r.dws).take r.n
  let t := pairs.foldl (fun t x => add32 t (mul32 x.1 x.2)) 0#32
  pairs.map fun x => mul32 x.1 (sub32 x.2 t)

/-- The gradient of a key of a half: its products' ds_j, in order. -/
def keyGrad (r : SelRec) (half1 : Bool) (key : Nat) : Word :=
  ((r.idx.take r.n).zip (scoreGrads r)).foldl
    (fun t x => if (if half1 then x.1 % 1024 else x.1 / 1024) = key then add32 t x.2 else t) 0#32

/-- Where a key's gradient row stands. -/
def PkBind.gradAt (p : PkBind) (h a : Nat) : Nat := p.grad + 524288 * h + 512 * a

/-- A query element widened. -/
def queryAt (q : List Byte) (i : Nat) : Word := round32 (bfAt q i)

/-- The additions to the key-gradient rows of a half, in order. -/
def PkBind.pkkRows (p : PkBind) (q : List Byte) (h : Nat) (keys : List (Nat × Word)) :
    List (Nat × Nat × (List Byte → List Byte)) :=
  keys.map fun x => (p.gradAt h x.1, 512, fun row =>
    (List.range 128).flatMap fun k =>
      leBytes 4 (add32 (BitVec.ofNat 32 (leAt row (4 * k) 4)) (mul32 x.2 (queryAt q (128 * h + k)))).toNat)

/-- Key rows of a half. -/
def State.keyRows (s : State) (p : PkBind) (h : Nat) : List Nat → Except UnitErr (List (List Byte))
  | [] => .ok []
  | a :: as =>
    match s.unitBytes (p.keyAt h a) 256 with
    | .error e => .error e
    | .ok row =>
      match s.keyRows p h as with
      | .error e => .error e
      | .ok rows => .ok (row :: rows)

/-- The spans that a PKK reaches for the keys of a half. -/
def PkBind.pkkSpans (p : PkBind) (h : Nat) (keys : List Nat) : List (Access × Nat × Nat) :=
  keys.flatMap fun a => [(.read, p.gradAt h a, 512), (.write, p.gradAt h a, 512), (.read, p.keyAt h a, 256)]

/-- The query gradient of a half. -/
def queryGrad (ds : List Word) (rows : List (List Byte)) : List Word :=
  (List.range 128).map fun k =>
    (ds.zip rows).foldl (fun t x => add32 t (mul32 x.1 (round32 (bfAt x.2 k)))) 0#32

/-- PKK is served: the additions first, then the keys are read; an error leaves what was added before it (R334). -/
def State.servePkk (s : State) (r : Req) (bs : List Byte) : State :=
  match s.pk with
  | none => s.serveWith r unitError
  | some p =>
    let sr := selRec bs
    let q := bs.drop 1024
    let d1 := sr.a.map (keyGrad sr false)
    let d2 := sr.b.map (keyGrad sr true)
    match s.awaitsHost r (p.pkkSpans 0 sr.a ++ p.pkkSpans 1 sr.b) with
    | some (va, access) => s.unitPageFault r va access
    | none =>
      match s.changeRows (p.pkkRows q 0 (sr.a.zip d1) ++ p.pkkRows q 1 (sr.b.zip d2)) with
      | (some e, s) => s.unitFails r e fun s => s.serveWith r unitError
      | (none, s) =>
        match s.keyRows p 0 sr.a, s.keyRows p 1 sr.b with
        | .error e, _ | _, .error e => s.unitFails r e fun s => s.serveWith r unitError
        | .ok k1, .ok k2 =>
          let s := s.usedSpans (sr.a.map (fun a => (.read, p.keyAt 0 a, 256)) ++ sr.b.map fun a => (.read, p.keyAt 1 a, 256))
          let out := (d1 ++ d2 ++ queryGrad d1 k1 ++ queryGrad d2 k2).flatMap fun w => leBytes 4 w.toNat
          (s.unitSpad r (r.out 0) out).serveWith r 0#64

/-! ## Order and completion (R334) -/

/-- A request of the product-key unit. -/
def UnitOp.toPk : UnitOp → Bool
  | .pkq _ | .pks | .pkk => true
  | _ => false

/-- A request of the unit. -/
def Req.toPk (q : Req) : Bool :=
  match q.kind with
  | .unit op .. => op.toPk
  | _ => false

/-- Another request is in the unit: its writes are under way, or it has waited for a page. -/
def State.pkBusy (s : State) (r : Req) : Bool :=
  s.reqs.any fun q => q.id != r.id && q.toPk && (q.state == .served || q.started && q.state == .waiting)

/-- A request in its turn: released, its context's earlier ones served, no page awaiting the host, and the unit, which
serves one at a time, free. -/
def State.pkReady (s : State) (r : Req) : Bool :=
  s.released r .dev && s.unfenced r && !s.unitWaits r.id && !s.pkBusy r &&
    (earlier r.id s.reqs).all fun q => !(q.c == r.c && q.state == .waiting && q.toPk)

/-- A served request whose writes have performed: PKQ's decrement goes, and the result lands. -/
def State.pkFinish (s : State) (r : Req) (op : UnitOp) (b : DWord) : State :=
  if s.outstanding (.req r.id) then s
  else
    let s := match op with
      | .pkq _ =>
        if b.msb ∧ !r.orphaned then
          s.sendDec ((r.task.map TaskRef.launch).getD 0) (bits b.toNat 32 28) 1#32 none none
        else s
      | _ => s
    s.finish r

end Sys2Proof.Machine
end

