-- ==== Sys2Proof/Machine/Seats.lean ====
section
/-!
DEFINITION. The seat store: TKCMT, SEATR and SEATW, R357 to R359 and R364 to R372 of spec/29_generation.md.
-/
namespace Sys2Proof.Machine

/-! ## Seats (R357 to R359) -/

/-- A word of a seat. -/
def State.seatWord (s : State) (mc seat w : Nat) : DWord := (lookupNat s.seats ((mc * 64 + seat) * 8 + w)).getD 0#64

/-- A word of a seat written; a word of zero is not listed. -/
def State.setSeat (s : State) (mc seat w : Nat) (v : DWord) : State :=
  let key := (mc * 64 + seat) * 8 + w
  { s with seats := if v = 0#64 then eraseNat key s.seats else insertNat key v s.seats }

/-- A seat's fields (Table 1). -/
structure Seat where
  act     : Bool
  done    : Bool
  dcause  : Nat
  stale   : Bool
  new     : Nat
  ctx     : Nat
  pos     : Nat
  last    : Nat
  stopv   : Bool
  stop    : Nat
  logsz   : Nat
  logbase : Nat
  gen     : Nat
deriving DecidableEq, Repr

/-- The fields of a seat's words. -/
def State.seat (s : State) (mc n : Nat) : Seat :=
  let w (i : Nat) : Nat := (s.seatWord mc n i).toNat
  { act := (w 0).testBit 63, done := (w 0).testBit 62, dcause := bits (w 0) 60 2, stale := (w 0).testBit 59
    new := bits (w 0) 32 24, ctx := bits (w 0) 0 24, pos := bits (w 1) 32 32, last := bits (w 1) 0 32
    stopv := (w 2).testBit 32, stop := bits (w 2) 0 32, logsz := bits (w 3) 48 5, logbase := bits (w 3) 0 48
    gen := bits (w 4) 0 32 }

/-- A bit in its place. -/
def bitAt (b : Bool) (i : Nat) : Nat := if b then 2 ^ i else 0

/-- A seat's words written from its fields. -/
def State.putSeat (s : State) (mc n : Nat) (x : Seat) : State :=
  let s := s.setSeat mc n 0 (BitVec.ofNat 64 (bitAt x.act 63 + bitAt x.done 62 + x.dcause % 4 * 2 ^ 60 +
    bitAt x.stale 59 + x.new % 2 ^ 24 * 2 ^ 32 + x.ctx % 2 ^ 24))
  let s := s.setSeat mc n 1 (BitVec.ofNat 64 (x.pos % 2 ^ 32 * 2 ^ 32 + x.last % 2 ^ 32))
  let s := s.setSeat mc n 2 (BitVec.ofNat 64 (bitAt x.stopv 32 + x.stop % 2 ^ 32))
  let s := s.setSeat mc n 3 (BitVec.ofNat 64 (x.logsz % 32 * 2 ^ 48 + x.logbase % 2 ^ 48))
  s.setSeat mc n 4 (BitVec.ofNat 64 (x.gen % 2 ^ 32))

/-- A live seat (R358). -/
def Seat.live (x : Seat) : Bool := x.act && !x.done

/-! ## Issue (R364 to R366) -/

/-- The bits of a word that are not reserved (Table 1), and of the control word. -/
def seatFields (w : Nat) : List (Nat × Nat) :=
  match w with
  | 0 => [(59, 5), (32, 24), (0, 24)]
  | 1 => [(0, 64)]
  | 2 => [(0, 33)]
  | 3 => [(0, 53)]
  | _ => [(0, 32)]

/-- A SEATR or SEATW operand with a nonzero reserved bit. -/
def seatOperandBad (a : Nat) (w : Nat) : Bool :=
  a / 2 ^ 11 != 0 || a.testBit 7 || a.testBit 6 && (bits a 0 6 != 0 || w != 0)

/-- A SEATW value with a nonzero reserved bit. -/
def seatValueBad (a b w : Nat) : Bool := strayBits b (if a.testBit 6 then [(0, 48)] else seatFields w)

/-- The packet fails for a malformed operand (R365, R366). -/
def State.badOperand (s : State) : Out := s.raiseD .illegal 0x20#8 (pcAddr s.me.pc)

def execSeatr (d : Fin 16) (a : RK 16) (w : Fin 5) (s : State) : Out :=
  s.withG (d :: RK.gReg a) <|
    let x := s.me.gSrc a
    if seatOperandBad x.toNat w.val then s.badOperand
    else .next (s.unit (.seatr w) x 0#64 [] d false .gResultLand)
def execSeatw (d : Fin 16) (a : RK 16) (b : Fin 16) (w : Fin 5) (s : State) : Out :=
  s.withG (d :: b :: RK.gReg a) <|
    let x := s.me.gSrc a
    if seatOperandBad x.toNat w.val || seatValueBad x.toNat s.me.g[b].toNat w.val then s.badOperand
    else .next (s.unit (.seatw w) x s.me.g[b] [] d false .gResultLand)

/-- The entries of a commit table that a mask includes are sound. -/
def tableBad (mask : Nat) (bs : List Byte) : Bool :=
  (List.range 64).any fun i => mask.testBit i && decide (7 < leAt bs (32 * i) 4)

/-- TKCMT: in a coupled set the leader alone performs it, and the other cores wait for its result (R364). -/
def execTkcmt (lev : Fin 8) (pw zw snap : Bool) (d : Fin 16) (a : RK 16) (b : Fin 16) (s : State) : Out :=
  s.withG (d :: b :: RK.gReg a) <|
    if s.leaderOf s.focus.c ≠ s.focus.c ∧ !s.me.decoup then
      .next ((s.setMe { s.me with gPending := s.me.gPending.set d true }).waitG d)
    else
      let x := (s.me.gSrc a).toNat
      let y := s.me.g[b]
      s.withRecord 64 2048 (bits x 0 22) fun bs s =>
        if strayBits x [(0, 22), (32, 3)] || tableBad y.toNat bs then s.badOperand
        else if pw ∧ s.me.loops.length ≤ lev.val then s.raise .loopdepth (BitVec.ofNat 64 lev.val)
        else .next ((s.unit (.tkcmt lev pw zw snap (!s.me.decoup)) (BitVec.ofNat 64 x) y bs d false .gResultLand).waitG d)

/-! ## Commit (R367) -/

/-- One seat's commit: the seat after it, the tokens committed, and the log words it writes. -/
def Seat.commit (x : Seat) (entry : List Byte) : Seat × List (Nat × Word) × Nat :=
  if !x.live then (x, [], 0)
  else
    let m := bits (leAt entry 0 4) 0 4
    let toks := (numsAt entry 4 4 7).map (BitVec.ofNat 32)
    let k := min m (min x.new x.ctx)
    let j0 := if x.stopv then firstBelow (fun j => (toks.getD j 0#32).toNat == x.stop) k else none
    let k := match j0 with | some j => j + 1 | none => k
    let words := if x.logsz = 0 then []
      else (toks.take k).mapIdx fun j t => ((x.logbase + 4 * ((x.pos + j) % 2 ^ x.logsz)) % 2 ^ 48, t)
    let y := { x with pos := (x.pos + k) % 2 ^ 32, new := x.new - k, ctx := x.ctx - k
                      last := if k = 0 then x.last else (toks.getD (k - 1) 0#32).toNat }
    let y :=
      if y.new = 0 then { y with done := true, dcause := 1 }
      else if y.ctx = 0 then { y with done := true, dcause := 2 }
      else if j0.isSome then { y with done := true, dcause := 3 } else y
    (y, words, k)

/-- The seats of a mask. -/
def maskSeats (mask : Nat) : List Nat := (List.range 64).filter mask.testBit

/-! ## Snapshots (R368) -/

/-- A batch entry that is malformed. -/
def batchBad (bs : List Byte) : Bool :=
  let w (i : Nat) : Nat := leAt bs (4 * i) 4
  w 1 / 2 ^ 24 != 1 || bits (w 1) 1 23 != 0 || w 2 / 2 ^ 24 != 0 || w 3 / 2 ^ 24 != 0 || w 6 / 2 != 0 ||
    w 8 / 2 ^ 16 != 0 || w 9 / 2 ^ 5 != 0 || decide (24 < w 9) || w 7 % 4 != 0 || leAt bs 40 24 != 0

/-- A seat takes its batch entry: `got` holds w0 to w15, or fewer where w0 is odd, and then w0 as read again. -/
def Seat.take (x : Seat) (got : List Word) : Seat :=
  let w (i : Nat) : Nat := (got.getD i 0#32).toNat
  if w 0 % 2 = 1 ∨ w 16 ≠ w 0 ∨ batchBad ((got.take 16).flatMap fun v => leBytes 4 v.toNat) then { x with stale := true }
  else if w 0 ≠ x.gen then
    { x with act := (w 1).testBit 0, done := false, dcause := 0, new := bits (w 2) 0 24, ctx := bits (w 3) 0 24
             pos := w 4, stop := w 5, stopv := (w 6).testBit 0, logbase := w 7 + 2 ^ 32 * w 8
             logsz := bits (w 9) 0 5, gen := w 0, stale := false }
  else { x with stale := false }

/-! ## The moves of a commit -/

/-- What a move of a commit comes to. -/
inductive SeatMove where
  | go (t : SeatTurn)
  /-- A page that awaits the host (R405). -/
  | host (va : Nat) (access : Access)
  /-- An uncorrectable error, with the address read (R146). -/
  | ecc (a : Nat)
  | done
deriving DecidableEq, Repr

/-- A log word is written at its home slice, unless it cannot be (R367). -/
def State.logWord (s : State) (r : Req) (t : SeatTurn) (va : Nat) (w : Word) : State × SeatMove :=
  let (x, s) := s.transUnit va .write
  match x with
  | .ok pa =>
    if s.guardsAgainst .engWrite va pa 4 then (s, .go { t with logf := true })
    else (s.writeHome pa (leBytes 4 w.toNat), .go t)
  | .bad _ _ => (s, .go { t with logf := true })
  | .ecc pa => (s, .ecc pa)
  | .host => if r.pageFailed.contains (va / 65536) then (s, .go { t with logf := true }) else (s, .host va .write)

/-- The next word of a seat's batch entry is read at its home slice; the last of them decides (R368). -/
def State.snapWord (s : State) (r : Req) (mc n : Nat) (t : SeatTurn) (rest : List Nat) : State × SeatMove :=
  let va := (s.seatCtl[Fin.ofNat 8 mc].toNat % 2 ^ 48 + 64 * n + 4 * (t.got.length % 16)) % 2 ^ 48
  let x := s.seat mc n
  let next : SeatTurn := { t with snaps := rest, got := [] }
  let (y, s) := s.transUnit va .read
  let stale : State × SeatMove := (s.putSeat mc n { x with stale := true }, .go next)
  match y with
  | .ok pa =>
    if s.isBad .dram pa 4 then (s, .ecc va)
    else
      let (bs, s) := s.readHome 0#8 pa 4
      let got := t.got ++ [BitVec.ofNat 32 (leNat bs)]
      if got.length = 17 ∨ got.length = 1 ∧ (leNat bs) % 2 = 1 then (s.putSeat mc n (x.take got), .go next)
      else (s, .go { t with got := got })
  | .bad _ _ => stale
  | .ecc pa => (s, .ecc pa)
  | .host => if r.pageFailed.contains (va / 65536) then stale else (s, .host va .read)

/-- One move of a commit: a log word, else a seat, else a word of a batch entry. -/
def State.seatMove (s : State) (r : Req) (mc : Nat) (bs : List Byte) (t : SeatTurn) : State × SeatMove :=
  match t.words, t.commits, t.snaps with
  | (va, w) :: ws, _, _ => s.logWord r { t with words := ws } va w
  | [], n :: ns, _ =>
    let (y, ws, k) := (s.seat mc n).commit ((bs.drop (32 * n)).take 32)
    (if (s.seat mc n).live then s.putSeat mc n y else s,
      .go { t with commits := ns, words := ws, tok := t.tok + k
                   newDone := t.newDone + if (s.seat mc n).live && y.done then 1 else 0 })
  | [], [], n :: ns => s.snapWord r mc n t ns
  | [], [], [] => (s, .done)

/-- A commit goes on while it can. Before each move an open choice may leave it until later, so that the host's writes
can fall between two reads of a batch entry (log 5). -/
def State.seatMoves (s : State) (r : Req) (mc : Nat) (bs : List Byte) :
    Nat → SeatTurn → State × SeatMove × SeatTurn
  | 0, t => (s, .go t, t)
  | fuel + 1, t =>
    let (n, s) := s.choose 2
    if n = 1 then (s, .go t, t)
    else
      match s.seatMove r mc bs t with
      | (s, .go t) => s.seatMoves r mc bs fuel t
      | (s, m) => (s, m, t)

/-- The moves taken at once. -/
def seatFuel : Nat := 4096

/-! ## Service (R364, R370, R371) -/

/-- The boundary from a packet on starts an iteration outside every nopre one: a point of R60, unless a stream that no
promote has taken still has its window at the port before it, which ends N cycles after it begins (R253, R261). A boundary between the iterations of the level itself is inside none of them
(R192). -/
def Context.boundaryPoint (x : Context) (at_ next : PcWord) (loops : List Loop) : Bool :=
  x.loops.any (fun l => l.last == at_ && l.start == next) && (loops.drop 1).all (fun l => !l.nopre) &&
    x.streams.all fun y => y.taken || decide (y.port + y.rows.length ≤ x.clock)

/-- The loop boundary that waited for a pending count is decided (R189, R370). -/
def Context.settle (x : Context) : Context :=
  if x.defer then
    let (loops, pc) := loopBoundary x.pc x.loops
    { x with loops, pc, defer := false, atPoint := x.boundaryPoint x.pc pc loops }
  else x

/-- z0 to z3 take their counts under ZW. -/
def Context.landZ (x : Context) (zw : Bool) (z : Nat → Nat) : Context :=
  if !zw then x
  else
    let n (i : Nat) : BitVec 24 := BitVec.ofNat 24 (z i)
    { x with z := (((x.z.set 0 (n 0)).set 1 (n 1)).set 2 (n 2)).set 3 (n 3) }

/-- A level takes a pending count under PW. -/
def Context.landPend (x : Context) (pw : Bool) (lev : Fin 8) (p : Nat) : Context :=
  if !pw then x
  else { x with loops := putLoop (fun l => { l with pending := some (BitVec.ofNat 24 p) }) lev x.loops }

/-- TKCMT's result lands in every core of the set that issued it; its z and pending writes go to the leader's
sequencer, whose loop stack the coupled set follows (R52, R364). -/
def State.landCommit (s : State) (r : Req) (lev : Fin 8) (pw zw all : Bool) (z : Nat → Nat) (p : Nat) : State :=
  if r.orphaned then s.finish r
  else
    let set := if all then s.fusedSet r.c else [r.c]
    let s := s.modCtx r.c fun x => x.landZ zw z
    let s := set.foldl (fun s m =>
      let told := (s.ctx m).defer && (s.ctx m).run == .held .brk && m == r.c
      let s := s.modCtx m fun x => (x.landPend pw lev p).settle
      let s := if told then s.breakEvent m else s
      if m == r.c then s
      else
        match r.d with
        | some d => (s.modCtx m fun x => x.landG r.ui d r.res r.kind.acquires).wake m (.g d)
        | none => s) s
    s.finish r

/-- A commit is over: what is live now gives the counts of R370 and R371, and the result lands. -/
def State.endCommit (s : State) (r : Req) (mc : Nat) (seats : List Nat) (lev : Fin 8) (pw zw all : Bool)
    (t : SeatTurn) : State :=
  let live := seats.filter fun n => (s.seat mc n).live
  let p := live.foldl (fun p n => max p (min (s.seat mc n).new (s.seat mc n).ctx)) 0
  let z (i : Nat) : Nat := (live.filter fun n => n / 16 == i).length
  let res := BitVec.ofNat 64
    (bitAt t.logf 63 + t.tok % 2 ^ 16 * 2 ^ 32 + t.newDone % 2 ^ 8 * 2 ^ 16 + live.length)
  let s := { s with seatTurn := none }
  let s := if t.tok = 0 then s else s.sink (r.task.map (·.launch))
  s.landCommit { r with res := res } lev pw zw all z p

/-- TKCMT is served: from its beginning, or from where it stood (R364, R367, R368). -/
def State.serveTkcmt (s : State) (r : Req) (lev : Fin 8) (pw zw snap all : Bool) (a b : DWord)
    (bs : List Byte) : State :=
  let mc := bits a.toNat 32 3
  let seats := maskSeats b.toNat
  let first : SeatTurn := ⟨r.id, seats, [], if snap then seats else [], [], 0, 0, false⟩
  let t := match s.seatTurn with
    | some t => if t.req = r.id then t else first
    | none => first
  match s.seatMoves r mc bs seatFuel t with
  | (s, .done, t) => s.endCommit r mc seats lev pw zw all t
  | (s, .go t, _) => { s with seatTurn := some t }.due (.gResultLand r.id)
  | (s, .host va access, t) => { s with seatTurn := some t }.unitPageFault r va access
  | (s, .ecc va, _) => { s with seatTurn := none }.unitFault r 0x7#4 0x0E#8 0x00#8 va

/-- SEATR and SEATW are served. -/
def State.serveSeatr (s : State) (r : Req) (w : Fin 5) (a : DWord) : State :=
  let mc := bits a.toNat 8 3
  let v := if a.getLsbD 6 then s.seatCtl[Fin.ofNat 8 mc] else s.seatWord mc (bits a.toNat 0 6) w.val
  s.finish { r with res := v }
def State.serveSeatw (s : State) (r : Req) (w : Fin 5) (a b : DWord) : State :=
  let mc := bits a.toNat 8 3
  let s := if a.getLsbD 6 then { s with seatCtl := s.seatCtl.set (Fin.ofNat 8 mc) b }
    else s.setSeat mc (bits a.toNat 0 6) w.val b
  s.finish r

/-- A request to the seat store. -/
def UnitOp.toSeats : UnitOp → Bool
  | .tkcmt .. | .seatr _ | .seatw _ => true
  | _ => false

/-- A TKCMT is under way, other than a request itself (R364). -/
def State.seatTaken (s : State) (id : Nat) : Bool :=
  s.seatTurn.any fun t => t.req != id && (s.req? t.req).isSome

/-- TKCMT, which reaches device memory. -/
def ReqKind.isCommit : ReqKind → Bool
  | .unit (.tkcmt ..) .. => true
  | _ => false

/-- A request in its context's issue order, with the seat store free for it and no page awaiting the host. -/
def State.seatReady (s : State) (r : Req) : Bool :=
  !s.unitWaits r.id && !s.seatTaken r.id && (!r.kind.isCommit || s.unfenced r) &&
    (earlier r.id s.reqs).all fun q =>
      !(q.c == r.c && q.state == .waiting && match q.kind with
        | .unit op .. => op.toSeats
        | _ => false)

end Sys2Proof.Machine
end

