-- ==== Sys2Proof/Machine/Residency.lean ====
section
/-!
DEFINITION. The residency unit: R299 to R331 of spec/23_expert_residency.md.
-/
namespace Sys2Proof.Machine

/-! ## What the unit reads -/

/-- Why an operation of the unit gives no result of its own: an error of Table 13, a page that awaits the
host, or an uncorrectable error at an address. -/
inductive ResErr where
  | code (n : Nat)
  | host (va : Nat) (access : Access)
  | ecc (va : Nat)
  /-- In the tag store, which has no address. -/
  | tagEcc
deriving DecidableEq, Repr

/-- Bytes that the unit reads at their home slices (R300). -/
def State.resBytes (s : State) (va n : Nat) : Except ResErr (List Byte) :=
  match s.unitBytes va n with
  | .ok bs => .ok bs
  | .error (.ecc a) => .error (.ecc a)
  | .error (.fault _ _ _) => .error (.code 9)
  | .error (.host va access) => .error (.host va access)

/-- Whether the unit can write a span (R310). -/
def State.resWritable (s : State) (va n : Nat) : Except ResErr Unit :=
  match s.unitSpan .write va n with
  | .ok ps => if s.inPipe va n || ps.any (fun p => s.inTables p.1 p.2) then .error (.code 9) else .ok ()
  | .error (.host va access) => .error (.host va access)
  | .error (.ecc a) => .error (.ecc a)
  | .error (.fault _ _ _) => .error (.code 9)

/-- Bytes that the unit writes at their home slices, where it can, in one step (R147; log 44). -/
def State.resWrite (s : State) (va : Nat) (bs : List Byte) : State :=
  match s.unitSpan .write va bs.length with
  | .ok ps => (s.usedSpans [(.write, va, bs.length)]).putPieces ps bs
  | .error _ => s

/-- The lines of a span that the unit has read are used at their slices (R145). -/
def State.resUse (s : State) (va n : Nat) : State :=
  match s.unitSpan .read va n with
  | .ok ps => ps.foldl (fun s p => (s.recall none p.1 p.2).useSpan p.1 p.2) (s.usedSpans [(.read, va, n)])
  | .error _ => s

/-! ## The expert map (R299 to R302) -/

/-- A map header's fields (Table 1). -/
structure MapHdr where
  experts : Nat
  layers  : Nat
  records : Nat
  trans   : Nat
deriving DecidableEq, Repr

/-- The header of a model context's map. -/
def State.mapHdr (s : State) (mc : Nat) : Except ResErr MapHdr :=
  match s.resid.bases[Fin.ofNat 8 mc] with
  | none => .error (.code 1)
  | some base =>
    match s.resBytes base 64 with
    | .error e => .error e
    | .ok bs =>
      let w0 := leAt bs 0 4
      let w1 := leAt bs 4 4
      let rec_ := leAt bs 8 8
      let trans := leAt bs 16 8
      let e := bits w1 16 16
      let l := bits w1 0 9
      if bits w0 24 8 ≠ 1 ∨ bits w0 19 5 ≠ 0 ∨ bits w0 16 3 ≠ mc ∨ bits w0 0 16 ≠ 0 ∨ e = 0 ∨ 512 < e ∨
          bits w1 9 7 ≠ 0 ∨ l = 0 ∨ 256 < l ∨ rec_ % 128 ≠ 0 ∨ rec_ / 2 ^ 48 ≠ 0 ∨ trans % 32 ≠ 0 ∨
          trans / 2 ^ 48 ≠ 0 ∨ leAt bs 24 40 ≠ 0 then .error (.code 6)
      else .ok ⟨e, l, rec_, trans⟩

/-- The model context, layer and number of an expert identifier (R26). -/
def expertMc (id : Nat) : Nat := bits id 17 3
def expertLayer (id : Nat) : Nat := bits id 9 8
def expertNum (id : Nat) : Nat := bits id 0 9

/-- Whether an identifier of a map's model context lies in the map. -/
def MapHdr.has (h : MapHdr) (id : Nat) : Bool :=
  decide (expertLayer id < h.layers) && decide (expertNum id < h.experts)

/-- The place of an expert in the map's arrays. -/
def MapHdr.index (h : MapHdr) (id : Nat) : Nat := expertLayer id * h.experts + expertNum id

/-- A copy of an expert record (Table 2). -/
structure CopyRec where
  fmt     : Nat
  keep    : Bool
  derived : Bool
  coded   : Nat
  flash   : Nat
  plan    : Nat
deriving DecidableEq, Repr

/-- An expert record: its substitutes, by rank, and its copies. -/
structure ExpRec where
  subs   : List Nat
  copies : List CopyRec
deriving DecidableEq, Repr

/-- The formats of copies (R301). -/
def copyFmts : List Nat := [3, 4, 5, 6, 7, 8, 10]

/-- A record's copy at an offset, if it is sound. -/
def copyRec (bs : List Byte) (o : Nat) : Option CopyRec :=
  let w := leAt bs o 4
  let c : CopyRec := ⟨bits w 24 4, w.testBit 17, w.testBit 16, leAt bs (o + 4) 4, leAt bs (o + 8) 8, leAt bs (o + 16) 8⟩
  if bits w 28 4 ≠ 0 ∨ bits w 18 6 ≠ 0 ∨ bits w 0 16 ≠ 0 ∨ !copyFmts.contains c.fmt ∨
      c.derived ∧ (c.fmt ≠ 7 ∨ c.coded ≠ 0 ∨ c.flash ≠ 0) ∨ c.flash / 2 ^ 48 ≠ 0 ∨ c.plan % 128 ≠ 0 ∨
      c.plan / 2 ^ 48 ≠ 0 then none
  else some c

/-- An expert record's bytes, if it is sound. Substitutes of another model context or layer are ignored. -/
def expRec (id : Nat) (bs : List Byte) : Option ExpRec :=
  let w := leAt bs 0 4
  let n := bits w 0 3
  let sub (i : Nat) : Nat := leAt bs (4 + 4 * i) 4
  let cs := (List.range n).filterMap fun c => copyRec bs (16 + 24 * c)
  if bits w 24 8 ≠ 1 ∨ bits w 3 21 ≠ 0 ∨ n = 0 ∨ 4 < n ∨ (List.range 3).any (fun i => bits (sub i) 20 11 ≠ 0) ∨
      cs.length ≠ n ∨ (cs.map (·.fmt)).eraseDups.length ≠ n ∨ leAt bs (16 + 24 * n) (112 - 24 * n) ≠ 0 then none
  else some ⟨(List.range 3).filterMap fun i =>
    if (sub i).testBit 31 ∧ bits (sub i) 0 20 / 512 = id / 512 then some (bits (sub i) 0 20) else none, cs⟩

/-- The copy of a record at a format. -/
def ExpRec.copy? (r : ExpRec) (fmt : Nat) : Option CopyRec := r.copies.find? fun c => c.fmt == fmt

/-- An expert's set of the tag store holds an uncorrectable error (R146). -/
def State.tagBad (s : State) (id : Nat) : Bool := s.isBad .tag ((bits id 0 13 ^^^ (bits id 13 7 * 64)) * 8) 8

/-- The bytes of an expert's current record: the replacement's (R326), or the map's. -/
def State.recBytes (s : State) (h : MapHdr) (id : Nat) : Except ResErr (List Byte) :=
  match lookupNat s.resid.records id with
  | some bs => .ok bs
  | none => s.resBytes (h.records + 128 * h.index id) 128

/-- An expert's current record, with its bytes, and its set of the tag store, which is read with it. -/
def State.expRecOf (s : State) (h : MapHdr) (id : Nat) : Except ResErr (ExpRec × List Byte) :=
  if s.tagBad id then .error .tagEcc else
  match s.recBytes h id with
  | .error e => .error e
  | .ok bs =>
    match expRec id bs with
    | none => .error (.code 6)
    | some r => .ok (r, bs)

/-- A copy's frame plan: frames on each core. -/
def State.framePlan (s : State) (c : CopyRec) : Except ResErr (List Nat) :=
  match s.resBytes c.plan 128 with
  | .error e => .error e
  | .ok bs =>
    let ns := numsAt bs 0 2 64
    if ns.any (1023 < ·) then .error (.code 6) else .ok ns

/-! ## The tag store (R303 to R305) -/

/-- An expert's set. -/
def tagSet (id : Nat) : Nat := bits id 0 13 ^^^ (bits id 13 7 * 64)

/-- The entries of an expert. -/
def Residency.copies (u : Residency) (id : Nat) : List (Nat × Tag) := u.tags.filter fun t => t.2.id.toNat == id

/-- An expert's current version: true for B. -/
def Residency.version (u : Residency) (id : Nat) : Bool := u.versions.contains id

/-- Width of a copy's format (R307). -/
def copyWidth (fmt : Nat) : Nat :=
  match fmt with
  | 7 | 10 => 4
  | 5 | 6 => 6
  | _ => 8

/-- Usable copies of an expert (R307). -/
def Residency.usable (u : Residency) (id : Nat) : List (Nat × Tag) :=
  (u.copies id).filter fun t => t.2.tier == 0 && t.2.state == .resident && t.2.ver == u.version id

/-- The widest copy, lowest format code among equals. -/
def widest (ts : List (Nat × Tag)) : Option Nat :=
  ((sortBy (fun (x y : Nat × Tag) => decide (copyWidth y.2.fmt < copyWidth x.2.fmt) ||
    copyWidth x.2.fmt == copyWidth y.2.fmt && decide (x.2.fmt < y.2.fmt)) ts).head?).map (·.1)

/-- The fill under way for a copy, at the expert's current version and record. -/
def Residency.fetching (u : Residency) (id fmt : Nat) (canopy : Bool) : Option Fill :=
  u.fills.find? fun f =>
    f.expert.toNat == id && f.fmt == fmt && f.canopy == canopy && f.ver == u.version id && !f.old

/-- An entry changed. -/
def Residency.modTag (u : Residency) (k : Nat) (f : Tag → Tag) : Residency :=
  match lookupNat u.tags k with
  | some t => { u with tags := insertNat k (f t) u.tags }
  | none => u

/-- A way returns to ABSENT. -/
def Residency.dropTag (u : Residency) (k : Nat) : Residency := { u with tags := eraseNat k u.tags }

/-- A counter grows (R325). -/
def Residency.count (u : Residency) (mc n by_ : Nat) : Residency :=
  let key := mc * 16 + n
  let v := (lookupNat u.counters key).getD 0#64 + BitVec.ofNat 64 by_
  { u with counters := if v = 0#64 then eraseNat key u.counters else insertNat key v u.counters }

/-- Tokens that wait on a fill. -/
def Residency.waiting (u : Residency) (fill : Nat) : Nat :=
  ((u.waits.filter fun w => w.fill == fill).map fun w => w.toks.length).foldl (· + ·) 0

/-- Whether tokens wait on the copy of an entry. -/
def Residency.tagWaits (u : Residency) (k : Nat) : Bool :=
  u.fills.any fun f => f.tag == some k && u.waits.any fun w => w.fill == f.id

/-! ## Policy and resolution (R306, R307) -/

/-- A policy word's fields. -/
structure Policy where
  pref  : Nat
  pmode : Bool
  miss  : Nat
  qfa   : Bool
  missFetch : Bool
  scout : Bool
  depth : Bool
  scth  : Nat
  smax  : Nat
deriving DecidableEq, Repr

def policyOf (w : Nat) : Policy :=
  ⟨bits w 28 4, w.testBit 27, bits w 22 2, w.testBit 21, w.testBit 20, w.testBit 19, w.testBit 18, bits w 8 8,
    bits w 0 8⟩

/-- How an expert resolves. -/
inductive Resolution where
  | hit (k : Nat)
  | degrade (k : Nat)
  | divert (sub k : Nat)
  | wait
deriving DecidableEq, Repr

/-- The usable copy that hits. -/
def Residency.hit? (u : Residency) (p : Policy) (id : Nat) : Option Nat :=
  match (u.usable id).find? fun t => t.2.fmt == p.pref with
  | some t => some t.1
  | none =>
    if p.pmode then widest ((u.usable id).filter fun t => decide (copyWidth p.pref ≤ copyWidth t.2.fmt)) else none

/-- The usable copy that a degrade takes. -/
def Residency.narrower? (u : Residency) (p : Policy) (id : Nat) : Option Nat :=
  widest ((u.usable id).filter fun t => decide (copyWidth t.2.fmt < copyWidth p.pref))

/-- The lowest-ranked valid substitute that hits. -/
def Residency.substitute (u : Residency) (h : MapHdr) (p : Policy) : List Nat → Resolution
  | [] => .wait
  | x :: xs =>
    match (if h.has x then u.hit? p x else none) with
    | some k => .divert x k
    | none => u.substitute h p xs

/-- The resolution of an expert. -/
def Residency.resolve (u : Residency) (h : MapHdr) (p : Policy) (id : Nat) (subs : List Nat) : Resolution :=
  match u.hit? p id with
  | some k => .hit k
  | none =>
    match p.miss with
    | 0 => .wait
    | 1 => u.substitute h p subs
    | 2 => match u.narrower? p id with | some k => .degrade k | none => .wait
    | _ => match u.narrower? p id with | some k => .degrade k | none => u.substitute h p subs

/-! ## References (R312, R316, R317, R321) -/

/-- Whether a task has retired, or is none of its launch. -/
def State.taskGone (s : State) (launch : Fin 256) (task : Nat) : Bool :=
  match s.launch? launch with
  | none => true
  | some l =>
    match l.tasks.find? fun t => t.num == task with
    | none => true
    | some t => [TState.done, .cancelled, .faulted, .orphan].contains t.state

/-- Whether a task has been stopped: what its requests had begun completes, but sends no decrement (R387, R396). -/
def State.taskStopped (s : State) (launch : Fin 256) (task : Nat) : Bool :=
  ((s.launch? launch).bind fun l => l.tasks.find? fun t => t.num == task).any fun t =>
    [TState.cancelled, .faulted, .orphan].contains t.state

/-- Fills that wait for room may find it: their starts are due, in the order of R315. -/
def State.kickFills (s : State) : State :=
  let fs := s.resid.fills.filter fun f => !f.going && f.reason == 0
  ((fs.filter (!·.scout)) ++ fs.filter (·.scout)).foldl (fun s f => s.due (.fetchStart f.id)) s

/-- The next stamp of the device-wide counter, of 21 bits (R303, Table 3). -/
def Residency.stamp (u : Residency) : Nat := (u.age + 1) % 2 ^ 21

/-- A task takes a reference on a copy, unless it has retired, as every task of a launch that is over has. -/
def State.takeRef (s : State) (k : Nat) (launch : Option (Fin 256)) (task : Nat) : State :=
  match launch, lookupNat s.resid.tags k with
  | none, _ | _, none => s
  | some launch, some t =>
    if s.taskGone launch task then s
    else
      let u := s.resid.modTag k fun t => { t with ref := t.ref + 1, age := s.resid.stamp, scout := false }
      let u := { u with age := u.stamp, refs := u.refs ++ [⟨k, launch, task⟩] }
      { s with resid := if t.scout then u.count (expertMc t.id.toNat) 9 1 else u }

/-- A retired copy that nothing holds leaves its way. -/
def Residency.settle (u : Residency) (k : Nat) : Residency :=
  match lookupNat u.tags k with
  | some t => if t.state = .evicting ∧ t.ref = 0 ∧ !u.tagWaits k then u.dropTag k else u
  | none => u

/-- A task retires: its references go. -/
def State.releaseRefs (s : State) (launch : Fin 256) (task : Nat) : State :=
  let (mine, kept) := s.resid.refs.partition fun r => r.launch == launch && r.task == task
  if mine.isEmpty then s
  else
    let u := { s.resid with refs := kept }
    let u := mine.foldl (fun (u : Residency) r => (u.modTag r.tag fun t => { t with ref := t.ref - 1 }).settle r.tag) u
    { s with resid := u }.kickFills

/-! ## Room (R305, R315, R316) -/

/-- The least place of `n` bytes or frames below `hi` that meets none used: the start, or an end of one used,
rounded up. Where a copy lies is the model's choice (log 24). -/
def firstFit (used : List (Nat × Nat)) (lo hi align n : Nat) : Option Nat :=
  let up (x : Nat) : Nat := (x + align - 1) / align * align
  let fits := ((lo :: used.map fun x => up (x.1 + x.2)).filter fun a =>
    decide (lo ≤ a) && decide (a + n ≤ hi) && !used.any fun x => overlap a n x.1 x.2)
  fits.foldl (fun m a => match m with | none => some a | some b => some (min a b)) none

/-- Frames that canopy copies hold on a core. -/
def Residency.usedFrames (u : Residency) (core : Nat) : List (Nat × Nat) :=
  u.tags.filterMap fun t =>
    if t.2.tier = 0 then (t.2.frames[core]?).filter fun f => f.2 != 0 else none

/-- The bytes of a decoded image (R327). -/
def imageBytes (plan : List Nat) (side : Nat) : Nat := 16384 * plan.foldl (· + ·) 0 + side

/-- Where a canopy copy's side section begins after its frame list. -/
def sideOffset : Nat := 1024

/-- Workspace bytes of canopy copies, and region bytes of LPDDR6 copies. -/
def Residency.usedBytes (u : Residency) (canopy : Bool) : List (Nat × Nat) :=
  u.tags.filterMap fun t =>
    if t.2.frames.isEmpty then none
    else if t.2.tier = 0 then (if canopy then some (t.2.loc, sideOffset + t.2.side) else none)
    else if canopy then none else some (t.2.loc, imageBytes (t.2.frames.map (·.2)) t.2.side)

/-- The spill area: 65,536 places of 16 bytes for waiting tokens (R313). DESIGN CHOICE: they are the last of the
workspace's bytes, and a smaller workspace has as many as it holds (log 24). -/
def Residency.spillPlaces (u : Residency) : Nat := min 65536 (u.wsSize / 16)
def Residency.spillBase (u : Residency) : Nat := u.wsBase + u.wsSize - 16 * u.spillPlaces

/-- Room for a copy as things stand: LOC and the frames of each core. -/
def Residency.room (u : Residency) (c : Nat) (canopy : Bool) (plan : List Nat) (side : Nat) :
    Option (Nat × List (Nat × Nat)) :=
  if canopy then
    match firstFit (u.usedBytes true) u.wsBase u.spillBase 1024 (sideOffset + side) with
    | none => none
    | some loc =>
      let fs := plan.zipIdx.map fun x =>
        if x.1 = 0 then some (0, 0) else (firstFit (u.usedFrames x.2) 0 (1024 - c) 1 x.1).map fun a => (a, x.1)
      if fs.any (·.isNone) then none else some (loc, fs.filterMap id)
  else
    (firstFit (u.usedBytes false) u.rgBase (u.rgBase + u.rgSize) 1024 (imageBytes plan side)).map fun loc =>
      (loc, plan.map fun n => (0, n))

/-- The candidate for replacement with the lowest age (R316). -/
def Residency.victim (u : Residency) (among : List (Nat × Tag)) : Option (Nat × Tag) :=
  (sortBy (fun (x y : Nat × Tag) => decide (x.2.age < y.2.age))
    (among.filter fun t => t.2.state == .resident && !t.2.pin && t.2.ref == 0 && !u.tagWaits t.1)).head?

/-- A copy is replaced: counted, and a scout's waste (R316, R321). -/
def Residency.replace (u : Residency) (x : Nat × Tag) : Residency :=
  let mc := expertMc x.2.id.toNat
  let u := (u.dropTag x.1).count mc 12 1
  if x.2.scout then u.count mc 10 1 else u

/-- Room for a copy, copies being replaced one after another until it is found; none if it cannot be. -/
def Residency.makeRoom (u : Residency) (c : Nat) (canopy : Bool) (plan : List Nat) (side : Nat) :
    Nat → Option (Residency × Nat × List (Nat × Nat))
  | 0 => none
  | fuel + 1 =>
    match u.room c canopy plan side with
    | some r => some (u, r.1, r.2)
    | none =>
      match u.victim (u.tags.filter fun t => t.2.tier == if canopy then 0 else 1) with
      | none => none
      | some x => (u.replace x).makeRoom c canopy plan side fuel

/-- A way of an expert's set: a free one, or a replaced one, but not `keep`'s. -/
def Residency.claimWay (u : Residency) (id : Nat) (keep : Option Nat) : Option (Nat × Residency) :=
  let base := tagSet id * 8
  match (List.range 8).find? fun w => (lookupNat u.tags (base + w)).isNone with
  | some w => some (base + w, u)
  | none =>
    match u.victim (u.tags.filter fun t => t.1 / 8 == tagSet id && some t.1 != keep) with
    | some x => some (x.1, u.replace x)
    | none => none

/-- Whether every way of a set is pinned, referenced or FETCHING (R330). -/
def Residency.setFull (u : Residency) (id : Nat) : Bool :=
  (List.range 8).all fun w =>
    match lookupNat u.tags (tagSet id * 8 + w) with
    | none => false
    | some t => t.pin || t.ref != 0 || t.state == .fetching

/-! ## Fetches (R315, R318) -/

/-- A fill replaced, or gone. -/
def Residency.putFill (u : Residency) (f : Fill) : Residency :=
  { u with fills := u.fills.map fun x => if x.id = f.id then f else x }
def Residency.dropFill (u : Residency) (id : Nat) : Residency :=
  { u with fills := u.fills.filter fun x => x.id != id }

/-- Why a fetch cannot go on: a page that awaits the host, or a reason of its FETCHFAIL event (log 17). -/
inductive FetchErr where
  | host (va : Nat) (access : Access)
  | fail (reason : Nat)
deriving DecidableEq, Repr

/-- Reasons: an NVMe error, MEMECC, a malformed image or record, a CRC mismatch, an address. -/
def failNvme : Nat := 1
def failEcc : Nat := 2
def failForm : Nat := 3
def failCrc : Nat := 4
def failAddr : Nat := 5

/-- An operation's error as a fetch's. -/
def ResErr.toFetch : ResErr → FetchErr
  | .host va access => .host va access
  | .ecc _ | .tagEcc => .fail failEcc
  | .code 6 => .fail failForm
  | .code _ => .fail failAddr

/-- The copy that a fill makes, by its record. -/
def Fill.copy? (f : Fill) : Option (ExpRec × CopyRec) :=
  match expRec f.expert.toNat f.record with
  | none => none
  | some r => (r.copy? f.fmt).map fun c => (r, c)

/-- Where a fill's bytes come from (R315): an LPDDR6 copy, a derivation, or the flash image. -/
inductive Source where
  | region (t : Tag)
  | derived (src : CopyRec) (from_ : Option Tag)
  | flash (c : CopyRec)
deriving DecidableEq, Repr

/-- A RESIDENT LPDDR6 copy at a format and version. -/
def Residency.regionCopy (u : Residency) (id fmt : Nat) (ver : Bool) : Option Tag :=
  ((u.copies id).find? fun t => t.2.tier == 1 && t.2.state == .resident && t.2.fmt == fmt && t.2.ver == ver).map (·.2)

/-- The first source that applies. -/
def State.fillSource (s : State) (f : Fill) : Except FetchErr Source :=
  match f.copy? with
  | none => .error (.fail failForm)
  | some (r, c) =>
    match (if f.canopy then s.resid.regionCopy f.expert.toNat f.fmt f.ver else none) with
    | some t => .ok (.region t)
    | none =>
      if c.derived then
        match r.copies.find? fun x => x.fmt == 3 || x.fmt == 4 with
        | none => .error (.fail failForm)
        | some x => .ok (.derived x (if f.canopy then s.resid.regionCopy f.expert.toNat x.fmt f.ver else none))
      else .ok (.flash c)

/-- The drive that a fill reads, where it reads flash. -/
def State.fillDrive (s : State) (f : Fill) : Nat :=
  match s.fillSource f with
  | .ok (.derived c none) | .ok (.flash c) => bits c.flash 46 2
  | _ => 0

/-- The header of a flash image, held to its plan and format. -/
def State.flashHeader (s : State) (c : CopyRec) (plan : List Nat) : Except FetchErr ImageHeader :=
  match s.nvmeRead c.flash 32 with
  | .error _ => .error (.fail failNvme)
  | .ok bs =>
    match imageHeader bs with
    | none => .error (.fail failForm)
    | some h =>
      if h.fmt = c.fmt ∧ h.frames = plan.foldl (· + ·) 0 then .ok h else .error (.fail failForm)

/-- The decoded bytes of a flash image. -/
def State.flashImage (s : State) (c : CopyRec) (plan : List Nat) : Except FetchErr (List Byte) :=
  match s.flashHeader c plan with
  | .error e => .error e
  | .ok h =>
    match s.nvmeRead (c.flash + 32) h.coded with
    | .error _ => .error (.fail failNvme)
    | .ok bs =>
      match chunks (h.length / 256 + 2) h.length bs with
      | none => .error (.fail failForm)
      | some out => if crc32 out = h.crc then .ok out else .error (.fail failCrc)

/-- The decoded bytes of an LPDDR6 copy. -/
def State.regionImage (s : State) (t : Tag) : Except FetchErr (List Byte) :=
  match s.resBytes t.loc (imageBytes (t.frames.map (·.2)) t.side) with
  | .ok bs => .ok bs
  | .error e => .error e.toFetch

/-- A frame plan as a fetch needs it. -/
def State.fetchPlan (s : State) (c : CopyRec) : Except FetchErr (List Nat) :=
  match s.framePlan c with
  | .ok p => .ok p
  | .error e => .error e.toFetch

/-- The plan and the side bytes of what a fill makes. -/
def State.fillSize (s : State) (f : Fill) : Except FetchErr (List Nat × Nat) :=
  match f.copy? with
  | none => .error (.fail failForm)
  | some (_, c) =>
    match s.fetchPlan c with
    | .error e => .error e
    | .ok plan =>
      match s.fillSource f with
      | .error e => .error e
      | .ok (.region t) => .ok (plan, t.side)
      | .ok (.derived x _) =>
        match s.fetchPlan x with
        | .error e => .error e
        | .ok src =>
          if (src.zip plan).all fun y => y.1 == 2 * y.2 then .ok (plan, 1024 * plan.foldl (· + ·) 0)
          else .error (.fail failForm)
      | .ok (.flash c) =>
        match s.flashHeader c plan with
        | .error e => .error e
        | .ok h => .ok (plan, h.side)

/-! ### Derived copies (R116, R329) -/

/-- The place of the leading bit of a finite number. -/
def topExp : FVal → Option Int
  | .fin _ m e => if m = 0 then none else some ((bitLen m : Int) - 1 + e)
  | _ => none

/-- Quantising a group to an MX block (R116): the scale's code, and the elements. DESIGN CHOICE: of a group without a
finite value, whose amax R116 does not state, e is -127 and the code 0 (log 43). -/
def mxQuant (f : Fmt) (emax : Int) (vs : List Word) : Nat × List Nat :=
  let top := (vs.filterMap fun v => topExp (f32 v)).foldl (fun (m : Option Int) x =>
    match m with | none => some x | some y => some (max x y)) none
  let e := match top with | none => -127 | some t => max (-127) (min 127 (t - emax))
  ((e + 127).toNat, vs.map fun v => (cvt (mulF (f32 v) (.fin false 1 (-e))).1 f (.det .rne) true 0).1)

/-- An element of a source frame, widened and scaled: element k of column j of frame n. -/
def derivedElem (fmt : Fmt) (frames side : List Byte) (n j k : Nat) : Word :=
  mul32 (round32 (fval fmt (leAt frames (16384 * n + 128 * j + k) 1))) (BitVec.ofNat 32 (leAt side (4 * n) 4))

/-- One derived frame and its side bytes, from source frames n and n + 1. -/
def derivedFrame (fmt : Fmt) (frames side : List Byte) (n : Nat) : List Byte × List Byte :=
  let groups := (List.range 128).flatMap fun j => (List.range 8).map fun g =>
    mxQuant .e2m1 2 ((List.range 32).map fun i =>
      let k := 32 * g + i
      derivedElem fmt frames side (n + k / 128) j (k % 128))
  let codes := groups.flatMap (·.2)
  ((List.range 16384).map fun i => BitVec.ofNat 8 (codes.getD (2 * i) 0 % 16 + 16 * (codes.getD (2 * i + 1) 0 % 16)),
    groups.map fun x => BitVec.ofNat 8 x.1)

/-- A derived image from a source's decoded bytes: each core's frames come in pairs. -/
def derivedImage (fmt : Fmt) (src : List Nat) (bs : List Byte) : List Byte :=
  let total := src.foldl (· + ·) 0
  let side := bs.drop (16384 * total)
  let frames := bs.take (16384 * total)
  let made := (List.range (total / 2)).map fun i => derivedFrame fmt frames side (2 * i)
  made.flatMap (·.1) ++ made.flatMap (·.2)

/-- The decoded bytes that a fill brings, and whether they came from flash. -/
def State.fillData (s : State) (f : Fill) : Except FetchErr (List Byte × Bool) :=
  match f.copy?, s.fillSource f with
  | none, _ => .error (.fail failForm)
  | _, .error e => .error e
  | some _, .ok (.region t) => (s.regionImage t).map fun bs => (bs, false)
  | some _, .ok (.derived x from_) =>
    match s.fetchPlan x with
    | .error e => .error e
    | .ok src =>
      let bs := match from_ with
        | some t => (s.regionImage t).map fun bs => (bs, false)
        | none => (s.flashImage x src).map fun bs => (bs, true)
      bs.map fun y => (derivedImage (fmtOf x.fmt) src y.1, y.2)
  | some (_, c), .ok (.flash _) =>
    match s.fetchPlan c with
    | .error e => .error e
    | .ok plan => (s.flashImage c plan).map fun bs => (bs, true)

/-! ### FETCH_START -/

/-- A fill that needs a page waits for the host (R300, R405). -/
def State.fillPageFault (s : State) (f : Fill) (va : Nat) (access : Access) : State :=
  let (id, s) := s.startWalk (.unit f.id) 7 va access none
  match s.walks.find? fun w => w.id == id with
  | some w => s.pageFault w
  | none => s

/-- A fill that cannot go on: it waits for the host, or its failure is due. -/
def State.fillStops (s : State) (f : Fill) (e : FetchErr) : State :=
  match e with
  | .host va access => s.fillPageFault f va access
  | .fail n => { s with resid := s.resid.putFill { f with reason := n } }.due (.fetchFail f.id)

/-- The tag of a copy that a fill makes; one of a retired version goes as it comes (R317, R326). -/
def Fill.newTag (f : Fill) : Tag :=
  { loc := 0, id := f.expert, tier := if f.canopy then 0 else 1, fmt := f.fmt, ver := f.ver, pin := f.pin
    scout := f.scout, state := if f.old then .evicting else .fetching, ref := 0, age := 0, frames := [], side := 0 }

/-- A fill with a way: it claims one if it has none, and so enters FETCHING; `n` is its place in that order. -/
def Residency.withWay (u : Residency) (f : Fill) (n : Nat) : Option (Nat × Fill × Residency) :=
  match f.tag with
  | some k => some (k, f, u)
  | none =>
    match u.claimWay f.expert.toNat none with
    | none => none
    | some (k, u) =>
      let f := { f with tag := some k, entered := some n }
      some (k, f, { u with tags := insertNat k f.newTag u.tags }.putFill f)

/-- A fetch starts: it claims a way at once, if it can (R315, R320, R324), and its search for room is due. -/
def State.newFill (s : State) (id fmt : Nat) (canopy scout pin : Bool) (record : List Byte)
    (waiters : List (Fin 256 × Nat × Nat)) : State :=
  let (n, s) := s.newId
  let f : Fill :=
    ⟨n, BitVec.ofNat 20 id, fmt, canopy, s.resid.version id, scout, pin, record, none, none, false, false, 0, waiters⟩
  let u := { s.resid with fills := s.resid.fills ++ [f] }
  let s := match u.withWay f n with
    | some (k, _, u) => { s with resid := u }.mend .tag k 1
    | none => { s with resid := u }
  s.due (.fetchStart n)

/-- Whether a fill could be served now (R315). -/
def State.fillServeable (s : State) (f : Fill) : Bool :=
  !f.going && f.reason == 0 && !s.unitWaits f.id &&
    match s.fillSize f with
    | .error _ => true
    | .ok (plan, side) =>
      match s.resid.withWay f 0 with
      | none => false
      | some (_, _, u) => (u.makeRoom s.canopyC f.canopy plan side (u.tags.length + 1)).isSome

/-- Whether a fill comes before another: by entry into FETCHING, those that have no way yet last, in the order of
their requests. -/
def Fill.before (x y : Fill) : Bool :=
  match x.entered, y.entered with
  | some a, some b => decide (a < b)
  | some _, none => true
  | none, some _ => false
  | none, none => decide (x.id < y.id)

/-- Fills served before one: those before it in FETCHING order, scout fills after all others. -/
def Residency.fillsBefore (u : Residency) (f : Fill) : List Fill :=
  u.fills.filter fun x => if x.scout = f.scout then x.before f else f.scout

/-- A fill's turn among the waiting ones. -/
def State.fetchReady (s : State) (id : Nat) : Bool :=
  match s.resid.fills.find? fun f => f.id == id with
  | none => true
  | some f => !(s.resid.fillsBefore f).any s.fillServeable

/-- A waiting fill takes what it needs, if it is there. -/
def State.startFill (s : State) (f : Fill) : State :=
  match s.fillSize f with
  | .error e => s.fillStops f e
  | .ok (plan, side) =>
    let (n, s) := s.newId
    match s.resid.withWay f n with
    | none => s
    | some (k, f, u) =>
      match u.makeRoom s.canopyC f.canopy plan side (u.tags.length + 1) with
      | none => { s with resid := u }
      | some (u, loc, frames) =>
        let u := (u.modTag k fun t => { t with loc := loc, frames := frames, side := side }).putFill
          { f with going := true }
        ({ s with resid := u }.mend .tag k 1).due (.fetchComplete f.id)

/-- FETCH_START (R315). -/
def execFetchStart (id : Nat) (s : State) : Out :=
  match s.resid.fills.find? fun f => f.id == id with
  | none => .next s
  | some f => if f.going ∨ f.reason ≠ 0 ∨ s.unitWaits id ∨ !s.fetchReady id then .next s else .next (s.startFill f)

/-! ### Arrival and failure (R313, R318) -/

/-- The words w4 to w7 of a batch entry (Tables 6 and 7). -/
def outcomeBytes (code : Nat) (t : Option Tag) (count : Nat) : List Byte :=
  match t with
  | some t => leBytes 4 (code * 2 ^ 28 + t.fmt * 2 ^ 24 + bitAt t.ver 23 + count) ++ leBytes 4 t.id.toNat ++
      leBytes 8 t.loc
  | none => leBytes 4 (code * 2 ^ 28 + count) ++ leBytes 4 0 ++ leBytes 8 0

/-- A token list's bytes. -/
def tokenBytes (ts : List (Word × Word)) : List Byte := ts.flatMap fun t => leBytes 4 t.2.toNat ++ leBytes 4 t.1.toNat

/-- The batch entries that wait on a fill are written: WAITED with the copy's entry, or FAILED. -/
def State.flushWaits (s : State) (fill : Nat) (tag : Option Nat) : State :=
  let mine := s.resid.waits.filter fun w => w.fill == fill
  let s := { s with resid := { s.resid with waits := s.resid.waits.filter fun w => w.fill != fill } }
  mine.foldl (fun s w =>
    let send := w.amt != 0 && !w.launch.any fun n => s.taskStopped n w.issuer
    let s := match tag with
      | some k =>
        let s := (s.resWrite w.list (tokenBytes w.toks)).resWrite (w.entry + 16)
          (outcomeBytes 3 (lookupNat s.resid.tags k) w.toks.length)
        s.takeRef k w.launch (if w.amt = 0 then w.issuer else w.task)
      | none => s.resWrite (w.entry + 16) (outcomeBytes 5 none 0)
    match w.launch, send with
    | some n, true => s.sendDec n w.task (BitVec.ofNat 32 w.amt) none none
    | _, _ => s) s

/-- The decrements that XFETCHes asked of a fill (R324), but those of tasks that have been stopped (R387, R396). -/
def State.tellWaiters (s : State) (f : Fill) : State :=
  f.waiters.foldl (fun s w => if s.taskStopped w.1 w.2.2 then s else s.sendDec w.1 w.2.1 1#32 none none) s

/-- A fetch fails. -/
def State.failFill (s : State) (f : Fill) (reason : Nat) : State :=
  let u := match f.tag with | some k => s.resid.dropTag k | none => s.resid
  let s := { s with resid := (u.dropFill f.id).count (expertMc f.expert.toNat) 11 1 }
  let s := (s.flushWaits f.id none).tellWaiters f
  (s.moduleEvent 0x0A (leBytes 4 f.expert.toNat ++ leBytes 4 f.fmt ++ leBytes 4 reason)).kickFills

/-- FETCH_FAIL (R318). -/
def execFetchFail (id : Nat) (s : State) : Out :=
  match s.resid.fills.find? fun f => f.id == id with
  | none => .next s
  | some f => if f.reason = 0 then .next s else .next (s.failFill f f.reason)

/-- Frames of a decoded image written to the canopies, core by core. -/
def putFrames (s : State) (bs : List Byte) : List (Nat × (Nat × Nat)) → State
  | [] => s
  | (core, f) :: rest =>
    let n := 16384 * f.2
    let s := if f.2 = 0 then s
      else (s.modCore (Fin.ofNat 64 core) fun k =>
        { k with canopy := k.canopy.setBytes (16384 * f.1) (bs.take n) }).mend (.canopy (Fin.ofNat 64 core)) (16384 * f.1) n
    putFrames s (bs.drop n) rest

/-- A frame list's 520 bytes (R305). -/
def frameList (frames : List (Nat × Nat)) (side : Nat) : List Byte :=
  frames.flatMap (fun f => leBytes 8 (f.2 * 2 ^ 16 + f.1)) ++ leBytes 8 side

/-- A copy's bytes are written where its entry says; a page that cannot be written fails the fetch. -/
def State.placeCopy (s : State) (t : Tag) (bs : List Byte) : Except FetchErr State :=
  let frames := 16384 * (t.frames.map (·.2)).foldl (· + ·) 0
  let (va, out) :=
    if t.tier = 0 then
      (t.loc, frameList t.frames (t.loc + sideOffset) ++ List.replicate (sideOffset - 520) 0#8 ++ bs.drop frames)
    else (t.loc, bs)
  match s.resWritable va out.length with
  | .error e => .error e.toFetch
  | .ok _ =>
    let s := s.resWrite va out
    .ok (if t.tier = 0 then putFrames s bs (t.frames.zipIdx.map fun x => (x.2, x.1)) else s)

/-- An entry becomes RESIDENT. -/
def Residency.arrive (u : Residency) (k : Nat) : Residency :=
  { u.modTag k fun t => { t with state := .resident, age := u.stamp } with age := u.stamp }

/-- A KEEP copy's LPDDR6 copy from the same bytes, where the region can take it; it never replaces the canopy copy
of way `k` that was filled with it. -/
def State.keepCopy (s : State) (f : Fill) (k : Nat) (t : Tag) (bs : List Byte) : State :=
  let plan := t.frames.map (·.2)
  match s.resid.claimWay f.expert.toNat (some k) with
  | none => s
  | some (k, u) =>
    match u.makeRoom s.canopyC false plan t.side (u.tags.length + 1) with
    | none => s
    | some (u, loc, frames) =>
      let new : Tag := { f.newTag with loc := loc, tier := 1, pin := false, scout := false, frames := frames
                                       side := t.side, state := .resident }
      match { s with resid := u }.placeCopy new bs with
      | .error _ => s
      | .ok s' => { s' with resid := { s'.resid with tags := insertNat k new s'.resid.tags }.arrive k }.mend .tag k 1

/-- A fetch has every byte: the copy is written, and becomes RESIDENT. -/
def State.endFill (s : State) (f : Fill) (k : Nat) (t : Tag) (bs : List Byte) (flash : Bool) : State :=
  match s.placeCopy t bs with
  | .error e => s.fillStops f e
  | .ok s =>
    let mc := expertMc f.expert.toNat
    let old := t.state == .evicting
    let u := s.resid.arrive k
    let u := if old then u.modTag k fun t => { t with state := .evicting } else u
    let u := if flash then u.count mc 2 1 else if f.canopy then u.count mc 1 1 else u
    let s := { s with resid := u }
    let s := ((s.flushWaits f.id (some k)).tellWaiters f)
    let s := { s with resid := (s.resid.dropFill f.id).settle k }
    let keep := match f.copy? with | some (_, c) => c.keep && !c.derived | none => false
    (if keep ∧ flash ∧ f.canopy ∧ !old then s.keepCopy f k t bs else s).kickFills

/-- FETCH_COMPLETE (R313, R315): the drive of a flash image may also not answer within 1 s, an open choice
(log 5). -/
def execFetchComplete (id : Nat) (s : State) : Out :=
  match s.resid.fills.find? fun f => f.id == id with
  | none => .next s
  | some f =>
    match f.tag.bind fun k => (lookupNat s.resid.tags k).map fun t => (k, t) with
    | none => .next s
    | some (k, t) =>
      if !f.going ∨ f.reason ≠ 0 ∨ s.unitWaits id then .next s
      else
        match s.fillData f with
        | .error e => .next (s.fillStops f e)
        | .ok (bs, flash) =>
          if bs.length ≠ imageBytes (t.frames.map (·.2)) t.side then .next (s.fillStops f (.fail failForm))
          else
            let (n, s) := if flash then s.choose 2 else (0, s)
            if n = 1 then
              .next ((s.moduleEvent 0x0B (leBytes 4 (s.fillDrive f) ++ leBytes 4 0x11)).failFill f failNvme)
            else .next (s.endFill f k t bs flash)

/-! ## Issue (R308, R320, R322 to R326) -/

/-- Residency operands with a nonzero reserved bit. -/
def idBad (a : Nat) : Bool := a / 2 ^ 28 != 0 || bits a 20 4 != 0

/-- The failure of R322. -/
def State.reservedBit (s : State) : Out := s.raiseD .illegal 0x20#8 0#64

/-- The policy that a routing table's prefix selects. -/
def State.policyFor (s : State) (lane16 : Nat) : BitVec 32 := s.resid.policies[Fin.ofNat 8 (bits lane16 17 3)]

/-- Lane 16 of a row in a table's bytes. -/
def rowLane (bs : List Byte) (r i : Nat) : Nat := leAt bs (512 * r + 4 * i) 4

/-- A row whose lane 16 fails check 4. -/
def rowBad (bs : List Byte) (r : Nat) : Bool :=
  let w := rowLane bs r 16
  let k := bits w 28 4
  bits w 9 11 != bits (rowLane bs 0 16) 9 11 || k == 0 || decide (8 < k) || bits w 20 7 != 0 || bits w 0 9 != 0

/-- The checks of XROUTE and XHINT; `k` gets the policy's bytes followed by the rows. -/
def State.withTable (s : State) (a : Nat) (batch : Option Nat) (k : List Byte → State → Out) : Out :=
  let o := bits a 0 22
  let rows := bits a 24 8 + 1
  let odd := match batch with | some b => b % 2 ^ 48 % 32 != 0 | none => false
  if o % 512 ≠ 0 then s.raise .align (BitVec.ofNat 64 o)
  else if odd then s.raise .align (BitVec.ofNat 64 ((batch.getD 0) % 2 ^ 48))
  else if s.me.outside (512 * rows) o then s.raise .spadrange (offAddr (s.me.firstOutside o))
  else if bits a 22 2 ≠ 0 ∨ 128 < rows ∨ (batch.getD 0) / 2 ^ 48 ≠ 0 then s.reservedBit
  else
    s.withRecord 512 (512 * rows) o fun bs s =>
      match (List.range rows).find? (rowBad bs) with
      | some r => s.raiseD .illegal 0x20#8 (BitVec.ofNat 64 (o + 512 * r))
      | none => k (leBytes 4 (s.policyFor (rowLane bs 0 16)).toNat ++ bs) s

def execXroute (d : Fin 16) (a : RK 16) (b : Fin 16) (s : State) : Out :=
  s.withG (d :: b :: RK.gReg a) <|
    let x := s.me.gSrc a
    let y := s.me.g[b]
    s.withTable x.toNat (some y.toNat) fun bs s => .next (s.unit .xroute x y bs d true .xrouteServe)
def execXhint (d : Fin 16) (a : RK 16) (s : State) : Out :=
  s.withG (d :: RK.gReg a) <|
    let x := s.me.gSrc a
    s.withTable x.toNat none fun bs s => .next (s.unit .xhint x 0#64 bs d false .gResultLand)
def execXlook (d : Fin 16) (a : RK 16) (s : State) : Out :=
  s.withG (d :: RK.gReg a) <|
    let x := s.me.gSrc a
    if idBad x.toNat then s.reservedBit else .next (s.unit .xlook x 0#64 [] d false .gResultLand)
def execXfetch (l : Bool) (d : Fin 16) (a : RK 16) (b : Fin 16) (s : State) : Out :=
  s.withG (d :: b :: RK.gReg a) <|
    let x := s.me.gSrc a
    let y := s.me.g[b]
    if idBad x.toNat || bits y.toNat 28 35 != 0 then s.reservedBit
    else .next (s.unit (.xfetch l) x y [] d false .gResultLand)
def execXpin (d : Fin 16) (a : RK 16) (s : State) : Out :=
  s.withG (d :: RK.gReg a) <|
    let x := s.me.gSrc a
    if idBad x.toNat then s.reservedBit else .next (s.unit .xpin x 0#64 [] d false .gResultLand)
def execXunpin (d : Fin 16) (a : RK 16) (s : State) : Out :=
  s.withG (d :: RK.gReg a) <|
    let x := s.me.gSrc a
    if idBad x.toNat then s.reservedBit else .next (s.unit .xunpin x 0#64 [] d false .gResultLand)
def execXswap (d : Fin 16) (a : RK 16) (b : Fin 16) (s : State) : Out :=
  s.withG (d :: b :: RK.gReg a) <|
    let x := s.me.gSrc a
    let y := s.me.g[b]
    if x.toNat / 2 ^ 20 ≠ 0 then s.reservedBit
    else if y.toNat % 32 ≠ 0 then s.raise .align (BitVec.ofNat 64 (y.toNat % 2 ^ 48))
    else .next (s.unit .xswap x y [] d true .gResultLand)
def execXstat (clr : Bool) (d : Fin 16) (a : RK 16) (n : Fin 13) (s : State) : Out :=
  s.withG (d :: RK.gReg a) <|
    let x := s.me.gSrc a
    if x.toNat / 8 ≠ 0 then s.reservedBit else .next (s.unit (.xstat clr n) x 0#64 [] d false .gResultLand)

/-! ## Routing (R309 to R313) -/

/-- A batch entry's words w0 to w3 (Table 6). -/
structure BatchEntry where
  va   : Nat
  cap  : Nat
  list : Nat
  amt  : Nat
  task : Nat
  bad  : Bool
deriving DecidableEq, Repr

/-- An entry of a batch table. -/
def batchEntry (table : Nat) (bs : List Byte) (e : Nat) : BatchEntry :=
  let w (i : Nat) : Nat := leAt bs (32 * e + 4 * i) 4
  let list := w 1 + 2 ^ 32 * w 2
  let bad := bits (w 0) 24 8 != 1 || bits (w 0) 11 13 != 0 || decide (1024 < bits (w 0) 0 11) ||
    list / 2 ^ 48 != 0 || list % 8 != 0
  ⟨(table + 32 * e) % 2 ^ 48, if bad then 0 else bits (w 0) 0 11, list, bits (w 3) 28 4, bits (w 3) 0 28, bad⟩

/-- An expert that a pair of an XROUTE names: its number, its resolution, its record, and whether it lists a
copy at PREF. -/
structure Named where
  e    : Nat
  res  : Resolution
  subs : List Nat
  listed : Bool
  record : List Byte
deriving DecidableEq, Repr

/-- A batch being filled: the entry, its outcome, its copy and its tokens. -/
structure Batch where
  e    : Nat
  code : Nat
  tag  : Nat
  toks : List (Word × Word)
deriving DecidableEq, Repr

/-- What an XROUTE has gathered: batches, tokens enqueued, refused entries that a pair met, and the sums of
Table 8. -/
structure Routing where
  batches : List Batch
  queued  : List (Nat × List (Word × Word))
  /-- Experts whose queues it has created. -/
  made    : List Nat
  refused : List Nat
  hit     : Nat
  degraded : Nat
  diverted : Nat
  enqueued : Nat
  dropped  : Nat
deriving DecidableEq, Repr

/-- Tokens that an XROUTE has given an entry. -/
def Routing.given (x : Routing) (e : Nat) : Nat :=
  (((x.batches.find? fun b => b.e == e).map fun b => b.toks.length).getD 0) +
    (((lookupNat x.queued e).map (·.length)).getD 0)

/-- A token appended to an entry's batch, if there is room. -/
def Routing.append (x : Routing) (en : Nat → BatchEntry) (e code tag : Nat) (t : Word × Word) : Option Routing :=
  let x := if (en e).bad ∧ !x.refused.contains e then { x with refused := x.refused ++ [e] } else x
  if (en e).cap ≤ x.given e then none
  else if x.batches.any fun b => b.e == e then
    some { x with batches := x.batches.map fun b => if b.e = e then { b with toks := b.toks ++ [t] } else b }
  else some { x with batches := x.batches ++ [⟨e, code, tag, [t]⟩] }

/-- An entry that a pair met and that is refused is noted. -/
def Routing.note (x : Routing) (en : Nat → BatchEntry) (e : Nat) : Routing :=
  if (en e).bad ∧ !x.refused.contains e then { x with refused := x.refused ++ [e] } else x

/-- An enqueue on the copy awaited, unless R313 refuses it. `old` is the fill awaited, if it is under way. -/
def Routing.enqueue (x : Routing) (u : Residency) (en : Nat → BatchEntry) (n : Named) (old : Option Fill)
    (t : Word × Word) : Option Routing :=
  let mine : List (Word × Word) := (lookupNat x.queued n.e).getD []
  let new : Nat := (x.queued.map fun y => y.2.length).foldl (· + ·) 0
  let spill : Nat := (u.waits.map fun w => w.toks.length).foldl (· + ·) 0
  let queues := ((u.waits.map (·.fill)).eraseDups).length + x.made.length
  let onOld := match old with | some f => u.waiting f.id | none => 0
  let creates := onOld == 0 && mine.isEmpty
  if !n.listed || decide ((en n.e).cap ≤ x.given n.e) || decide (1024 ≤ onOld + mine.length) ||
      decide (u.spillPlaces ≤ spill + new) || creates && decide (4096 ≤ queues) then none
  else some { x with queued := insertNat n.e (mine ++ [t]) x.queued, enqueued := x.enqueued + 1
                     made := if creates then n.e :: x.made else x.made }

/-- The queue-full action (R310): the lowest-ranked eligible substitute, whose own resolution ignores MISS (R307), or a
drop. -/
def Routing.overflow (x : Routing) (u : Residency) (h : MapHdr) (p : Policy) (en : Nat → BatchEntry)
    (t : Word × Word) : List Nat → Routing
  | [] => { x with dropped := x.dropped + 1 }
  | y :: ys =>
    let r := if p.qfa ∨ !h.has y then none
      else match u.resolve h { p with miss := 2 } y [] with
        | .hit k => x.append en (expertNum y) 1 k t
        | .degrade k => x.append en (expertNum y) 2 k t
        | _ => none
    match r with
    | some x => { x with diverted := x.diverted + 1 }
    | none => x.overflow u h p en t ys

/-- One pair (R310). -/
def Routing.pair (x : Routing) (u : Residency) (h : MapHdr) (p : Policy) (en : Nat → BatchEntry)
    (n : Option (Named × Option Fill)) (t : Word × Word) : Routing :=
  match n with
  | none => { x with dropped := x.dropped + 1 }
  | some (n, old) =>
    let x := x.note en n.e
    let r := match n.res with
      | .hit k => (x.append en n.e 1 k t).map fun x => { x with hit := x.hit + 1 }
      | .degrade k => (x.append en n.e 2 k t).map fun x => { x with degraded := x.degraded + 1 }
      | .divert y k => ((x.note en (expertNum y)).append en (expertNum y) 1 k t).map fun x =>
          { x with diverted := x.diverted + 1 }
      | .wait => x.enqueue u en n old t
    match r with
    | some x => x
    | none =>
      let x := match n.res with | .divert y _ => x.note en (expertNum y) | _ => x
      x.overflow u h p en t n.subs

/-- The valid pairs of a table in order: expert number, token, weight. -/
def tablePairs (t0 : Nat) (bs : List Byte) (rows : Nat) : List (Nat × Word × Word) :=
  (List.range rows).flatMap fun r =>
    (List.range (bits (rowLane bs r 16) 28 4)).filterMap fun j =>
      let w := rowLane bs r (8 + j)
      if w.testBit 31 then some (w % 512, BitVec.ofNat 32 (t0 + r), BitVec.ofNat 32 (rowLane bs r j)) else none

/-- The records and resolutions of the experts that pairs name. -/
def State.nameAll (s : State) (h : MapHdr) (p : Policy) (base : Nat) : List Nat → Except ResErr (List Named)
  | [] => .ok []
  | e :: es =>
    match s.expRecOf h (base + e) with
    | .error x => .error x
    | .ok (r, bs) =>
      match s.nameAll h p base es with
      | .error x => .error x
      | .ok ns => if r.subs.any s.tagBad then .error .tagEcc else .ok (⟨e, s.resid.resolve h p (base + e) r.subs, r.subs, (r.copy? p.pref).isSome, bs⟩ :: ns)

/-- The entries that an XROUTE writes now, with outcome, copy and tokens (R310): every batch that received tokens, and
of an expert that resolved WAIT, without tokens, only a refused one. DEDUCED: an entry whose expert's tokens wait and
whose batch the queue-full action filled is written now and again at arrival, with a decrement each (log 24). -/
def Routing.writes (x : Routing) (en : Nat → BatchEntry) (named waits : List Nat) :
    List (Nat × Nat × Option Nat × List (Word × Word)) :=
  (List.range 512).filterMap fun e =>
    match x.batches.find? fun b => b.e == e with
      | some b => some (e, b.code, some b.tag, b.toks)
      | none =>
        if (lookupNat x.queued e).isSome ∨ ((en e).amt = 0 ∨ waits.contains e ∧ !(en e).bad) ∧ !x.refused.contains e then none
        else some (e, if (en e).bad then 6 else if named.contains e then 4 else 0, none, [])

/-- Every span that an XROUTE will write can be written. -/
def State.checkWrites (s : State) : List (Nat × Nat) → Except ResErr Unit
  | [] => .ok ()
  | (va, n) :: rest =>
    match s.resWritable va n with
    | .error e => .error e
    | .ok _ => s.checkWrites rest

/-- The launch and task of a request. -/
def Req.launch (r : Req) : Fin 256 := (r.task.map TaskRef.launch).getD 0
def Req.taskNum (r : Req) : Nat := (r.task.map fun t => t.task.toNat).getD 0

/-- A decrement that a request sends, unless its task is gone (R396). -/
def State.reqDec (s : State) (r : Req) (task amt : Nat) (wait : Bool) : State :=
  if amt = 0 ∨ r.orphaned then s
  else s.sendDec r.launch task (BitVec.ofNat 32 amt) none (if wait then some r.id else none)

/-- One entry written now: its tokens, its words, its reference. -/
def State.writeBatch (s : State) (r : Req) (en : BatchEntry) (code : Nat) (tag : Option Nat)
    (toks : List (Word × Word)) : State :=
  let t := tag.bind fun k => lookupNat s.resid.tags k
  let s := if toks = [] then s else s.resWrite en.list (tokenBytes toks)
  let s := s.resWrite (en.va + 16) (outcomeBytes code t toks.length)
  match tag with
  | some k => s.takeRef k (r.task.map (·.launch)) (if en.amt = 0 then r.taskNum else en.task)
  | none => s

/-- Tokens of an XROUTE join the queue of a copy, and the fetch that a WAIT or a miss starts (R307). -/
def State.awaitCopy (s : State) (r : Req) (p : Policy) (en : Nat → BatchEntry) (base : Nat) (x : Routing) (n : Named) :
    State :=
  let starts := match n.res with | .hit _ => false | .wait => true | _ => p.missFetch
  if !starts ∨ !n.listed then s
  else
    let s := if (s.resid.fetching (base + n.e) p.pref true).isSome then s
      else s.newFill (base + n.e) p.pref true false false n.record []
    match lookupNat x.queued n.e, s.resid.fetching (base + n.e) p.pref true with
    | some toks, some f =>
      let b := en n.e
      let w : WaitBatch := ⟨f.id, r.task.map (·.launch), b.va, b.list, b.amt, b.task, r.taskNum, toks⟩
      { s with resid := { s.resid with waits := s.resid.waits ++ [w] } }
    | _, _ => s

/-- Tokens that wait take places of the spill area from place `n` on; what a place holds is not stated: free words
(R313; log 24). -/
def State.spill (s : State) (n count : Nat) : State :=
  { s with fresh := s.fresh + 2 * count }.resWrite (s.resid.spillBase + 16 * n)
    ((List.range (2 * count)).flatMap fun i => leBytes 8 (Config.freeWord (s.fresh + i)).toNat)

/-- Table 8. -/
def Routing.summary (x : Routing) : DWord :=
  BitVec.ofNat 64 (x.hit * 2 ^ 48 + x.degraded * 2 ^ 36 + x.diverted * 2 ^ 24 + x.enqueued * 2 ^ 12 + x.dropped)

/-- What an XROUTE does, or its error. -/
def State.route (s : State) (r : Req) (a b : Nat) (bs : List Byte) : Except ResErr (State × DWord) :=
  let p := policyOf (leAt bs 0 4)
  let rows := bs.drop 4
  let base := bits (rowLane rows 0 16) 9 11 * 512
  let mc := expertMc base
  let table := b % 2 ^ 48
  match s.mapHdr mc with
  | .error e => .error e
  | .ok h =>
    let pairs := tablePairs (a / 2 ^ 32) rows (bits a 24 8 + 1)
    let named := ((pairs.map (·.1)).eraseDups).filter fun e => h.has (base + e)
    match s.nameAll h p base named, s.resBytes table 16384 with
    | .error e, _ => .error e
    | _, .error e => .error e
    | .ok ns, .ok tb =>
      let en (e : Nat) : BatchEntry := batchEntry table tb e
      let u := s.resid
      let look (e : Nat) : Option (Named × Option Fill) :=
        (ns.find? fun n => n.e == e).map fun n => (n, u.fetching (base + e) p.pref true)
      let x := pairs.foldl (fun (x : Routing) t => x.pair u h p en (look t.1) (t.2.1, t.2.2)) ⟨[], [], [], [], 0, 0, 0, 0, 0⟩
      let ws := x.writes en named ((ns.filter fun n => n.res == .wait).map (·.e))
      let spans := (ws.flatMap fun w => [((en w.1).va + 16, 16), ((en w.1).list, 8 * w.2.2.2.length)]) ++
        x.queued.flatMap fun q => [((en q.1).va + 16, 16), ((en q.1).list, 8 * q.2.length)]
      match s.checkWrites (spans.filter fun w => w.2 != 0) with
      | .error e => .error e
      | .ok _ =>
        let s := s.resUse table 16384
        let s := ws.foldl (fun s w => s.writeBatch r (en w.1) w.2.1 w.2.2.1 w.2.2.2) s
        let s := ws.foldl (fun s w => s.reqDec r (en w.1).task (en w.1).amt true) s
        let u := s.resid.count mc 3 (ns.filter fun n => match n.res with | .hit _ => false | _ => true).length
        let u := (((((u.count mc 0 x.hit).count mc 5 x.degraded).count mc 4 x.diverted).count mc 7 x.enqueued).count mc
          6 x.dropped)
        let held := (u.waits.map fun w => w.toks.length).foldl (· + ·) 0
        .ok (ns.foldl (fun s n => s.awaitCopy r p en base x n) ({ s with resid := u }.spill held x.enqueued), x.summary)

/-! ## Order and service -/

/-- A request to the residency unit. -/
def UnitOp.toResidency : UnitOp → Bool
  | .xroute | .xlook | .xfetch _ | .xpin | .xunpin | .xhint | .xswap | .xstat .. => true
  | _ => false

/-- An XROUTE. -/
def Req.isXroute (q : Req) : Bool :=
  match q.kind with
  | .unit .xroute .. => true
  | _ => false

/-- Another XROUTE has waited for a page: the unit serves them one at a time (R310). -/
def State.routing (s : State) (r : Req) : Bool :=
  r.isXroute && s.reqs.any fun q => q.id != r.id && q.isXroute && q.started && q.state == .waiting

/-- A request in its turn: its context's earlier ones served, its release done, no page awaiting the host. -/
def State.residReady (s : State) (r : Req) : Bool :=
  !s.unitWaits r.id && !s.routing r && s.unfenced r && (!r.rel || s.released r .dev) &&
    (earlier r.id s.reqs).all fun q =>
      !(q.c == r.c && q.state == .waiting && match q.kind with
        | .unit op .. => op.toResidency
        | _ => false)

/-- A request that gives no result of its own: an error result, a wait for the host, or an uncorrectable
error as a unit request's (R390, R399; log 21). -/
def State.resFails (s : State) (r : Req) (e : ResErr) : State :=
  match e with
  | .code n => s.finish { r with res := gErr n }
  | .ecc va => s.unitFault r 0x7#4 0x0E#8 0x00#8 va
  | .tagEcc => { s with fresh := s.fresh + 1 }.unitFault r 0x7#4 0x0E#8 0x00#8 (Config.freeWord s.fresh).toNat
  | .host va access =>
    if r.pageFailed.contains (va / 65536) then s.finish { r with res := gErr 9 } else s.unitPageFault r va access

/-- XROUTE_SERVE (R310, R311): its result forms once its decrements have applied. -/
def execXrouteServe (id : Nat) (s : State) : Out :=
  match s.req? id with
  | none => .next s
  | some r =>
    match r.kind with
    | .unit .xroute a b bs =>
      if r.state ≠ .waiting ∨ !s.residReady r then .next s
      else
        match s.route r a.toNat b.toNat bs with
        | .error e => .next (s.resFails r e)
        | .ok (s, w) => .next ((s.putReq { r with state := .served, res := w }).due (.gResultLand id))
    | _ => .next s

/-! ## The scout (R320) -/

/-- The candidates of a transition entry: identifier and weight. An entry with a nonzero reserved bit is malformed (R8,
R300, R302). -/
def State.candidates (s : State) (h : MapHdr) (mc id : Nat) : Except ResErr (List (Nat × Word)) :=
  if !h.has id then .ok []
  else
    match s.resBytes (h.trans + 32 * h.index id) 32 with
    | .error e => .error e
    | .ok bs =>
      if (List.range 4).any fun t => bits (leAt bs (8 * t) 8) 20 11 != 0 then .error (.code 6)
      else .ok ((List.range 4).filterMap fun t =>
        let w := leAt bs (8 * t) 8
        if w.testBit 31 ∧ expertMc (bits w 0 20) = mc ∧ h.has (bits w 0 20) then
          some (bits w 0 20, BitVec.ofNat 32 (w / 2 ^ 32)) else none)

/-- A score grows. -/
def addScore (m : List (Nat × Word)) (x : Word) (c : Nat × Word) : List (Nat × Word) :=
  insertNat c.1 (add32 ((lookupNat m c.1).getD 0#32) (mul32 x c.2)) m

/-- Scores from weighted experts. -/
def State.scores (s : State) (h : MapHdr) (mc : Nat) : List (Nat × Word) → List (Nat × Word) →
    Except ResErr (List (Nat × Word))
  | [], m => .ok m
  | (id, x) :: rest, m =>
    match s.candidates h mc id with
    | .error e => .error e
    | .ok cs => s.scores h mc rest (cs.foldl (fun m c => addScore m x c) m)

/-- Identifiers at or above the threshold, by score and then by identifier. -/
def ranked (thr : Word) (m : List (Nat × Word)) : List Nat :=
  (sortBy (fun (x y : Nat × Word) => decide (numKey y.2 < numKey x.2) || numKey x.2 == numKey y.2 && decide (x.1 < y.1))
    (m.filter fun x => fccHolds .ge x.2 thr)).map (·.1)

/-- Scout fetches of a list, those that are not unneeded. -/
def State.scoutAll (s : State) (h : MapHdr) (p : Policy) : List Nat → Except ResErr (List (Nat × List Byte))
  | [] => .ok []
  | id :: ids =>
    if (s.resid.fetching id p.pref true).isSome ∨ (s.resid.usable id).any (fun t => t.2.fmt == p.pref) then
      s.scoutAll h p ids
    else
      match s.expRecOf h id with
      | .error e => .error e
      | .ok (r, bs) =>
        match s.scoutAll h p ids with
        | .error e => .error e
        | .ok rest => .ok (if (r.copy? p.pref).isSome then (id, bs) :: rest else rest)

/-- XHINT is served. -/
def State.serveXhint (s : State) (r : Req) (a : Nat) (bs : List Byte) : State :=
  let p := policyOf (leAt bs 0 4)
  let rows := bs.drop 4
  let base := bits (rowLane rows 0 16) 9 11 * 512
  let mc := expertMc base
  if !p.scout then s.finish { r with res := 0#64 }
  else
    match s.mapHdr mc with
    | .error e => s.resFails r e
    | .ok h =>
      let ws := ((tablePairs 0 rows (bits a 24 8 + 1)).filter fun x => !isNan32 x.2.2 && !x.2.2.msb).map fun x =>
        (base + x.1, x.2.2)
      match s.scores h mc ws [] with
      | .error e => s.resFails r e
      | .ok s1 =>
        match (if p.depth then s.scores h mc (s1.filter fun x => fccHolds .gt x.2 0#32) [] else .ok []) with
        | .error e => s.resFails r e
        | .ok s2 =>
          let thr := round32 (.fin false p.scth (-8))
          match s.scoutAll h p (((ranked thr s1 ++ ranked thr s2).eraseDups).take p.smax) with
          | .error e => s.resFails r e
          | .ok go =>
            let s := go.foldl (fun s x => s.newFill x.1 p.pref true true false x.2 []) s
            { s with resid := s.resid.count mc 8 go.length }.finish { r with res := BitVec.ofNat 64 go.length }

/-! ## Explicit control (R322 to R326) -/

/-- The expert and format that an operand names, with the expert's record (R322). -/
def State.named (s : State) (a : Nat) (any15 : Bool) : Except ResErr (Nat × Nat × ExpRec × List Byte) :=
  let id := a % 2 ^ 20
  let f := bits a 24 4
  match s.mapHdr (expertMc id) with
  | .error e => .error e
  | .ok h =>
    if !h.has id then .error (.code 2)
    else
      match s.expRecOf h id with
      | .error e => .error e
      | .ok (r, bs) =>
        if (f = 15 ∧ any15) ∨ (r.copy? f).isSome then .ok (id, f, r, bs) else .error (.code 3)

/-- The order of XLOOK: tier, width, RESIDENT before FETCHING before EVICTING; then the format's code. -/
def stateRank : TagState → Nat
  | .resident => 0
  | .fetching => 1
  | .evicting => 2
  | .absent => 3
def lookBefore (x y : Nat × Tag) : Bool :=
  let key (t : Tag) : Nat := ((t.tier * 16 + (15 - copyWidth t.fmt)) * 4 + stateRank t.state) * 16 + t.fmt
  decide (key x.2 < key y.2)

/-- A state's code (Table 4). -/
def tagCode : TagState → Nat
  | .absent => 0
  | .fetching => 1
  | .resident => 2
  | .evicting => 3

/-- XLOOK is served. For an expert without an entry the spec states tier 2 and LOC 0; its VER and FMT are free
(log 8). -/
def State.serveXlook (s : State) (r : Req) (a : Nat) : State :=
  match s.named a true with
  | .error e => s.resFails r e
  | .ok (id, f, _, _) =>
    let ts := (s.resid.copies id).filter fun t =>
      t.2.ver == s.resid.version id && (f == 15 || t.2.fmt == f)
    match (sortBy lookBefore ts).head? with
    | some (_, t) =>
      s.finish { r with res := BitVec.ofNat 64 (2 ^ 63 + t.tier * 2 ^ 61 + tagCode t.state * 2 ^ 59 + bitAt t.pin 58 +
        bitAt t.ver 57 + t.fmt * 2 ^ 53 + t.loc % 2 ^ 48) }
    | none =>
      { s with fresh := s.fresh + 1 }.finish
        { r with res := 0xC000000000000000#64 ||| (Config.freeWord s.fresh &&& 0x03E0000000000000#64) }

/-- XFETCH is served. -/
def State.serveXfetch (s : State) (r : Req) (l : Bool) (a b : Nat) : State :=
  match s.named a false with
  | .error e => s.resFails r e
  | .ok (id, f, _, bs) =>
    let u := s.resid
    let tier := if l then 1 else 0
    let ask := b.testBit 63 && !r.orphaned
    let who := (r.launch, b % 2 ^ 28, r.taskNum)
    if (u.copies id).any fun t => t.2.tier == tier && t.2.fmt == f && t.2.state == .resident && t.2.ver == u.version id then
      (if ask then s.sendDec who.1 who.2.1 1#32 none none else s).finish { r with res := 0#64 }
    else
      match u.fetching id f (!l) with
      | some x =>
        { s with resid := if ask then u.putFill { x with waiters := x.waiters ++ [who] } else u }.finish
          { r with res := 0#64 }
      | none =>
        if u.setFull id then s.finish { r with res := gErr 5 }
        else (s.newFill id f (!l) false false bs (if ask then [who] else [])).finish { r with res := 0#64 }

/-- Pinned frames of a core: copies', and those of pinned fills that have no room yet. -/
def State.pinned (s : State) (core : Nat) : Nat :=
  let ts := (s.resid.tags.filter fun t => t.2.tier == 0 && t.2.pin).map fun t => ((t.2.frames[core]?).map (·.2)).getD 0
  let fs := (s.resid.fills.filter fun f => f.canopy && f.pin && !f.going).map fun f =>
    match f.copy? with
    | none => 0
    | some (_, c) => match s.framePlan c with | .ok p => p.getD core 0 | .error _ => 0
  (ts ++ fs).foldl (· + ·) 0

/-- Whether pinning frames of a plan passes the limit on a slice (R324). -/
def State.pinOver (s : State) (plan : List Nat) : Bool :=
  plan.zipIdx.any fun x => x.1 != 0 && decide (1024 - s.canopyC < 2 * (s.pinned x.2 + x.1))

/-- The canopy copy that XPIN pins: of the current version first. -/
def Residency.toPin (u : Residency) (id f : Nat) : Option (Nat × Tag) :=
  let ts := (u.copies id).filter fun t => t.2.tier == 0 && t.2.fmt == f
  match ts.find? fun t => t.2.ver == u.version id with
  | some t => some t
  | none => ts.head?

/-- PIN set on an entry; an EVICTING copy becomes RESIDENT again, or FETCHING while its fill goes on. -/
def Residency.pin (u : Residency) (k : Nat) : Residency :=
  let filling := u.fills.any fun f => f.tag == some k
  let u := u.modTag k fun t =>
    { t with pin := true, state := if t.state = .evicting then (if filling then .fetching else .resident) else t.state }
  { u with fills := u.fills.map fun f => if f.tag = some k then { f with pin := true } else f }

/-- XPIN is served. -/
def State.serveXpin (s : State) (r : Req) (a : Nat) : State :=
  match s.named a false with
  | .error e => s.resFails r e
  | .ok (id, f, rec_, bs) =>
    match rec_.copy? f with
    | none => s.finish { r with res := gErr 3 }
    | some c =>
      let ok (s : State) : State := s.finish { r with res := 0#64 }
      match s.resid.toPin id f with
      | some (k, t) =>
        if t.pin then ok { s with resid := s.resid.pin k }
        else
          match (if t.frames.isEmpty then s.framePlan c else .ok (t.frames.map (·.2))) with
          | .error e => s.resFails r e
          | .ok plan =>
            if s.pinOver plan then s.finish { r with res := gErr 4 } else ok { s with resid := s.resid.pin k }
      | none =>
        match s.framePlan c with
        | .error e => s.resFails r e
        | .ok plan =>
          match s.resid.fetching id f true with
          | some x =>
            if x.pin then ok s
            else if s.pinOver plan then s.finish { r with res := gErr 4 }
            else ok { s with resid := s.resid.putFill { x with pin := true } }
          | none =>
            if s.pinOver plan then s.finish { r with res := gErr 4 }
            else if s.resid.setFull id then s.finish { r with res := gErr 5 }
            else ok (s.newFill id f true false true bs [])

/-- XUNPIN is served. -/
def State.serveXunpin (s : State) (r : Req) (a : Nat) : State :=
  match s.named a true with
  | .error e => s.resFails r e
  | .ok (id, f, _, _) =>
    let u := s.resid
    let is (t : Tag) : Bool := t.id.toNat == id && t.tier == 0 && t.pin && (f == 15 || t.fmt == f)
    let isF (x : Fill) : Bool := x.expert.toNat == id && x.canopy && x.pin && (f == 15 || x.fmt == f)
    let n := (u.tags.filter fun t => is t.2).length + (u.fills.filter fun x => x.tag.isNone && isF x).length
    let u := { u with tags := u.tags.map fun (t : Nat × Tag) => if is t.2 then (t.1, { t.2 with pin := false }) else t }
    let u := { u with fills := u.fills.map fun x => if isF x then { x with pin := false } else x }
    { s with resid := u }.kickFills.finish { r with res := BitVec.ofNat 64 n }

/-- XSTAT is served. -/
def State.serveXstat (s : State) (r : Req) (clr : Bool) (n : Fin 13) (a : Nat) : State :=
  let mc := a % 8
  if s.resid.bases[Fin.ofNat 8 mc].isNone then s.finish { r with res := gErr 1 }
  else
    let key := mc * 16 + n.val
    let v := (lookupNat s.resid.counters key).getD 0#64
    { s with resid := if clr then { s.resid with counters := eraseNat key s.resid.counters } else s.resid }.finish
      { r with res := v }

/-- A fill that is given up: its copy was retired and no token waits on it (log 24). -/
def State.abandon (s : State) (f : Fill) : State :=
  let u := match f.tag with | some k => s.resid.dropTag k | none => s.resid
  { s with resid := u.dropFill f.id }.tellWaiters f

/-- Every copy of an expert's old version is retired (R317, R326). -/
def State.retireVersion (s : State) (id : Nat) (ver : Bool) : State :=
  let idle := s.resid.fills.filter fun f =>
    f.expert.toNat == id && f.ver == ver && !s.resid.waits.any fun w => w.fill == f.id
  let old := (s.resid.copies id).filter fun t => t.2.ver == ver
  let s := { s with resid := s.resid.count (expertMc id) 12 old.length }
  let s := idle.foldl (fun s f => s.abandon f) s
  let mark (f : Fill) : Fill := if f.expert.toNat = id ∧ f.ver = ver then { f with old := true } else f
  let s := { s with resid := { s.resid with fills := s.resid.fills.map mark } }
  let u := old.foldl (fun (u : Residency) t => (u.modTag t.1 fun t => { t with state := .evicting }).settle t.1) s.resid
  { s with resid := u }.kickFills

/-- XSWAP is served. -/
def State.serveXswap (s : State) (r : Req) (a b : Nat) : State :=
  let id := a % 2 ^ 20
  match s.mapHdr (expertMc id) with
  | .error e => s.resFails r e
  | .ok h =>
    if !h.has id then s.finish { r with res := gErr 2 }
    else if s.tagBad id then s.resFails r .tagEcc
    else
      match s.resBytes (b % 2 ^ 48) 128 with
      | .error e => s.resFails r e
      | .ok bs =>
        if (expRec id bs).isNone then s.finish { r with res := gErr 7 }
        else if (lookupNat s.resid.records id).isNone ∧ 256 ≤ s.resid.records.length then
          s.finish { r with res := gErr 8 }
        else
          let old := s.resid.version id
          let u := { s.resid with
            records := insertNat id bs s.resid.records
            versions := if old then s.resid.versions.erase id else s.resid.versions ++ [id] }
          ({ s with resid := u }.retireVersion id old).finish { r with res := 0#64 }

/-- An explicit control or an XHINT is served. -/
def State.serveResidency (s : State) (r : Req) (op : UnitOp) (a b : DWord) (bs : List Byte) : State :=
  match op with
  | .xlook => s.serveXlook r a.toNat
  | .xfetch l => s.serveXfetch r l a.toNat b.toNat
  | .xpin => s.serveXpin r a.toNat
  | .xunpin => s.serveXunpin r a.toNat
  | .xhint => s.serveXhint r a.toNat bs
  | .xswap => s.serveXswap r a.toNat b.toNat
  | .xstat clr n => s.serveXstat r clr n a.toNat
  | _ => s

/-! ## Binding (R299, R304, R319) -/

/-- A model context is bound or unbound: its copies, records, versions and counters go, and after a bind its policy
is reset (R299, R306, R325). -/
def State.clearModel (s : State) (mc : Fin 8) (base : Option Nat) : State :=
  let mine (id : Nat) : Bool := expertMc id == mc.val
  let fills := s.resid.fills.filter fun f => mine f.expert.toNat
  let s := fills.foldl (fun s f => s.abandon f) s
  let u := s.resid
  { s with resid := { u with
      bases := u.bases.set mc base
      policies := if base.isSome then u.policies.set mc 0x70000000#32 else u.policies
      tags := u.tags.filter fun t => !mine t.2.id.toNat
      records := u.records.filter fun r => !mine r.1
      versions := u.versions.filter fun v => !mine v
      counters := u.counters.filter fun c => c.1 / 16 != mc.val } }.kickFills

/-- Canopy copies that a test picks become ABSENT; counter 12 grows where `counted` (R319, R423). -/
def Residency.evictWhere (u : Residency) (counted : Bool) (p : Tag → Bool) : Residency :=
  let gone := u.tags.filter fun t => t.2.tier == 0 && p t.2
  gone.foldl (fun (u : Residency) t =>
    let u := u.dropTag t.1
    if counted then u.count (expertMc t.2.id.toNat) 12 1 else u) u

end Sys2Proof.Machine
end

