-- ==== Sys2Proof/Machine/Units.lean ====
section
/-!
DEFINITION. G_RESULT_LAND: a request's result lands in its g registers (R91, R149), after its unit has
served it where no event of its own does.
-/
namespace Sys2Proof.Machine

/-- A request that its unit serves as its result forms, in its turn there. -/
def State.serveUnit (s : State) (r : Req) (op : UnitOp) (a b : DWord) (bs : List Byte) : State :=
  match op with
  | .gopen => if s.gambitReady r then s.serveGopen r a else s
  | .genter => if s.gambitReady r then s.serveGenter r a else s
  | .gqry self => if s.gambitReady r then s.serveGqry r self a else s
  | .pkq bf16 => if s.pkReady r then s.servePkq r bf16 bs else s
  | .pks => if s.pkReady r then s.servePks r bs else s
  | .pkk => if s.pkReady r then s.servePkk r bs else s
  | .tkcmt lev pw zw snap all => if s.seatReady r then s.serveTkcmt r lev pw zw snap all a b bs else s
  | .seatr w => if s.seatReady r then s.serveSeatr r w a else s
  | .seatw w => if s.seatReady r then s.serveSeatw r w a b else s
  | .xlook | .xfetch _ | .xpin | .xunpin | .xhint | .xswap | .xstat .. =>
    if s.residReady r then s.serveResidency r op a b bs else s
  | .xroute | .gres _ | .msg .. | .a2a => s

/-- Decrements that a request waits for. -/
def State.decsOf (s : State) (id : Nat) : Bool := s.decs.any fun d => d.req == some id

/-- A served request's last writes or decrements are done: its result lands. -/
def State.landServed (s : State) (r : Req) : State :=
  match r.kind with
  | .unit .xroute .. => if s.decsOf r.id then s else s.finish r
  | .unit op _ b _ => s.pkFinish r op b
  | _ => s

/-- G_RESULT_LAND. -/
def execGResultLand (id : Nat) (s : State) : Out :=
  match s.req? id with
  | none => .next s
  | some r =>
    match r.state with
    | .formed => .next (s.finish r)
    | .served => .next (s.landServed r)
    | .waiting =>
      match r.kind with
      | .load .. => .next (s.performLoad r)
      | .unit op a b bs => .next (s.serveUnit r op a b bs)
      | _ => .next s

end Sys2Proof.Machine
end

