-- ==== Sys2Proof/Machine/Placement.lean ====
section
/-!
DEFINITION. Placing tasks on contexts: windows and accumulator slots of a core, and the search for contexts that
take all tasks of a CONCURRENT launch or a gang together, which admission decides on (R35, R36, R47, R138, R376).
The search is exact: a set of a width stands on one quad of cores, so quads are filled one by one, each in every
way that no other way outdoes.
-/
namespace Sys2Proof.Machine

/-- Template widths: 0 one core, 1 a pair, 2 a quad. -/
def Template.cores (t : Template) : Nat := 2 ^ t.width

/-- The contexts of a set of a width from a context on. -/
def setFrom (c : CtxRef) (w : Nat) : List CtxRef := (List.range w).map fun i => ⟨Fin.ofNat 64 (c.core.val + i), c.ctx⟩

/-! ## A core's room -/

/-- Windows in use on a core: base and length, in units of 4 KiB. -/
def Core.usedWindows (k : Core) : List (Nat × Nat) :=
  k.ctxs.toList.filterMap fun x => if x.run = .free then none else some (x.spbase.toNat, x.spsize.toNat / 4096)

/-- Free 4 KiB-aligned windows of a size on a core, by their bases in units of 4 KiB. -/
def Core.windows (k : Core) (size : Nat) : List Nat :=
  (List.range 512).filter fun b =>
    decide (b + size / 4096 ≤ 512) && !k.usedWindows.any fun u => overlap b (size / 4096) u.1 u.2

/-- Accumulator slots that a core's bound contexts reserve (R138). -/
def Core.reservedSlots (k : Core) : Nat :=
  (k.ctxs.toList.map fun x => if x.run = .free then 0 else min x.handles 8).foldl (· + ·) 0

/-- What a task asks of each of its cores: their number, accumulator slots, and units of 4 KiB of window. -/
structure Need where
  cores : Nat
  slots : Nat
  pages : Nat
deriving DecidableEq, Repr

def Template.need (p : Template) : Need := ⟨p.cores, min p.h 8, p.spsize / 4096⟩

/-- The free runs of a core's scratchpad: base and length. -/
def Core.gaps (k : Core) : List (Nat × Nat) :=
  let r := (sortBy (fun (u v : Nat × Nat) => decide (u.1 < v.1)) k.usedWindows).foldl
    (fun (r : Nat × List (Nat × Nat)) u =>
      (max r.1 (u.1 + u.2), if r.1 < u.1 then r.2 ++ [(r.1, u.1 - r.1)] else r.2)) (0, [])
  if r.1 < 512 then r.2 ++ [(r.1, 512 - r.1)] else r.2

/-- Windows of the lengths given laid into gaps, if that is possible: their bases. -/
def layWindows (gaps : List (Nat × Nat)) : List Nat → Option (List Nat)
  | [] => some []
  | n :: ns => (List.range gaps.length).findSome? fun i =>
    match gaps[i]? with
    | some g => if n ≤ g.2 then (layWindows (gaps.set i (g.1 + n, g.2 - n)) ns).map (g.1 :: ·) else none
    | none => none

/-- The windows of tasks that a core takes together, if it does. -/
def Core.takes (k : Core) (ns : List Need) : Option (List Nat) :=
  if k.reservedSlots + (ns.map Need.slots).sum ≤ 8 then layWindows k.gaps (ns.map Need.pages) else none

/-! ## Filling cores -/

/-- A context taken, by a task of one of the needs, with its window. -/
structure Spot where
  c    : CtxRef
  need : Need
  base : Nat
deriving DecidableEq, Repr

/-- What is wanted: contexts still to find for each need. -/
abbrev Wants := List (Need × Nat)

/-- Contexts taken for a need, no more than are wanted. -/
def tally (xs : List Spot) (w : Need × Nat) : Nat := min w.2 (xs.countP fun x => x.need == w.1)

/-- One way outdoes another: it takes as many contexts for every need. -/
def outdoes (ws : Wants) (xs ys : List Spot) : Bool := ws.all fun w => decide (tally ys w ≤ tally xs w)

/-- The ways that no other outdoes. -/
def bestWays (ws : Wants) (ways : List (List Spot)) : List (List Spot) :=
  ways.foldl (fun kept x =>
    if kept.any fun y => outdoes ws y x then kept else (kept.filter fun y => !outdoes ws x y) ++ [x]) []

/-- The needChoices of at most `n` needs among some, each at most so often. -/
def needChoices : Wants → Nat → List (List Need)
  | [], _ => [[]]
  | w :: ws, n => (List.range (min w.2 n + 1)).flatMap fun c => (needChoices ws (n - c)).map (List.replicate c w.1 ++ ·)

/-- The ways to fill a block of 2 ^ `level` cores, on which the contexts in `used` are taken already: first by tasks
as wide as the block, then its halves. -/
def State.fillBlock (s : State) (open_ : CtxRef → Bool) (ws : Wants) :
    Nat → Nat → List (Fin 8 × Need) → List (List Spot)
  | level, core, used =>
    let w := 2 ^ level
    let cores : List (Fin 64) := (List.range w).map fun i => Fin.ofNat 64 (core + i)
    let ids := (List.finRange 8).filter fun i => cores.all (fun c => open_ ⟨c, i⟩) && !used.any fun u => u.1 == i
    let here := (ws.filter fun x => x.1.cores == w).map fun x => (x.1, x.2 / w)
    let ways := (needChoices here ids.length).map fun ks => used ++ ids.zip ks
    bestWays ws (match level with
      | 0 => ways.filterMap fun us =>
        ((s.core (Fin.ofNat 64 core)).takes (us.map (·.2))).map fun bs =>
          (us.zip bs).map fun u => ⟨⟨Fin.ofNat 64 core, u.1.1⟩, u.1.2, u.2⟩
      | l + 1 => ways.flatMap fun us =>
        let xs := s.fillBlock open_ ws l core us
        let ys := s.fillBlock open_ ws l (core + 2 ^ l) us
        xs.flatMap fun x => ys.map fun y => x ++ y)

/-- The quads filled one after another, until everything wanted is found. -/
def State.fillQuads (s : State) (open_ : CtxRef → Bool) (ws : Wants) : Option (List Spot) :=
  let done (xs : List Spot) : Bool := ws.all fun w => tally xs w == w.2
  let ways := (List.range 16).foldl (fun (ways : List (List Spot)) q =>
    if ways.any done then ways
    else bestWays ws (ways.flatMap fun x =>
      (s.fillBlock open_ (ws.map fun w => (w.1, w.2 - tally x w)) 2 (4 * q) []).map (x ++ ·))) [[]]
  ways.find? done

/-- The same for contexts that are named: each is open and named once, and every core takes its tasks. -/
def State.fillNamed (s : State) (open_ : CtxRef → Bool) (xs : List (CtxRef × Need)) : Option (List Spot) :=
  let cs := xs.map (·.1)
  if cs.any (fun c => !open_ c) ∨ cs.eraseDups.length ≠ cs.length then none
  else
    ((List.finRange 64).mapM fun k =>
      let mine := xs.filter fun x => x.1.core == k
      ((s.core k).takes (mine.map (·.2))).map fun bs => (mine.zip bs).map fun x => Spot.mk x.1.1 x.1.2 x.2).map
        List.flatten

end Sys2Proof.Machine
end

