-- ==== Sys2Proof/Machine/Tasks.lean ====
section
/-!
DEFINITION. Tasks and the dispatcher: task records, ready queues, binding, the choice of victims, and
retirement, shared by the dispatch events: R39, R40, R43, R46, R131, R138, R374 to R384 and R396.
-/
namespace Sys2Proof.Machine

/-! ## Tasks (R39) -/

/-- A launch replaced, or changed. -/
def State.setLaunch (s : State) (n : Fin 256) (l : Launch) : State :=
  { s with launches := insertNat n.val l s.launches }
def State.modLaunch (s : State) (n : Fin 256) (f : Launch → Launch) : State :=
  match s.launch? n with
  | some l => s.setLaunch n (f l)
  | none => s

/-- A task of a launch. -/
def Launch.task? (l : Launch) (num : Nat) : Option Task := l.tasks.find? fun t => t.num == num
def State.task? (s : State) (n : Fin 256) (num : Nat) : Option Task := (s.launch? n).bind fun l => l.task? num

/-- A template by its identifier. -/
def Launch.template? (l : Launch) (id : BitVec 8) : Option Template := l.templates.find? fun t => t.id == id

/-- State codes (Table 5). -/
def TState.code : TState → Nat
  | .pending => 0
  | .ready => 1
  | .running => 2
  | .parked => 3
  | .saved => 4
  | .done => 8
  | .cancelled => 9
  | .faulted => 10
  | .orphan => 11

/-- A retired state (R40). -/
def TState.retired (t : TState) : Bool := decide (8 ≤ t.code)

/-- A task record's 64 bytes (Table 4). DESIGN CHOICE: w12 holds 0 while a task that has not
retired is bound to no context, and after retirement the last one (log 42). -/
def Launch.recordBytes (l : Launch) (t : Task) : List Byte :=
  let dep (i : Nat) : Nat := match t.deps[i]? with | some d => d.1 * 2 ^ 28 + d.2 | none => 0
  [2 ^ 24 + t.state.code * 2 ^ 20 + t.cls.val * 2 ^ 18 + t.tmpl.toNat * 2 ^ 8 + l.num.val, t.counter.toNat,
    t.arg.toNat % 2 ^ 32, t.arg.toNat / 2 ^ 32, dep 0, dep 1, dep 2, dep 3, t.overflow.toNat % 2 ^ 32,
    t.overflow.toNat / 2 ^ 32, t.tile.toNat % 2 ^ 32, t.tile.toNat / 2 ^ 32,
    ((t.ctx.map CtxRef.num).getD 0), t.progress.toNat, t.retire.toNat, t.num].flatMap (leBytes 4)

/-- Where a record lies (log 12). -/
def Launch.recordAt (l : Launch) (num : Nat) : Nat := l.area.toNat + 64 * num

/-- A task replaced, with its record once the launch has a record area. Written whole, the record holds no uncorrectable
error any more (R146; log 40). -/
def State.putTask (s : State) (n : Fin 256) (t : Task) : State :=
  match s.launch? n with
  | none => s
  | some l =>
    let l := { l with tasks := l.tasks.map fun x => if x.num = t.num then t else x }
    let s := (s.setLaunch n l).mend .task (n.val * 2 ^ 28 + t.num) 1
    if l.area = 0#48 then s else s.resWrite (l.recordAt t.num) (l.recordBytes t)
def State.modTask (s : State) (n : Fin 256) (num : Nat) (f : Task → Task) : State :=
  match s.task? n num with
  | some t => s.putTask n (f t)
  | none => s

/-- The task that a context is bound to. -/
def State.taskOf (s : State) (c : CtxRef) : Option (Fin 256 × Task) :=
  match (s.ctx c).task with
  | none => none
  | some r => (s.task? r.launch r.task.toNat).map fun t => (r.launch, t)

/-! ## Ready queues (R375) -/

/-- The queue of a class in a camp. -/
def queueOf (camp : Nat) (cls : Fin 4) : Fin 32 := Fin.ofNat 32 (camp % 8 * 4 + cls.val)

/-- A task enters a queue's tail, or its head. -/
def State.enqueue (s : State) (n : Fin 256) (t : Task) (camp : Nat) (head : Bool) : State :=
  let q := queueOf camp t.cls
  let x : Queued := ⟨n, t.num, 0⟩
  { s with ready := s.ready.set q (if head then x :: s.ready[q] else s.ready[q] ++ [x]) }

/-- A task leaves its queue. -/
def State.dequeue (s : State) (n : Fin 256) (num : Nat) : State :=
  { s with ready := s.ready.map fun q => q.filter fun x => !(x.launch == n && x.task == num) }

/-- The camp that a task joins when nothing else names one. -/
def Launch.campOf (l : Launch) (num : Nat) (from_ : Option (Fin 8)) : Nat :=
  match (if l.placed then l.places[num]? else none), from_ with
  | some p, _ => p / 64
  | none, some c => c.val
  | none, none => num % 8

/-- A task becomes READY, and enters its queue (R375). -/
def State.readyTask (s : State) (n : Fin 256) (num : Nat) (from_ : Option (Fin 8)) : State :=
  match s.launch? n, s.task? n num with
  | some l, some t =>
    let t := { t with state := .ready }
    (s.putTask n t).enqueue n t (l.campOf num from_) false
  | _, _ => s

/-! ## Binding (R43, R131, R138, R376) -/

/-- The leader of the fused set of a width that a context stands in. -/
def leaderFor (c : CtxRef) (w : Nat) : CtxRef := ⟨Fin.ofNat 64 (c.core.val / w * w), c.ctx⟩

/-- Whether a task can bind on the set of its template's width that a context stands in (R376). -/
def State.canBind (s : State) (c : CtxRef) (n : Fin 256) (l : Launch) (t : Task) : Bool :=
  match l.template? t.tmpl with
  | none => false
  | some p =>
    let c := leaderFor c p.cores
    let set := setFrom c p.cores
    (!l.placed || l.places[t.num]? == some (CtxRef.num c)) &&
      set.all fun m =>
        (s.ctx m).run == .free && decide ((s.core m.core).reservedSlots + min p.h 8 ≤ 8) &&
          !((s.core m.core).windows p.spsize).isEmpty &&
          s.reserved.all fun r =>
            r.1 != m || (r.2.1 == n && (r.2.2.isNone || r.2.2 == some t.num))

/-- A probe of a task's declared tile (R378). -/
def State.probe (s : State) (camp : Fin 8) (t : Task) : Bool :=
  if t.tile = 0#48 then true
  else
    match tlbFind s.campTlb[camp] t.tile.toNat with
    | none => false
    | some e =>
      let pa := e.phys t.tile.toNat
      ((lookupNat s.l2 (l2Key pa)).getD []).contains (pa / 256) ||
        (s.taggedLines (l2Key pa)).any fun v => v.2 == pa / 256

/-- A task that may be offered to a context: its launch has begun its dispatch, and is not CONCURRENT, whose tasks are
bound together (R34, R37). -/
def State.mayOffer (s : State) (x : Queued) : Bool :=
  match s.launch? x.launch with
  | some l => l.state == .running && l.pclass != 2
  | none => false

/-- A queue's tasks in the order they are offered (R378). -/
def State.offered (s : State) (q : Fin 32) : List Queued :=
  let probed := (s.ready[q].take 16).filter s.mayOffer
  let xs := s.ready[q].filter s.mayOffer
  let first := probed.filter fun x => decide (s.bypass.toNat ≤ x.bypass)
  let hits := probed.filter fun x => !first.contains x && match s.task? x.launch x.task with
    | some t => s.probe (Fin.ofNat 8 (q.val / 4)) t
    | none => false
  first ++ hits ++ xs.filter fun x => !first.contains x && !hits.contains x

/-- The first task of a queue that can bind with a context. -/
def State.pickFrom (s : State) (c : CtxRef) (q : Fin 32) : Option Queued :=
  if s.ready[q].isEmpty then none
  else (s.offered q).find? fun x =>
    match s.launch? x.launch, s.task? x.launch x.task with
    | some l, some t => s.canBind c x.launch l t
    | _, _ => false

/-- The task that a free context takes, as its leader or within its set (R376): by class, then by camp from its own. -/
def State.pick (s : State) (c : CtxRef) : Option (Fin 32 × Queued) :=
  if (s.ctx c).run != .free || s.ready.all (·.isEmpty) then none
  else
    ((List.range 32).map fun i => queueOf ((campOf c.core).val + i % 8) (Fin.ofNat 4 (i / 8))).findSome? fun q =>
      (s.pickFrom c q).map fun x => (q, x)

/-- A task is taken: every older task still queued is bypassed once more (R378). -/
def State.take (s : State) (q : Fin 32) (x : Queued) : State :=
  let xs := s.ready[q]
  let older := xs.takeWhile (· != x)
  let rest := (xs.dropWhile (· != x)).drop 1
  { s with ready := s.ready.set q (older.map (fun y => { y with bypass := min (y.bypass + 1) 255 }) ++ rest) }

/-- A task is taken from whichever queue holds it. -/
def State.takeOut (s : State) (n : Fin 256) (num : Nat) : State :=
  (List.finRange 32).foldl (fun s q =>
    match s.ready[q].find? fun x => x.launch == n && x.task == num with
    | some x => s.take q x
    | none => s) s

/-- The member of a gang to which a task belongs. -/
def Launch.member (l : Launch) (t : Task) : Nat × Nat := if l.members = [] then (0, 0) else (t.member, t.memTask)

/-- A context as binding leaves it (R43). -/
def boundContext (l : Launch) (p : Template) (t : Task) (i base : Nat) : Context :=
  let (m, mt) := l.member t
  let z := Context.reset
  { z with
    s := ((((z.s.set 0 (t.arg.setWidth 64)).set 1 (BitVec.ofNat 64 t.num)).set 2 (BitVec.ofNat 64 l.count)).set 3
      (BitVec.ofNat 64 m)).set 4 (BitVec.ofNat 64 mt)
    a := (z.a.set 14 (BitVec.ofNat 32 p.spsize)).set 15 (BitVec.ofNat 32 p.spsize)
    splim := BitVec.ofNat 22 (p.spsize - p.stack)
    control := p.control
    cls := t.cls
    fusew := Fin.ofNat 3 p.width
    leader := i == 0
    spbase := BitVec.ofNat 9 base
    spsize := BitVec.ofNat 22 p.spsize
    task := some ⟨l.num, BitVec.ofNat 28 t.num, p.h⟩
    pc := BitVec.ofNat 43 (l.code / 32 + p.entry)
    run := .ready }

/-- A window for a task on a core, by an open choice among the free ones (log 5). -/
def State.chooseWindow (s : State) (c : Fin 64) (size : Nat) : Nat × State :=
  let ws := (s.core c).windows size
  let (n, s) := s.choose (max ws.length 1)
  (ws.getD n 0, s)

/-- Windows for the contexts of a set. -/
def State.chooseWindows (s : State) (size : Nat) : List CtxRef → List Nat × State
  | [] => ([], s)
  | m :: ms =>
    let (b, s) := s.chooseWindow m.core size
    let (bs, s) := s.chooseWindows size ms
    (b :: bs, s)

/-- The watchdog's timer starts at a launch's first dispatch (R385). -/
def State.startTimer (s : State) (n : Fin 256) : State :=
  match s.launch? n with
  | none => s
  | some l =>
    if l.started then s
    else
      let l := { l with started := true, timer := if l.watchdog = 0#32 then none else some s.gptp }
      let s := s.setLaunch n l
      if l.watchdog = 0#32 then s else s.due (.watchdogExpiry n)

/-- A task is bound with the windows given (R43), which writes every register of its contexts. A task whose counter is above 0, as one of a CONCURRENT launch may
be, is PARKED until it is decremented (log 26). -/
def State.bindOn (s : State) (c : CtxRef) (bases : List Nat) (n : Fin 256) (l : Launch) (p : Template) (t : Task) :
    State :=
  let s := (s.startTimer n).dequeue n t.num
  let wait := decide (0 < t.counter.toInt)
  let set := setFrom c p.cores
  let s := (set.zip bases).zipIdx.foldl (fun s m =>
    let x := boundContext l p t m.2 m.1.2
    (s.setCtx m.1.1 (if wait then { x with run := .parked } else x)).mend (.regs m.1.1) 0 256) s
  let s := { s with reserved := s.reserved.filter fun r =>
    !(r.2.1 == n && (r.2.2 == some t.num || r.2.2.isNone && set.contains r.1)) }
  s.putTask n { t with state := if wait then .parked else .running, ctx := some c }

/-- A task is bound, with windows that the dispatcher chooses. -/
def State.bind (s : State) (c : CtxRef) (n : Fin 256) (l : Launch) (p : Template) (t : Task) : State :=
  let (bs, s) := s.chooseWindows p.spsize (setFrom c p.cores)
  s.bindOn c bs n l p t

/-! ## Save images (R383, R384) -/

/-- An image's size. -/
def Template.imageSize (p : Template) : Nat := 0x12000 + p.spsize + 65536 * min p.h 8

/-- The spacing of a launch's save slots: its template's image size. -/
def Launch.saveSlot (l : Launch) : Nat := ((l.templates.find? fun p => l.members.isEmpty && some p.id == l.tasks.head?.map
  (·.tmpl)).map Template.imageSize).getD 0

/-- The images of a task: one for each core of its set. -/
def Launch.images (l : Launch) (t : Task) : Nat := ((l.template? t.tmpl).map Template.cores).getD 0

/-- Where a task's first image lies (R383). -/
def Launch.imageAt (l : Launch) (t : Task) : Nat := l.saveBase + t.slot.getD 0 * l.saveSlot

/-- A context is the victim chosen for a blocked task. -/
def State.isVictim (s : State) (c : CtxRef) : Bool := s.reserved.any fun r => r.1 == c && r.2.2.isSome

/-- Save slots in use or promised, by their index: those of SAVED tasks, and of tasks chosen as victims. -/
def State.usedSlots (s : State) (l : Launch) : List Nat :=
  l.tasks.flatMap fun t =>
    if t.state = .saved ∨ !t.state.retired ∧ t.ctx.any s.isVictim then
      (t.slot.toList).flatMap fun i => (List.range (l.images t)).map (i + ·)
    else []

/-- A run of free save slots for a task's images (R381, R383). -/
def State.freeSlot (s : State) (l : Launch) (t : Task) : Option Nat :=
  match l.template? t.tmpl with
  | none => none
  | some p =>
    if l.saveSlot < p.imageSize then none
    else (List.range l.saveImages).find? fun i =>
      decide (i + p.cores ≤ l.saveImages) && (List.range p.cores).all fun j => !(s.usedSlots l).contains (i + j)

/-! ## The dispatcher's next acts -/

/-- The state in which a set of contexts is free, for the choice of a victim. -/
def State.withFree (s : State) (set : List CtxRef) : State :=
  set.foldl (fun s m => s.modCtx m fun x => { x with run := .free }) s

/-- A context that may be pre-empted for a task: freed, its set lets the task bind on a core of it (R381). -/
def State.victimFor (s : State) (n : Fin 256) (l : Launch) (t : Task) (c : CtxRef) : Bool :=
  let x := s.ctx c
  let set := s.fusedSet c
  x.leader && x.run != .free && !(set.any fun m => (s.ctx m).decoup) &&
    (s.reserved.all fun r => !set.contains r.1) &&
    match s.taskOf c with
    | none => false
    | some (n', t') =>
      match s.launch? n' with
      | none => false
      | some l' =>
        l'.pclass == 0 && l'.members.isEmpty && decide (t.cls < t'.cls) && (s.freeSlot l' t').isSome &&
          set.any fun m => (s.withFree set).canBind m n l t

/-- The rank of a victim within its camp: PARKED first, the highest class, the lowest context number. -/
def State.victimRank (s : State) (c : CtxRef) : Nat :=
  let parked := if (s.ctx c).run = .parked then 0 else 1
  let cls := match s.taskOf c with | some (_, t) => t.cls.val | none => 0
  (parked * 4 + (3 - cls)) * 512 + CtxRef.num c

/-- The victim for a blocked task: the camps from its own upward. -/
def State.victim (s : State) (camp : Nat) (n : Fin 256) (l : Launch) (t : Task) : Option CtxRef :=
  (List.range 8).findSome? fun i =>
    let g := (camp + i) % 8
    let cs := (allCtxs.filter fun c => (campOf c.core).val == g).filter (s.victimFor n l t)
    (sortBy (fun x y => decide (s.victimRank x < s.victimRank y)) cs).head?

/-- The first task of a queue, if no free context can take it and none is reserved for it, and its victim (R381). -/
def State.blockedAt (s : State) (q : Fin 32) : Option (CtxRef × Queued) :=
  match (s.offered q).head? with
  | none => none
  | some x =>
    match s.launch? x.launch, s.task? x.launch x.task with
    | some l, some t =>
      if s.reserved.any fun r => r.2.1 == x.launch && r.2.2 == some x.task then none
      else (s.victim (q.val / 4) x.launch l t).map fun c => (c, x)
    | _, _ => none

/-- A victim is chosen for a task: its set is reserved for it, and the victim has its place in the save area. -/
def State.chooseVictim (s : State) (c : CtxRef) (x : Queued) : State :=
  let s := match s.taskOf c with
    | some (n, t) => (s.launch? n).elim s fun l => s.modTask n t.num fun t => { t with slot := s.freeSlot l t }
    | none => s
  { s with reserved := s.reserved ++ (s.fusedSet c).map fun m => (m, x.launch, some x.task) }.due (.preempt c)

/-- A victim for every blocked task, queue by queue. -/
def State.chooseVictims (s : State) : State :=
  ((List.range 24).map fun i => queueOf (i % 8) (Fin.ofNat 4 (i / 8))).foldl (fun s q =>
    match s.blockedAt q with
    | some (c, x) => s.chooseVictim c x
    | none => s) s

/-- The dispatcher looks for its next act: a free context takes a queued task, which of several being an open
choice (log 5); or a victim is chosen for each blocked task. -/
def State.dispatch (s : State) : State :=
  if s.ready.all (·.isEmpty) then s
  else
    match allCtxs.filter fun c => (s.pick c).isSome with
    | [] => s.chooseVictims
    | cs =>
      let (k, s) := s.choose cs.length
      match cs[k]? with
      | none => s
      | some c =>
        match (s.pick c).bind fun x => s.task? x.2.launch x.2.task with
        | some t => s.due (if t.state = .saved then .restoreTask c else .bindTask c)
        | none => s

/-! ## Admission (R36) -/

/-- A context that a launch may have: free, and reserved for no other (R36). -/
def State.openFor (s : State) (n : Fin 256) (c : CtxRef) : Bool :=
  (s.ctx c).run == .free && s.reserved.all fun r => r.1 != c || r.2.1 == n

/-- A task's need. -/
def Launch.needOf (l : Launch) (t : Task) : Option Need := (l.template? t.tmpl).map Template.need

/-- Where a task of a plan goes: its leader's context, and its windows in the set's order. -/
structure Berth where
  task : Task
  c    : CtxRef
  at_  : List Nat
deriving DecidableEq, Repr

/-- Tasks take leaders of their need's, in order. -/
def deal : List (Task × Need) → List Spot → Option (List (Task × Need × CtxRef))
  | [], _ => some []
  | (t, k) :: ts, xs =>
    match xs.find? fun x => x.need == k with
    | none => none
    | some x => (deal ts (xs.erase x)).map ((t, k, x.c) :: ·)

/-- Contexts and windows for every task of a launch together, if there are any (R36; log 25). -/
def State.plan (s : State) (n : Fin 256) (l : Launch) : Option (List Berth) :=
  let ts := l.tasks.filterMap fun t => (l.needOf t).map fun k => (t, k)
  let seats (spots : List Spot) (ls : List (Task × Need × CtxRef)) : List Berth :=
    ls.map fun x => ⟨x.1, x.2.2, (setFrom x.2.2 x.2.1.cores).map fun m =>
      ((spots.find? fun y => y.c == m).map Spot.base).getD 0⟩
  if ts.length ≠ l.tasks.length then none
  else if l.placed then
    let ls := ts.map fun x => (x.1, x.2, ctxOfNum (l.places.getD x.1.num 0))
    (s.fillNamed (s.openFor n) (ls.flatMap fun x => (setFrom x.2.2 x.2.1.cores).map fun m => (m, x.2.1))).map fun spots =>
      seats spots ls
  else
    let ks := (ts.map (·.2)).eraseDups
    let ws := ks.map fun k => (k, k.cores * ts.countP fun x => x.2 == k)
    (s.fillQuads (s.openFor n) ws).bind fun spots =>
      (deal ts (spots.filter fun x => x.c.core.val % x.need.cores == 0)).map fun ls => seats spots ls

/-- Whether every task of a launch has a place. -/
def State.plans (s : State) (n : Fin 256) (l : Launch) : Bool := (s.plan n l).isSome

/-- A plan's contexts. -/
def planCtxs (xs : List Berth) : List CtxRef := xs.flatMap fun x => setFrom x.c x.at_.length

/-- The device with nothing bound (R35). -/
def State.idle (s : State) : State := { s with cores := Vector.replicate 64 Core.reset, reserved := [] }

/-- The waiting launches in the order of the admission queue. -/
def State.admissionQueue (s : State) : List Launch :=
  sortBy (fun (x y : Launch) => decide (x.cls < y.cls) || x.cls == y.cls && decide (x.order < y.order))
    ((s.launches.map (·.2)).filter fun l => l.state == .queued && l.pclass == 2)

/-- Contexts are reserved for the waiting launches as they free, in the order of the queue. DESIGN CHOICE: those of
the plan that the launch would have if all but the contexts reserved for others were free (log 25). -/
def State.reserveAll (s : State) : State :=
  s.admissionQueue.foldl (fun s l =>
    let cs := (({ s.idle with reserved := s.reserved }).plan l.num l).elim [] planCtxs
    let new := cs.filter fun c => (s.ctx c).run == .free && !s.reserved.any fun r => r.1 == c
    { s with reserved := s.reserved ++ new.map fun c => (c, l.num, none) }) s

/-! ## Guy lines (R20, R50) -/

/-- A line as it stands. -/
def State.lineAt (s : State) (r : LineRef) : Line := (s.lines.find? fun x => x.ref == r).getD ⟨r, 0, none, []⟩

/-- A line replaced. -/
def State.putLine (s : State) (x : Line) : State :=
  { s with lines := (s.lines.filter fun y => y.ref != x.ref) ++ [x] }

/-- The arrivals of a group at a line. -/
def Line.at_ (x : Line) (n : Fin 256) (g : BitVec 8) : List Arrival := x.arrivals.filter fun a => a.launch == n && a.group == g

/-- The episode's group, with its members. -/
def State.episode (s : State) (x : Line) : Option (Fin 256 × BitVec 8 × Group) :=
  match x.episode with
  | none => none
  | some (n, g) => ((s.launch? n).bind fun l => l.groups[g.toNat]?).map fun y => (n, g, y)

/-- Whether every member of a line's episode has asserted. -/
def State.episodeFull (s : State) (x : Line) : Bool :=
  match s.episode x with
  | some (n, g, y) => y.members.all fun m => (x.at_ n g).any fun a => CtxRef.num a.c == m
  | none => false

/-- The group with the earliest waiting arrival takes a free line; the lower number among equals. -/
def Line.start (x : Line) : Line :=
  match x.episode with
  | some _ => x
  | none =>
    let first := sortBy (fun (a b : Arrival) =>
      decide (a.cycle < b.cycle) || a.cycle == b.cycle && decide (a.group < b.group)) x.arrivals
    { x with episode := first.head?.map fun a => (a.launch, a.group) }

/-- A line after an arrival or a release: an episode may start, and may be complete. -/
def State.driveLine (s : State) (x : Line) : State :=
  let x := x.start
  let s := s.putLine x
  if s.episodeFull x then s.due (.syncEpisodeComplete x.ref) else s

/-- A context whose task is gone leaves the lines it waits at: a line whose episode nobody asserts any more
is free, and the next group takes it (R50; log 39). -/
def State.leaveLines (s : State) (c : CtxRef) : State :=
  s.lines.foldl (fun (s : State) x =>
    let as := x.arrivals.filter fun a => a.c != c
    if as.length = x.arrivals.length then s
    else
      let held := x.episode.any fun e => as.any fun a => (a.launch, a.group) == e
      s.driveLine { x with
        arrivals := as, episode := if held then x.episode else none
        free := if held then x.free else max x.free s.cycle }) s

/-! ## Retirement (R46, R387, R396) -/

/-- Every slot of a context's handles returns (R139). -/
def State.releaseAll (s : State) (c : CtxRef) : State :=
  (List.finRange 16).foldl (fun s h => s.releaseAcc c h) s

/-- A context is freed: its requests go on without it, its entries, whose writes have performed, and its walks end, and
the core loses its streams. -/
def State.freeCtx (s : State) (c : CtxRef) : State :=
  let s := ((s.releaseAll c).leaveLines c).dropEntries c fun _ => true
  let s := { s with
    reqs := s.reqs.map fun (r : Req) => if r.c = c then { r with orphaned := true } else r
    walks := s.walks.filter fun (w : Walk) => w.who != WalkFor.packet c && w.who != WalkFor.engine (.address c) }
  let s := s.setCtx c Context.reset
  s.modCore c.core fun k =>
    { k with pstreams := k.pstreams.filter fun p => p.ctx != c.ctx
             current := if k.current = some c.ctx then none else k.current
             lastEnd := if k.current = some c.ctx then c.ctx else k.lastEnd }

/-- Counts of a launch's tasks in the retire states: DONE, CANCELLED, FAULTED, ORPHAN (log 17). -/
def Launch.countBytes (l : Launch) : List Byte :=
  [TState.done, .cancelled, .faulted, .orphan].flatMap fun st => leBytes 4 (l.tasks.filter fun t => t.state == st).length

/-- A launch that has retired is no writer or reader any more, and one torn down poisons what it writes
(R37, R38). DESIGN CHOICE: the handles become POISONED as the teardown ends with its last task (log 42). -/
def State.settleHandles (s : State) (l : Launch) : State :=
  { s with handles := s.handles.map fun h =>
      let x := h.2
      let x := { x with writer := if x.writer = some l.num then none else x.writer
                        readers := x.readers.filter (· != l.num) }
      (h.1, if l.teardown.isSome ∧ l.handles.any (fun y => y.1 == h.1 && y.2.2) then { x with poisoned := true } else x) }

/-- A launch has retired: later launches and deferred messages wait for it no more (R37, R164). -/
def Deferred.without (n : Fin 256) : Deferred → Deferred
  | .write m h ws => .write m h (ws.filter (· != n))
  | .read m h ws => .read m h (ws.filter (· != n))
  | .writing m h us => .writing m h us
  | .reading m h got us => .reading m h got us
  | .invalidate m b l => .invalidate m b l
  | .fence m r e l => .fence m r e l
def State.endWaits (s : State) (n : Fin 256) : State :=
  { s with
    launches := s.launches.map fun (l : Nat × Launch) => (l.1, { l.2 with waits := l.2.waits.filter (· != n) })
    deferred := s.deferred.map (Deferred.without n) }

/-- A launch number that may be another's from now on (R412): what is still under way for tasks of the launch that is
over knows it no more. Its decrements, and the TDECs of its tasks, would find only retired tasks. -/
def State.forgetLaunch (s : State) (n : Fin 256) : State :=
  let mine (t : Option TaskRef) : Bool := t.any fun t => t.launch == n
  let gone (t : Option TaskRef) : Option TaskRef := if mine t then none else t
  { s with
    reqs := (s.reqs.filter fun r => !(mine r.task && r.kind.isTdec)).map fun (r : Req) => { r with task := gone r.task }
    decs := s.decs.filter fun d => d.launch != n
    walks := s.walks.map fun (w : Walk) => { w with launch := w.launch.filter (· != n) }
    cores := s.cores.map fun k => { k with copyq := k.copyq.map fun q =>
      { q with elems := q.elems.map fun e => { e with task := gone e.task } } }
    resid := { s.resid with
      waits := s.resid.waits.map fun (w : WaitBatch) => { w with launch := w.launch.filter (· != n) }
      fills := s.resid.fills.map fun (f : Fill) => { f with waiters := f.waiters.filter fun w => w.1 != n } } }

/-- Every task of a launch has retired: COMPLETE, or TEARDOWN with the task-record area (R388, R415). -/
def State.launchOver (s : State) (n : Fin 256) : State :=
  match s.launch? n with
  | none => s
  | some l =>
    if l.state = .over ∨ l.state = .queued ∨ !(l.tasks.all fun t => t.state.retired) then s
    else
      let s := if l.teardown.isSome then s.launchEvent n 0x04 (l.countBytes ++ leBytes 8 l.area.toNat)
        else s.launchEvent n 0x03 l.countBytes
      let s := ((s.settleHandles l).endWaits n).forgetLaunch n
      { s with reserved := s.reserved.filter fun r => r.2.1 != n }.modLaunch n fun l =>
        { l with state := .over, timer := none, pipes := [], saveImages := 0 }

/-- The dispatcher goes on after contexts have freed. -/
def State.afterFree (s : State) : State := s.reserveAll.dispatch

/-- The context of a set that a fault stopped. -/
def State.failedOf (s : State) (c : CtxRef) : CtxRef := ((s.fusedSet c).find? fun m => (s.ctx m).failed.isSome).getD c

/-- A task retires: its record, its references, and its contexts (R46, R312, R396). Only DONE decrements its
dependants. The progress word of a fused task is the FINFO of the core that a fault stopped; DESIGN CHOICE: at END and
at teardown it is the leader's (log 39). -/
def State.retireTask (s : State) (c : CtxRef) (st : TState) : State :=
  match s.taskOf c with
  | none => (s.fusedSet c).foldl (fun s m => s.freeCtx m) s
  | some (n, t) =>
    let x := s.ctx (s.failedOf c)
    let s := s.putTask n { t with state := st, retire := BitVec.ofNat 8 st.code, progress := x.finfo.setWidth 32 }
    let s := s.releaseRefs n t.num
    let s := if st = .done then t.deps.foldl (fun s d => s.sendDec n d.2 (BitVec.ofNat 32 d.1) (some (campOf c.core)) none) s
      else s
    let s := (s.fusedSet c).foldl (fun s m => s.freeCtx m) s
    ((s.dequeue n t.num).launchOver n).afterFree

/-- A task that is bound to no context is cancelled; a SAVED one's progress word takes its FINFO (R387, R392). -/
def State.cancelTask (s : State) (n : Fin 256) (num : Nat) : State :=
  let s := s.dequeue n num
  let s := s.modTask n num fun t =>
    { t with
      state := .cancelled, retire := 9#8, saved := []
      progress := match t.saved with
        | x :: _ => x.finfo.setWidth 32
        | [] => t.progress }
  s.releaseRefs n num

/-- Work of a set's contexts that is discarded as its task is stopped: elements that have not begun or are
suspended, entries, data slots and interrupts (R387, R396, R424). -/
def State.discardWork (s : State) (c : CtxRef) : State :=
  ((s.fusedSet c).foldl (fun s m =>
    let met := (s.ctx m).aqFault.map (·.1)
    ((s.discardElems m).dropEntries m fun e => !e.begun || met == some e.seq).modCtx m fun x =>
      { x with dq := Vector.replicate 32 none, uiQueue := [] }) s).dropEngineWalks

/-- Begun entries of a set's contexts that write: they complete before the contexts are freed. -/
def State.entriesBusy (s : State) (c : CtxRef) : Bool :=
  (s.fusedSet c).any fun m => (s.ctx m).aq.any fun e =>
    e.begun && e.kind != .gather && (s.ctx m).aqFault.map (·.1) != some e.seq

/-- A task stops in teardown (R387). -/
def State.stopTask (s : State) (c : CtxRef) : State := (s.discardWork c).retireTask c .cancelled

/-- A task that teardown stops while entries of it are still under way: its contexts issue nothing more and wait at no
line, and TEARDOWN_STOP follows the entries (R387). -/
def State.halt (s : State) (c : CtxRef) : State :=
  ((s.fusedSet c).foldl (fun s m => (s.leaveLines m).modCtx m fun x => { x with run := .draining .endTask }) (s.discardWork c)).due
    (.teardownStop c)

/-- A task reaches its stop: it retires, once the entries that have begun are complete. -/
def State.stopNow (s : State) (c : CtxRef) : State := if s.entriesBusy c then s.halt c else s.stopTask c

/-- A context stands where ABORT stops it besides: at a point of R60, or held by an interlock or VPOP (R387). -/
def Context.stopsAbort (x : Context) : Bool :=
  x.atPoint && !x.uiact && !x.decoup || match x.run with
    | .held (.g _) | .held .pop => true
    | _ => false

/-- Whether a context's launch is being torn down, and whether in ABORT mode. -/
def State.tornDown (s : State) (c : CtxRef) : Option Bool :=
  ((s.ctx c).task.bind fun t => s.launch? t.launch).bind (·.teardown)

/-- A context waits where RESET and ABORT both stop it: an END's wait counts while it is for its own elements. -/
def State.stopsAny (s : State) (c : CtxRef) : Bool :=
  match (s.ctx c).run with
  | .syncWait .. | .rejoinWait _ | .parked | .held .brk => true
  | .endWait => (s.core c.core).allElems.any fun e => e.2.owner == c && !e.2.silent
  | _ => false

/-- A context has been stopped, and waits for its entries alone. -/
def Context.halted (x : Context) : Bool := x.run == .draining .endTask

/-- A task of a launch in teardown stands where it stops at once (R387). -/
def State.stopsHere (s : State) (c : CtxRef) : Bool :=
  match s.tornDown c with
  | none => false
  | some abort => !(s.ctx c).halted && (s.fusedSet c).any fun m => s.stopsAny m || abort && (s.ctx m).stopsAbort

/-- A context has come to a wait: a task in teardown stops there. -/
def State.stopIfTorn (s : State) (c : CtxRef) : State := if s.stopsHere c then s.stopNow (s.leaderOf c) else s

end Sys2Proof.Machine
end

