-- ==== Sys2Proof/Machine/Kinds.lean ====
section
/-!
DEFINITION. The packet kinds and what ends them: YIELD, SYNC, DECOUPLE, REJOIN, END and BREAK, R44 to R46 and
R49 to R54 of spec/03_execution_model.md, R207, R398. A kind runs after its packet's operations and STALL
cycles, with the context's pc at the next packet.
-/
namespace Sys2Proof.Machine

/-! ## Drains and segments (R44, R45) -/

/-- The set that issues with a context passes to another state. -/
def State.setRun (s : State) (c : CtxRef) (r : Run) : State :=
  (s.issueSet c).foldl (fun s m => s.modCtx m fun x => { x with run := r }) s

/-- A core issues nothing for a number of cycles more. -/
def State.spend (s : State) (core : Fin 64) (n : Nat) : State :=
  s.modCore core fun k => { k with nextAt := k.nextAt + n }

/-- The set that issues with a context drains, every core for the same cycles (R44, R261). -/
def State.drainSet (s : State) (c : CtxRef) : State :=
  let set := s.issueSet c
  let n := set.foldl (fun n m => max n ((s.ctx m).lastLanding - (s.ctx m).clock)) 0
  set.foldl (fun s m => ((s.tick m n).modCtx m fun x => { x with streams := [] }).spend m.core n) s

/-- The segment ends: the cores make an in-core choice (R45). -/
def State.endSegment (s : State) (c : CtxRef) : State :=
  (s.fusedSet c).foldl (fun s m => s.modCore m.core fun k =>
    if k.current = some m.ctx then { k with current := none, lastEnd := m.ctx } else k) s

/-! ## YIELD -/

/-- YIELD: the context drains. -/
def execYieldK (s : State) : Out :=
  .next ((s.setRun s.focus.c (.draining .yield)).due (.yieldComplete s.focus.c))

/-- A class change takes effect at the segment's end (R380). -/
def State.takeClass (s : State) (c : CtxRef) : State :=
  match s.taskOf c with
  | some (_, t) => (s.fusedSet c).foldl (fun s m => s.modCtx m fun x => { x with cls := t.cls }) s
  | none => s

/-- The counter takes the arm value, and the context parks or stays ready. -/
def State.armTask (s : State) (c : CtxRef) : State :=
  let arm := (s.ctx c).arm
  let clear (s : State) : State := (s.fusedSet c).foldl (fun s m => s.modCtx m fun x => { x with arm := 0#32, atPoint := true }) s
  match s.taskOf c with
  | none => clear (s.setRun c .ready)
  | some (n, t) =>
    let v := t.counter + arm
    let park := decide (0 < v.toInt)
    clear ((s.putTask n { t with counter := v, state := if park then .parked else .running }).setRun c
      (if park then .parked else .ready))

/-- YIELD_COMPLETE (R44); in teardown the task stops here, once the entries that have begun are complete (R387). -/
def execYieldComplete (c : CtxRef) (s : State) : Out :=
  if (s.ctx c).run ≠ .draining .yield then .next s
  else
    let s := s.drainSet c
    if (s.tornDown c).isSome then
      .next (s.stopNow c)
    else .next (((s.armTask c).takeClass c).endSegment c)

/-! ## SYNC and guy lines (R49, R50) -/

/-- The group that a context's SYNC names, if it is a member. -/
def State.groupOf (s : State) (c : CtxRef) : Option (Fin 256 × BitVec 8 × Group) :=
  let x := s.ctx c
  match x.task.bind fun t => (s.launch? t.launch).map fun l => (t.launch, l) with
  | none => none
  | some (n, l) =>
    match l.groups[x.syncsel.toNat]? with
    | none => none
    | some g => if g.members.contains (CtxRef.num c) then some (n, x.syncsel, g) else none

/-- SYNC: a member's context drains and is about to arrive; another sets SYNCNM. -/
def execSyncK (s : State) : Out :=
  let c := s.focus.c
  match s.groupOf c with
  | none => .next ((s.issueSet c).foldl (fun s m => s.modCtx m fun x => { x with sticky := x.sticky ||| syncnmBit }) s)
  | some (_, g, _) => .next ((((s.drainSet c).setRun c (.syncWait g false)).due (.syncArrive c)).stopIfTorn c)

/-- SYNC_ARRIVE: the context asserts at its group's line, or waits for it unasserted. -/
def execSyncArrive (c : CtxRef) (s : State) : Out :=
  match (s.ctx c).run, s.groupOf c with
  | .syncWait g false, some (n, _, y) =>
    let s := s.setRun c (.syncWait g true)
    let x := s.lineAt y.line
    .next (s.driveLine { x with arrivals := x.arrivals ++ [⟨n, g, c, (s.core c.core).nextAt⟩] })
  | _, _ => .next s

/-- The cycles from the last arrival to the members' next packets. -/
def LineRef.delay (r : LineRef) : Nat := if r.camp.isSome then 4 else 8

/-- The cycle T on which an episode completes: its last member's assertion, which a waiting arrival makes when
the line frees (R50). -/
def Line.doneAt (x : Line) (n : Fin 256) (g : BitVec 8) : Nat := (x.at_ n g).foldl (fun t a => max t a.cycle) x.free

/-- SYNC_EPISODE_COMPLETE: every member issues its next packet T + 4 or T + 8, and the line frees then. -/
def execSyncEpisodeComplete (line : LineRef) (s : State) : Out :=
  let x := s.lineAt line
  match s.episode x with
  | none => .next s
  | some (n, g, _) =>
    if !s.episodeFull x then .next s
    else
      let t := x.doneAt n g + LineRef.delay line
      let go (s : State) (a : Arrival) : State :=
        (s.issueSet a.c).foldl (fun s m => (s.modCtx m fun x => { x with run := .ready }).modCore m.core fun k =>
          { k with nextAt := t }) s
      let s := (x.at_ n g).foldl go s
      .next (s.driveLine { x with
        free := t, episode := none, arrivals := x.arrivals.filter fun a => !(a.launch == n && a.group == g) })

/-! ## DECOUPLE and REJOIN (R53, R54) -/

/-- A context takes another's sequencer: its pc, loop stack and b registers. -/
def Context.takeSequencer (x y : Context) : Context := { x with pc := y.pc, loops := y.loops, b := y.b }

/-- DECOUPLE. -/
def execDecoupleK (s : State) : Out :=
  let c := s.focus.c
  let x := s.ctx c
  if x.fusew = 0 ∨ x.decoup then .next s
  else .next ((s.fusedSet c).foldl (fun s m => s.modCtx m fun y => { y.takeSequencer x with decoup := true }) s)

/-- REJOIN: the core drains and waits for its set. -/
def execRejoinK (s : State) : Out :=
  let c := s.focus.c
  if (s.ctx c).fusew = 0 ∨ !(s.ctx c).decoup then .next s
  else
    let s := (s.drainSet c).setRun c (.rejoinWait s.focus.at_)
    let waits (m : CtxRef) : Bool := match (s.ctx m).run with | .rejoinWait _ => true | _ => false
    .next ((if (s.fusedSet c).all waits then s.due (.rejoinComplete (s.leaderOf c)) else s).stopIfTorn c)

/-- The packet at which a context waits in a REJOIN. -/
def Context.rejoinAt (x : Context) : Option PcWord :=
  match x.run with
  | .rejoinWait p => some p
  | _ => none

/-- The cycle T on which the last core of a set asserts. -/
def State.rejoinDone (s : State) (leader : CtxRef) : Nat :=
  (s.fusedSet leader).foldl (fun t m => max t (s.core m.core).nextAt) 0

/-- The camp's fuse line serves a set's rejoin: every core has asserted, and no set of the camp whose arrival was
complete before waits, nor one complete on the same cycle with a lower leader (R54). -/
def State.fuseTurn (s : State) (leader : CtxRef) : Bool :=
  let t := s.rejoinDone leader
  decide (t ≤ s.cycle) && s.agenda.all fun e =>
    match e with
    | .rejoinComplete l =>
      l == leader || campOf l.core != campOf leader.core || (s.ctx l).rejoinAt.isNone ||
        decide (t < s.rejoinDone l) || t == s.rejoinDone l && decide (CtxRef.num leader ≤ CtxRef.num l)
    | _ => true

/-- REJOIN_COMPLETE: every core issues on T + 2, with the leader's sequencer. The fuse line is the set's until then;
a set whose arrival was complete while the line served another has it from that one's restart (R54; log 39). -/
def execRejoinComplete (leader : CtxRef) (s : State) : Out :=
  let set := s.fusedSet leader
  let x := s.ctx leader
  match x.rejoinAt with
  | none => .next s
  | some at_ =>
    if !(set.all fun m => (s.ctx m).rejoinAt.isSome) then .next s
    else
      let t := max (s.rejoinDone leader) s.fuse[campOf leader.core]
      let s := { s with fuse := s.fuse.set (campOf leader.core) (t + 2) }
      .next (set.foldl (fun s m =>
        let s := s.modCtx m fun y =>
          { y.takeSequencer x with
            decoup := false, run := .ready
            sticky := if y.rejoinAt = some at_ then y.sticky else y.sticky ||| rjmisBit }
        s.modCore m.core fun k => { k with nextAt := t + 2 }) s)

/-! ## END (R46, R207) -/

/-- END: the drain, after which gather entries and data slots are discarded; then the waits. -/
def execEndK (s : State) : Out :=
  let c := s.focus.c
  let s := (s.drainSet c).setRun c .endWait
  let s := (s.issueSet c).foldl (fun s m => (s.dropEntries m (·.kind == .gather)).modCtx m fun x =>
    { x with dq := Vector.replicate 32 none }) s
  .next (((s.endSegment c).due (.endRetire c)).stopIfTorn c)

/-- What an END still waits for: elements, g results, and the DRAIN at DEV scope. -/
def State.endBusy (s : State) (c : CtxRef) : Bool :=
  (s.fusedSet c).any fun m =>
    (s.core m.core).allElems.any (fun e => e.2.owner == m && !e.2.silent) ||
      (s.ctx m).gPending.any (fun b => b) || (s.ctx m).gPendBank.any (fun b => b) || (s.ctx m).aq.any AqEntry.isDevWrite ||
      s.reqs.any fun r => r.c == m && !r.orphaned && r.state == .waiting && r.kind.isAccess

/-- END_RETIRE. -/
def execEndRetire (c : CtxRef) (s : State) : Out :=
  if (s.ctx c).run ≠ .endWait ∨ s.endBusy c then .next s
  else .next (s.retireTask c .done)

/-! ## BREAK and holds (R31, R398) -/

/-- BREAK: the context stops. Where a loop boundary still waits for TKCMT, the event follows it (R370). -/
def execBreakK (s : State) : Out :=
  let c := s.focus.c
  let s := s.setRun c (.held .brk)
  .next ((if (s.ctx c).defer then s else s.breakEvent c).stopIfTorn c)

/-- HOLD_END: an interlock's result or a data slot has come, or the cycles of an entry have passed; the held
packet issues (R31, R32), unless ABORT stops its task there (R387). A walk, a fill and a BREAK stop end by their own events. -/
def execHoldEnd (c : CtxRef) (s : State) : Out :=
  if s.stopsHere c then .next (s.stopIfTorn c)
  else .next ((s.issueSet c).foldl (fun s m => s.modCtx m fun x =>
    match x.run with
    | .held (.g _) | .held .pop => { x with run := .ready }
    | .held (.ui until_) => if until_ ≤ s.cycle then { x with run := .ready } else x
    | _ => x) s)

end Sys2Proof.Machine
end

