-- ==== Sys2Proof/Machine/Faults.lean ====
section
/-!
DEFINITION. What the shadow context does, the retirement of a task by a fault, engine faults, and entry of
a user-level interrupt handler: R394 to R403 of spec/33_faults_translation.md, R206, R255, R291, R294.
-/
namespace Sys2Proof.Machine

/-! ## SHADOW_RETURN (R31, R394) -/

/-- A metadata-cache sector is filled from committed data at its home slice (R163, R255, R346). -/
def State.fillSector (s : State) (c : CtxRef) (va pa : Nat) : State :=
  let (bs, s) := s.readHome 0#8 pa 32
  s.modCore c.core fun k => k.metaFill (va / 32) bs

/-- SHADOW_RETURN: the walk or the fill is done, and the held packet issues. A fill whose translation has been
lost leaves it to the packet. -/
def execShadowReturn (c : CtxRef) (s : State) : Out :=
  match (s.ctx c).run with
  | .held (.walk id) => .next (if s.walks.any (fun w => w.id == id) then s else s.setRun c .ready)
  | .held (.side a) =>
    match s.tlbLookup c.core a.toNat with
    | none => .next (s.setRun c .ready)
    | some e =>
      let pa := e.phys a.toNat
      if s.isBad .dram pa 32 then
        .next ((s.setRun c .ready).takeFault c 5 .memecc 0x00#8 (s.ctx c).pc (a.setWidth 64))
      else .next ((s.fillSector c a.toNat pa).setRun c .ready)
  | _ => .next s

/-! ## FAULT_RETIRE (R396, R397) -/

/-- A loop level's 32 bytes (Table 3 of spec/31_scheduling.md). -/
def loopBytes (l : Option Loop) : List Byte :=
  match l with
  | none => leBytes 16 0 ++ leBytes 16 0
  | some l =>
    leBytes 8 (pcAddr l.start).toNat ++ leBytes 8 (pcAddr l.last).toNat ++ leBytes 4 l.remain.toNat ++
      leBytes 4 (match l.pending with | some n => 2 ^ 31 + n.toNat | none => 0) ++
      leBytes 4 (if l.nopre then 1 else 0) ++ leBytes 4 0

/-- The six levels of a loop stack. -/
def stackBytes (ls : List Loop) : List Byte := (List.range 6).flatMap fun i => loopBytes ls[i]?

/-- FAULT's contents: task, context, CAUSE, EPC, FADDR, FINFO, the loop levels and the time of detection
(R397; log 17). -/
def Context.faultBytes (x : Context) (c : CtxRef) (num : Nat) : List Byte :=
  leBytes 4 num ++ leBytes 4 (CtxRef.num c) ++ leBytes 8 x.cause.toNat ++ leBytes 8 x.epc.toNat ++
    leBytes 8 x.faddr.toNat ++ leBytes 8 x.finfo.toNat ++ stackBytes x.loops ++ leBytes 8 (x.failed.getD 0)

/-- FAULT_RETIRE: the drain, the discards, the event and the retirement of the whole set's task. -/
def execFaultRetire (c : CtxRef) (s : State) : Out :=
  if (s.ctx c).run ≠ .faulted ∨ s.entriesBusy c then .next s
  else
    let s := (s.fusedSet c).foldl (fun s m => s.drainCtx m) s
    let m := s.failedOf c
    let x := s.ctx m
    let st := if x.cause.toNat % 256 = 0x13 then TState.orphan else .faulted
    let s := match s.taskOf c with
      | some (n, t) => s.launchEvent n 0x07 (x.faultBytes m t.num)
      | none => s
    .next ((s.discardWork c).retireTask c st)

/-! ## ENGINE_FAULT (R399) -/

/-- The host is asked for the page that an engine waits for. -/
def State.engineAsks (s : State) (e : EngineRef) (va : Nat) (access : Access) (launch : Option (Fin 256)) : State :=
  let (id, s) := s.startWalk (.engine e) 7 va access launch
  match s.walks.find? fun w => w.id == id with
  | some w => s.pageFault w
  | none => s

/-- A fault of an address queue's entry. -/
def State.entryFault (s : State) (c : CtxRef) (seq : Word) (f : EngFault) : State :=
  if (s.ctx c).run = .faulted then s
  else
    let s := s.engineRecord c 1 seq f
    if f.gcap then s
    else if f.waits then s.engineAsks (.address c) f.faddr.toNat f.access ((s.ctx c).task.map (·.launch))
    else s.engineStop c

/-- A queue's first element is discarded (R424). -/
def State.discardFirst (s : State) (k : Fin 64) (q : Fin 4) (e : CopyElem) : State := s.dropElems k q fun x => x.id == e.id

/-- A fault of a copy queue's first element. One whose task has been retired tells nobody: a fault that is not
recoverable discards it, and at a recoverable one it waits as any other does (R399, R424). -/
def State.elemFault (s : State) (k : Fin 64) (q : Fin 4) (e : CopyElem) (f : EngFault) : State :=
  if e.silent then
    if f.gcap then s
    else if f.waits then s.engineAsks (.copy k q) f.faddr.toNat f.access (e.task.map (·.launch))
    else s.discardFirst k q e
  else if (s.ctx e.owner).run = .faulted then s
  else
    let s := s.engineRecord e.owner (2 + q.val) (BitVec.ofNat 32 e.row) f
    if f.gcap then s
    else if f.waits then
      s.engineAsks (.copy k q) f.faddr.toNat f.access (e.task.map (·.launch))
    else (s.discardFirst k q e).engineStop e.owner

/-- ENGINE_FAULT. -/
def execEngineFault (e : EngineRef) (s : State) : Out :=
  match e with
  | .address c =>
    match (s.ctx c).aqFault with
    | some (seq, f) => .next (s.entryFault c seq f)
    | none => .next s
  | .copy k q =>
    match s.firstElem k q with
    | none => .next s
    | some x =>
      match x.susp with
      | .fault f => .next (s.elemFault k q x f)
      | _ => .next s

/-! ## UI_ENTRY (R177, R294, R401) -/

/-- A context has an interrupt or a trap to deliver. -/
def Context.delivers (x : Context) : Bool := x.trap.isSome || (!x.uiQueue.isEmpty && x.uien)

/-- A TRAPI that cannot enter is a fault. -/
def Context.trapFails (x : Context) : Bool := x.trap.isSome && (!x.uiValid || x.uiact)

/-- The conditions of an entry. In a coupled set the handler is the leader's (R52). -/
def State.uiMay (s : State) (c : CtxRef) : Bool :=
  let l := s.ctx (if (s.ctx c).decoup then c else s.leaderOf c)
  (s.issueSet c).any fun m => (s.ctx m).delivers && (s.ctx m).uiValid && !(s.ctx m).uiact && l.uiValid

/-- A context stands before a packet that nothing holds. -/
def State.uiReady (s : State) (c : CtxRef) : Bool :=
  (s.ctx c).run == .ready && (s.issueSet c).all (fun m =>
      !(s.ctx m).defer && (match (s.ctx m).gWait with | some d => !(s.ctx m).gPending[d] | none => true)) &&
    (s.uiMay c || (s.issueSet c).any fun m => (s.ctx m).trapFails)

/-- An element that waits for room in a context's list completes (R294). -/
def State.freeUiRoom (s : State) (c : CtxRef) : State :=
  (List.finRange 4).foldl (fun (s : State) (q : Fin 4) =>
    match s.firstElem c.core q with
    | some e =>
      if e.owner = c ∧ e.susp = .interrupts then
        (s.putElem c.core q { e with susp := .none }).due (.copyElementComplete c.core q)
      else s
    | none => s) s

/-- One core of a set enters. -/
def State.uiEnter (s : State) (handler : PcWord) (c : CtxRef) : State :=
  let x := s.ctx c
  let s := s.setCtx c
    (match x.trap, x.delivers, x.uiQueue with
    | some imm, _, q =>
      { x.enterUi false true (imm.setWidth 32) q.length with
        trap := none, epc := epcWord 0 x.loops.length x.pc, faddr := imm.setWidth 64, pc := handler }
    | none, true, w :: q => { x.enterUi false false w q.length with uiQueue := q, pc := handler }
    | none, _, q => { x.enterUi true false 0#32 q.length with pc := handler })
  (s.freeUiRoom c).acquireNow c.core

/-- UI_ENTRY: every core of the set enters, and the core is held for four cycles; or a TRAPI is retired. -/
def execUiEntry (c : CtxRef) (s : State) : Out :=
  if !s.uiReady c then .next s
  else
    match (s.issueSet c).find? fun m => (s.ctx m).trapFails with
    | some m =>
      .next (s.takeFault m 0 .trapi 0x00#8 (s.ctx m).pc ((((s.ctx m).trap).getD 0#17).setWidth 64))
    | none =>
      let l := if (s.ctx c).decoup then c else s.leaderOf c
      let h := (s.ctx l).uiHandler
      let s := (s.issueSet c).foldl (fun s m => s.uiEnter h m) s
      .next ((s.setRun c (.held (.ui (s.cycle + 4)))).due (.holdEnd l))

end Sys2Proof.Machine
end

