-- ==== Sys2Proof/Machine/Image.lean ====
section
/-!
DEFINITION. The image of a context that pre-emption saves and restore reads: R384 of
spec/31_scheduling.md, Table 3.
-/
namespace Sys2Proof.Machine

/-! ## Writing -/

/-- Bytes brought to a length with zeros. -/
def padTo (n : Nat) (bs : List Byte) : List Byte := bs.take n ++ List.replicate (n - bs.length) 0#8

/-- Numbers of n bytes each. -/
def numsBytes (n : Nat) (xs : List Nat) : List Byte := xs.flatMap (leBytes n)

/-- A register's 512 bytes. -/
def vregBytes (v : VReg) : List Byte := (List.range 512).map (vbyte v)

/-- The handles that hold slots, as a mask. -/
def Context.heldMask (x : Context) : Nat := bitsOf (fun i => (x.acc[Fin.ofNat 16 i]).isSome) 16

/-- The data slots with data, oldest first. -/
def Context.slotsInOrder (x : Context) : List (Fin 32 × VReg) :=
  let es := (List.finRange 32).filterMap fun i =>
    match x.dq[i] with
    | some ⟨seq, some v⟩ => some (i, seq, v)
    | _ => none
  (sortBy (fun a b => decide ((x.aqSeq - b.2.1).toNat < (x.aqSeq - a.2.1).toNat)) es).map fun e => (e.1, e.2.2)

/-- The kinds' codes. -/
def AqKind.code : AqKind → Nat
  | .gather => 0
  | .scatter => 1
  | .addF | .addI => 2

/-- An address-queue entry's 16 bytes. -/
def AqEntry.imageBytes (e : AqEntry) : List Byte :=
  let size := match e.size with | 64 => 0 | 128 => 1 | 256 => 2 | _ => 3
  leBytes 8 (e.addr.toNat + e.kind.code * 2 ^ 48 + bitAt (e.spad || e.kind == .addI) 50 + size * 2 ^ 51 +
    bitAt e.data.isSome 53) ++ leBytes 8 e.seq.toNat

/-- The special registers of an image, in its order. -/
def imageSrs : List SReg :=
  [.status, .control, .cause, .epc, .faddr, .finfo, .gid, .syncsel, .splim, .uivec, .uistat, .dkey, .dctrh, .dctrl,
    .routepol]

/-- The header's 64 bytes. -/
def Context.headerBytes (x : Context) (num launch pos : Nat) : List Byte :=
  padTo 64 (numsBytes 4 [2 ^ 24 + x.fusew.val * 2 ^ 22 + pos * 2 ^ 19 + bitAt (x.run == .parked) 18 + bitAt x.orphan 17 +
      x.heldMask, num, launch, x.spsize.toNat, (pcAddr x.pc).toNat % 2 ^ 32, (pcAddr x.pc).toNat / 2 ^ 32, x.arm.toNat,
      x.aq.length + x.slotsInOrder.length * 2 ^ 8])

/-- An image up to the window: 0x12000 bytes. -/
def State.imageHead (s : State) (c : CtxRef) (num launch pos : Nat) : List Byte :=
  let x := s.ctx c
  { x with arm := (s.ctx (s.leaderOf c)).arm }.headerBytes num launch pos ++ numsBytes 8 (x.s.toList.map (·.toNat)) ++ numsBytes 8 (x.k.toList.map (·.toNat)) ++
    numsBytes 8 (x.g.toList.map (·.toNat)) ++ numsBytes 8 (x.sBank.toList.map (·.toNat)) ++
    numsBytes 8 (x.gBank.toList.map (·.toNat)) ++ numsBytes 4 (x.x.toList.map (·.toNat)) ++
    numsBytes 4 (x.a.toList.map (·.toNat)) ++ numsBytes 8 (x.b.toList.map fun r => (BReg.word r).toNat) ++
    numsBytes 4 (x.z.toList.map (·.toNat)) ++ numsBytes 4 (x.sb.toList.map (·.toNat)) ++
    numsBytes 8 (x.m.toList.map (·.toNat)) ++ numsBytes 16 (x.p.toList.map (·.toNat)) ++ stackBytes x.loops ++
    numsBytes 8 (imageSrs.map fun r => (s.readSr c r).toNat) ++
    leBytes 8 (bitsOf (fun i => x.q[Fin.ofNat 8 i]) 8) ++
    padTo 512 (numsBytes 8 (x.uiQueue.map (·.toNat))) ++ padTo 2048 (x.aq.flatMap AqEntry.imageBytes) ++
    x.v.toList.flatMap vregBytes ++ x.sa.toList.flatMap vregBytes ++
    padTo 16384 (x.slotsInOrder.flatMap fun e => vregBytes e.2) ++
    padTo 32768 (x.aq.flatMap fun e => match e.data with | some (v, _) => vregBytes v | none => leBytes 512 0)

/-- A tile's 65,536 bytes. -/
def tileBytes (tiles : List (Nat × VReg)) (slot : Fin 8) : List Byte :=
  (List.range 128).flatMap fun r => vregBytes (tileRow tiles slot r)

/-- A context's whole image. -/
def State.image (s : State) (c : CtxRef) (num launch pos : Nat) : List Byte :=
  let x := s.ctx c
  let k := s.core c.core
  s.imageHead c num launch pos ++ k.spad.bytes (x.spbase.toNat * 4096) x.spsize.toNat ++
    x.acc.toList.flatMap fun a => match a with | some slot => tileBytes k.tiles slot | none => []

/-! ## Reading -/

/-- Registers of n bytes from a place. -/
def readRegs (bs : List Byte) (o n : Nat) (w count : Nat) : Vector (BitVec w) count :=
  Vector.ofFn fun (i : Fin count) => BitVec.ofNat w (leAt bs (o + n * i.val) n)

/-- A register of 512 bytes from a place. -/
def readVreg (bs : List Byte) (o : Nat) : VReg :=
  let cut := (bs.drop o).take 512
  vOfBytes fun i => cut.getD i 0#8

/-- A packet address from a place. -/
def readPc (bs : List Byte) (o : Nat) : PcWord := BitVec.ofNat 43 (leAt bs o 8 / 32)

/-- The loop stack; its depth is that of STATUS. -/
def readStack (bs : List Byte) (depth : Nat) : List Loop :=
  (List.range depth).map fun i =>
    let o := 0x4C0 + 32 * i
    let p := leAt bs (o + 20) 4
    ⟨readPc bs o, readPc bs (o + 8), BitVec.ofNat 24 (leAt bs (o + 16) 4),
      if p.testBit 31 then some (BitVec.ofNat 24 p) else none, (leAt bs (o + 24) 4).testBit 0⟩

/-- The entries with the data that the image holds for them; their lane masks are the device's own. -/
def readEntries (bs : List Byte) (es : List AqEntry) : List AqEntry :=
  es.mapIdx fun i e =>
    { e with data := e.data.map fun d => (readVreg bs (0xA000 + 512 * i), d.2)
             addr := BitVec.ofNat 48 (leAt bs (0x800 + 16 * i) 6) }

/-- The data slots, refilled oldest first. -/
def readSlots (bs : List Byte) (x : Context) : Vector (Option DqSlot) 32 :=
  (x.slotsInOrder.zipIdx).foldl (fun d e =>
    match x.dq[e.1.1] with
    | some y => d.set e.1.1 (some { y with data := some (readVreg bs (0x6000 + 512 * e.2)) })
    | none => d) x.dq

/-- A restored context: what the image holds, and from the context as it was saved what the device keeps
for itself: the GID and orphan flag as resolutions left them (R353), the interrupts, the entries' order. -/
def Context.fromImage (x : Context) (bs : List Byte) : Context :=
  let sr (i : Nat) : DWord := BitVec.ofNat 64 (leAt bs (0x580 + 8 * i) 8)
  let loops := readStack bs (bits (sr 0).toNat 20 4)
  let pc := readPc bs 0x10
  let y := { x with
    s := readRegs bs 0x40 8 64 32, k := readRegs bs 0x140 8 64 16, g := readRegs bs 0x1C0 8 64 16
    sBank := readRegs bs 0x240 8 64 4, gBank := readRegs bs 0x260 8 64 4
    x := readRegs bs 0x280 4 32 32, a := readRegs bs 0x300 4 32 16
    b := Vector.ofFn fun (i : Fin 8) =>
      ⟨readPc bs (0x340 + 8 * i.val), (leAt bs (0x340 + 8 * i.val) 1).testBit 0, none⟩
    z := readRegs bs 0x380 4 24 8, sb := readRegs bs 0x3A0 4 32 8, m := readRegs bs 0x3C0 8 64 16
    p := readRegs bs 0x440 16 128 8, loops := loops, pc := pc
    sticky := (sr 0).setWidth 10, control := (sr 1).setWidth 4
    cause := causeWord 0#4 false 0 0x00#8 Cause.preempt.code, epc := epcWord 0 loops.length pc, faddr := 0#64
    finfo := (sr 5).setWidth 36, syncsel := (sr 7).setWidth 8, splim := (sr 8).setWidth 22
    uistat := sr 10, dkey := sr 11, dctrh := sr 12, dctrl := sr 13
    rpsel := Fin.ofNat 8 ((sr 14).toNat / 2 ^ 61)
    q := Vector.ofFn fun (i : Fin 8) => (leAt bs 0x5F8 1).testBit i.val
    v := Vector.ofFn fun (i : Fin 32) => readVreg bs (0x1000 + 512 * i.val)
    sa := Vector.ofFn fun (i : Fin 8) => readVreg bs (0x5000 + 512 * i.val)
    arm := BitVec.ofNat 32 (leAt bs 0x18 4)
    aq := readEntries bs x.aq, dq := readSlots bs x
    acc := Vector.replicate 16 none, landings := [], streams := []
    decoup := false, gWait := none, atPoint := false }
  y.writeSr .uivec (sr 9)

end Sys2Proof.Machine
end

