-- ==== Sys2Proof/Machine/Dispatcher.lean ====
section
/-!
DEFINITION. The dispatcher and the command processor at work: decrements, TSPAWN's records, binding,
pre-emption and restore, admission, the start of dispatch, energy, the watchdog and teardown, R36, R37, R40,
R43, R278 and R376 to R388.
-/
namespace Sys2Proof.Machine

/-! ## DECREMENT_APPLY (R40, R276) -/

/-- The contexts of a parked task become ready. -/
def State.unpark (s : State) (t : Task) : State :=
  match t.ctx with
  | none => s
  | some c => (s.fusedSet c).foldl (fun s m => s.modCtx m fun x => if x.run = .parked then { x with run := .ready } else x) s

/-- A decrement at its task's counter: the state after it, and TDEC's result (Table 6). -/
def State.applyDec (s : State) (d : Dec) : State × DWord :=
  match s.task? d.launch d.task with
  | none => (s, 0xC000000000000000#64)
  | some t =>
    if t.state.retired then (s, 0x8000000000000000#64 ||| BitVec.ofNat 64 t.state.code)
    else
      let v := t.counter - d.amt
      let was := decide (0 < t.counter.toInt)
      let now := decide (0 < v.toInt)
      let t := { t with counter := v }
      let s := s.putTask d.launch t
      let s :=
        match t.state, was, now with
        | .pending, true, false => s.readyTask d.launch d.task d.camp
        | .ready, false, true => (s.dequeue d.launch d.task).putTask d.launch { t with state := .pending }
        | .parked, true, false => (s.putTask d.launch { t with state := .running }).unpark t
        | _, _, _ => s
      (s, v.signExtend 64)

/-- A decrement waits for its TDEC's earlier fences, and for the release of a TDEC.rel (R162). -/
def State.decReady (s : State) (d : Dec) : Bool :=
  match d.req.bind s.req? with
  | some r => s.unfenced r && (!r.rel || s.released r .dev)
  | none => true

/-- A decrement reads a task record with an uncorrectable error (R146). -/
def State.decBad (s : State) (d : Dec) : Bool := s.isBad .task (d.launch.val * 2 ^ 28 + d.task) 1

/-- The MEMECC of such a decrement: its TDEC's late fault. DESIGN CHOICE: one that no TDEC waits for is lost, since the
rules name nobody whom it tells (log 40). -/
def State.decMemecc (s : State) (d : Dec) : State :=
  match (d.req.bind s.req?).filter fun r => r.kind.isTdec with
  | some r =>
    s.lateFault r .memecc (BitVec.ofNat 64 (((s.launch? d.launch).map fun l => l.recordAt d.task).getD 0))
  | none => s

/-- DECREMENT_APPLY. -/
def execDecrementApply (id : Nat) (s : State) : Out :=
  match s.decs.find? fun d => d.id == id with
  | none => .next s
  | some d =>
    if !s.decReady d then .next s
    else if s.decBad d then .next ({ s with decs := s.decs.filter fun x => x.id != id }.decMemecc d)
    else
      let (s, res) := { s with decs := s.decs.filter fun x => x.id != id }.applyDec d
      let s :=
        match d.req.bind s.req? with
        | some r => match r.kind with
          | .tdec .. => s.form r res 0#64
          | _ => s
        | none => s
      .next s.dispatch

/-! ## TSPAWN_RECORD_WRITTEN (R278) -/

/-- The reasons for which a TSPAWN fails (Table 9). -/
def Launch.spawnErrs (l : Launch) (a : DWord) : List Nat :=
  (if a.toNat / 2 ^ 56 ≠ 0 then [4] else []) ++
    (if l.pclass = 2 ∨ l.placed ∨ !l.members.isEmpty then [3] else []) ++
    (if 268435455 ≤ l.tasks.length then [2] else []) ++
    if (l.template? (BitVec.ofNat 8 (bits a.toNat 48 8))).isNone then [1] else []

/-- A spawned task's record. -/
def Launch.spawned (l : Launch) (a b : DWord) : Task :=
  let dep := bits b.toNat 32 32
  { num := l.tasks.length, state := .pending, tmpl := BitVec.ofNat 8 (bits a.toNat 48 8), counter := b.setWidth 32
    arg := a.setWidth 48, deps := if dep / 2 ^ 28 = 0 then [] else [(dep / 2 ^ 28, dep % 2 ^ 28)]
    overflow := 0#48, tile := 0#48, ctx := none, progress := 0#32, retire := 0#8, member := 0, memTask := 0
    cls := l.cls, slot := none, saved := [] }

/-- A TSPAWN's turn: after its context's earlier fences, its release done (R278). -/
def State.tspawnReady (s : State) (r : Req) : Bool := s.released r .dev && s.unfenced r

/-- TSPAWN_RECORD_WRITTEN: which of several reasons is given is an open choice (log 5). A launch in teardown
cancels the task at once (R387). -/
def execTspawnRecordWritten (id : Nat) (s : State) : Out :=
  match s.req? id with
  | none => .next s
  | some r =>
    match r.kind with
    | .tspawn a b =>
      if r.state ≠ .waiting ∨ !s.tspawnReady r then .next s
      else
        match r.task.bind fun t => s.launch? t.launch with
        | none => .next (s.form r 0x8000000000000001#64 0#64)
        | some l =>
          match l.spawnErrs a with
          | [] =>
            let t := l.spawned a b
            let s := (s.setLaunch l.num { l with tasks := l.tasks ++ [t] }).putTask l.num t
            let s :=
              if l.teardown.isSome then s.cancelTask l.num t.num
              else if 0 < t.counter.toInt then s
              else s.readyTask l.num t.num none
            .next (s.form r (BitVec.ofNat 64 t.num) 0#64).dispatch
          | e :: es =>
            let (n, s) := s.choose (es.length + 1)
            .next (s.form r (0x8000000000000000#64 ||| BitVec.ofNat 64 ((e :: es).getD n e)) 0#64)
    | _ => .next s

/-! ## BIND_TASK, PREEMPT and RESTORE (R376 to R384) -/

/-- What a free context takes: its queue, and the launch, template and task. -/
def State.pickTask (s : State) (c : CtxRef) : Option (Fin 32 × Queued × Launch × Template × Task) :=
  match s.pick c with
  | none => none
  | some (q, x) =>
    match s.launch? x.launch, s.task? x.launch x.task with
    | some l, some t => (l.template? t.tmpl).map fun p => (q, x, l, p, t)
    | _, _ => none

/-- BIND_TASK. -/
def execBindTask (c : CtxRef) (s : State) : Out :=
  match s.pickTask c with
  | none => .next s
  | some (q, x, l, p, t) =>
    if t.state = .saved then .next (s.due (.restoreTask c))
    else .next ((s.take q x).bind (leaderFor c p.cores) x.launch l p t).dispatch

/-- A context at which a victim's set may be saved (R60, R382): at a point, and with everything formed and
performed that pre-emption waits for. -/
def State.savable (s : State) (m : CtxRef) : Bool :=
  let x := s.ctx m
  !x.uiact && !x.defer && x.trap.isNone && x.aqFault.isNone && !(x.aq.any (·.begun)) &&
    !((s.core m.core).allElems.any fun e => e.2.owner == m && !e.2.silent) &&
    !(s.reqs.any fun r => r.c == m && !r.orphaned)

/-- The pre-emption that a context is reserved for. -/
def State.preemptFor (s : State) (c : CtxRef) : Option (Fin 256 × Nat) :=
  (s.reserved.find? fun r => r.1 == c && r.2.2.isSome).bind fun r => r.2.2.map fun num => (r.2.1, num)

/-- A victim stands where it can be pre-empted. -/
def State.preemptReady (s : State) (c : CtxRef) : Bool :=
  let x := s.ctx c
  (s.preemptFor c).isSome && x.atPoint && (x.run == .ready || x.run == .parked) && !x.decoup &&
    (s.fusedSet c).all fun m => s.savable m

/-- PREEMPT: the images of a set, in position order; then its release, and the task's place in its queue. -/
def State.save (s : State) (c : CtxRef) (n : Fin 256) (l : Launch) (t : Task) : State :=
  let s := s.drainSet c
  let at_ := l.imageAt t
  let set := s.fusedSet c
  let s := set.zipIdx.foldl (fun s m => s.resWrite (at_ + m.2 * l.saveSlot) (s.image m.1 t.num n.val m.2)) s
  let t := { t with state := .saved, ctx := none, saved := set.map fun m => s.ctx m }
  let s := (s.endSegment c).putTask n t
  let s := set.foldl (fun s m => s.freeCtx m) s
  s.enqueue n t (campOf c.core).val true

/-- PREEMPT. -/
def execPreempt (c : CtxRef) (s : State) : Out :=
  if !s.preemptReady c then .next s
  else
    match s.taskOf c with
    | none => .next s
    | some (n, t) =>
      match s.launch? n with
      | none => .next s
      | some l => .next (s.save c n l t).afterFree

/-- Bytes of an image as the device reads them; bytes that cannot be read are open (log 8). -/
def State.imageRead (s : State) (va n : Nat) : List Byte :=
  match s.resBytes va n with
  | .ok bs => bs
  | .error _ => (List.range n).map (Config.openByte (s.fresh + 1))

/-- A held tile lands in a fresh slot (R139, R382). -/
def State.restoreTile (s : State) (c : CtxRef) (h : Fin 16) (bs : List Byte) : State :=
  match (s.core c.core).freeAcc with
  | none => s
  | some slot =>
    let s := (s.modCtx c fun x => { x with acc := x.acc.set h (some slot) }).mend (.acc c.core) (slot.val * 128) 128
    s.modCore c.core fun k =>
      { k with
        slotTaken := k.slotTaken.set slot true
        tiles := (List.range 128).foldl (fun ts r => setTileRow ts slot r (readVreg bs (512 * r))) (zeroTile k.tiles slot) }

/-- One context of a set is restored, at the point where it was saved. -/
def State.restoreOne (s : State) (p : Template) (t : Task) (l : Launch) (i : Nat) (c : CtxRef) (x : Context) : State :=
  let va := l.imageAt t + i * l.saveSlot
  let bs := s.imageRead va 0x12000
  let mask := leAt bs 0 2
  let win := s.imageRead (va + 0x12000) p.spsize
  let (base, s) := s.chooseWindow c.core p.spsize
  let y : Context := x.fromImage bs
  let s := s.setCtx c { y with
    run := if 0 < t.counter.toInt then .parked else .ready
    spbase := BitVec.ofNat 9 base, cls := t.cls, aqFault := none, atPoint := true }
  let s := s.modCore c.core fun k => { k with spad := k.spad.setBytes (base * 4096) win }
  let s := (s.mend (.regs c) 0 256).mend (.spad c.core) (base * 4096) p.spsize
  let hs := (List.range 16).filter mask.testBit
  hs.zipIdx.foldl (fun s h =>
    s.restoreTile c (Fin.ofNat 16 h.1) (s.imageRead (va + 0x12000 + p.spsize + 65536 * h.2) 65536)) s

/-- A set is restored, context by context; entries that have not begun go on. -/
def State.restore (s : State) (c : CtxRef) (n : Fin 256) (l : Launch) (p : Template) (t : Task) : State :=
  let s := ((setFrom c p.cores).zip t.saved).zipIdx.foldl (fun s m => s.restoreOne p t l m.2 m.1.1 m.1.2) s
  let s := (setFrom c p.cores).foldl (fun s m =>
    let s := if (s.ctx m).aq.isEmpty then s else s.due (.gatherEntryBegin m)
    if (s.ctx m).uiQueue.isEmpty then s else s.due (.uiEntry m)) s
  let s := { s with
    fresh := s.fresh + 1
    reserved := s.reserved.filter fun r => !(r.2.1 == n && r.2.2 == some t.num) }
  s.putTask n { t with state := if 0 < t.counter.toInt then .parked else .running, ctx := some c, slot := none, saved := [] }

/-- RESTORE. -/
def execRestoreTask (c : CtxRef) (s : State) : Out :=
  match s.pickTask c with
  | none => .next s
  | some (q, x, l, p, t) =>
    if t.state ≠ .saved then .next (s.due (.bindTask c))
    else .next ((s.take q x).restore (leaderFor c p.cores) x.launch l p t).dispatch

/-! ## Admission (R36, R37, R39, R59, R383) -/

/-- The bytes of the record area that lie before the records: the argument block, then the pipes (log 12). -/
def argsAt (area : Nat) : Nat := area - 4096
def pipeAt (area i : Nat) : Nat := area - 8192 - 1024 * i
def overflowAt (area : Nat) : Nat := area + 2 ^ 34

/-- A number of `n` bytes of a block replaced. DESIGN CHOICE: one whose bytes pass the block's end is not written (R59;
log 42). -/
def putWord (bs : List Byte) (o n v : Nat) : List Byte := if o + n ≤ bs.length then patch bs o (leBytes n v) else bs

/-- The argument block with a gang's pipe addresses at their offsets. DESIGN CHOICE: an address is 8 bytes (log 42). -/
def Launch.argsWith (l : Launch) (area : Nat) : List Byte :=
  (l.pipes.zipIdx).foldl (fun bs p =>
    putWord (putWord bs p.1.push.toNat 8 (pipeAt area p.2)) p.1.pop.toNat 8 (pipeAt area p.2 + 512)) l.args

/-- The pipes at their addresses; until then the push and pop fields hold the block's offsets. -/
def Launch.placePipes (l : Launch) (area : Nat) : List Pipe :=
  l.pipes.mapIdx fun i p =>
    { p with push := BitVec.ofNat 48 (pipeAt area i), pop := BitVec.ofNat 48 (pipeAt area i + 512) }

/-- The overflow lists: each task's place in them, and the bytes. -/
def overflowLists (tasks : List Task) : List (Nat × List Byte) × Nat :=
  tasks.foldl (fun (x : List (Nat × List Byte) × Nat) t =>
    let more := t.deps.drop 4
    if more.isEmpty then x
    else
      (x.1 ++ [(t.num, leBytes 4 more.length ++ more.flatMap fun d => leBytes 4 (d.1 * 2 ^ 28 + d.2))],
        x.2 + 4 + 4 * more.length)) ([], 0)

/-- Where each list starts. -/
def listPlaces (at_ : Nat) : List (Nat × List Byte) → List (Nat × Nat × List Byte)
  | [] => []
  | (n, bs) :: rest => (n, at_, bs) :: listPlaces (at_ + bs.length) rest

/-- A task's declared tile, read when its record is built (R39). -/
def State.tileOf (s : State) (l : Launch) (t : Task) : BitVec 48 :=
  match l.template? t.tmpl with
  | none => 0#48
  | some p =>
    if !p.tilev then 0#48
    else match s.resBytes ((t.arg.toNat + p.tileOff) % 2 ^ 48) 8 with
      | .ok bs => BitVec.ofNat 48 (leAt bs 0 8)
      | .error _ => 0#48

/-- Pool spans in use. -/
def State.poolUsed (s : State) : List (Nat × Nat) :=
  (s.launches.map (·.2)).filterMap fun l =>
    if l.state = .over ∨ l.saveImages = 0 then none else some (l.saveBase, l.saveImages * l.saveSlot)

/-- The free bytes of the pool from an address on. -/
def State.poolFree (s : State) (a : Nat) : Nat :=
  (s.poolUsed).foldl (fun n u => if a < u.1 then min n (u.1 - a) else if a < u.1 + u.2 then 0 else n)
    (s.poolBase + s.poolSize - a)

/-- A WEAK launch's save area (R383): from the place in the pool that holds the most of its images. -/
def State.saveArea (s : State) (l : Launch) : Nat × Nat :=
  if l.pclass ≠ 0 ∨ l.saveSlot = 0 ∨ s.poolSize = 0 then (0, 0)
  else
    let want := min l.count 512
    let starts := s.poolBase :: s.poolUsed.map fun u => u.1 + u.2
    starts.foldl (fun (best : Nat × Nat) a =>
      let n := min want (s.poolFree a / l.saveSlot)
      if best.2 < n then (a, n) else best) (s.poolBase, 0)

/-- What a launch waits for before its dispatch (R37, R164): no message that names memory by an address (R165). -/
def State.waitsOf (s : State) (l : Launch) : List (Fin 256) × List (Fin 16 × Nat) :=
  let ws := l.handles.flatMap fun h =>
    match lookupNat s.handles h.1 with
    | none => []
    | some x => x.writer.toList ++ (if h.2.2 then x.readers else [])
  let ms := s.deferred.filterMap fun d =>
    match d with
    | .write m h _ | .read m h _ | .writing m (some h) _ | .reading m (some h) _ _ =>
      if l.handles.any fun y => y.1 == h then some (m.assoc, m.msgId) else none
    | .writing _ none _ | .reading _ none _ _ | .invalidate .. | .fence .. => none
  (ws.eraseDups, ms)

/-- The handle table's writers and readers with a launch entered: it writes a handle that any entry of its list names
as written. -/
def State.enterHandles (s : State) (l : Launch) : State :=
  { s with handles := s.handles.map fun (h : Nat × Handle) =>
      let mine := l.handles.filter fun y => y.1 == h.1
      if mine.isEmpty then h
      else if mine.any fun y => y.2.2 then (h.1, { h.2 with writer := some l.num, readers := [] })
      else (h.1, { h.2 with readers := h.2.readers ++ [l.num] }) }

/-- A launch is admitted: its record area is built, its tasks of counter 0 become READY (R375), and the host is
told. -/
def State.takeOn (s : State) (n : Fin 256) (area : Nat) : State :=
  match s.launch? n with
  | none => s
  | some l =>
    let args := l.argsWith area
    let (saveBase, saveImages) := s.saveArea l
    let (waits, waitMsgs) := s.waitsOf l
    let spilt := listPlaces (overflowAt area) (overflowLists l.tasks).1
    let l := { l with
      state := .admitted, area := BitVec.ofNat 48 area, argBase := BitVec.ofNat 48 (argsAt area), args := args
      pipes := l.placePipes area, saveBase := saveBase, saveImages := saveImages, waits := waits, waitMsgs := waitMsgs
      lastSink := s.gptp }
    let s := (s.enterHandles l).resWrite (argsAt area) args
    let s := spilt.foldl (fun s o => s.resWrite o.2.1 o.2.2) s
    let tasks := l.tasks.map fun t =>
      let t := { t with
        arg := BitVec.ofNat 48 (argsAt area + l.stride * t.num)
        overflow := match spilt.find? fun (o : Nat × Nat × List Byte) => o.1 == t.num with | some o => BitVec.ofNat 48 o.2.1 | none => 0#48 }
      { t with tile := s.tileOf l t }
    let s := s.setLaunch n { l with tasks := tasks }
    let s := tasks.foldl (fun s t => s.putTask n t) s
    let s := (tasks.filter fun t => !decide (0 < t.counter.toInt)).foldl (fun s t => s.readyTask n t.num none) s
    ((s.launchEvent n 0x02 (leBytes 8 area)).due (.launchDispatchStart n))

/-- A waiting launch is admitted when contexts for all its tasks are free together and none before it in the queue
has them too (R36). -/
def State.mayAdmit (s : State) (n : Fin 256) : Bool :=
  ((s.admissionQueue.find? fun l => s.plans l.num l).map Launch.num) == some n

/-- The contexts of a plan are reserved for their launch. -/
def State.reservePlan (s : State) (n : Fin 256) : State :=
  match s.launch? n with
  | none => s
  | some l =>
    { s with reserved := s.reserved.filter (fun r => r.2.1 != n) ++
        ((s.plan n l).elim [] planCtxs).map fun c => (c, n, none) }

/-- ADMIT_LAUNCH: of a launch that waits for its contexts. -/
def execAdmitLaunch (launch : Fin 256) (area : BitVec 48) (s : State) : Out :=
  if !s.mayAdmit launch then .next s
  else .next ((s.reservePlan launch).takeOn launch area.toNat)

/-! ## LAUNCH_DISPATCH_START (R37) -/

/-- Stores of contexts that are gone, and elements of tasks that are: the flush waits for them. -/
def State.flushed (s : State) : Bool :=
  (s.reqs.all fun r => !(r.orphaned && r.kind.isAccess && r.state == .waiting)) &&
    s.cores.all fun k => k.allElems.all fun e => !e.2.silent

/-- A launch may begin its dispatch. -/
def State.mayDispatch (s : State) (n : Fin 256) : Bool :=
  match s.launch? n with
  | none => true
  | some l =>
    l.state != .admitted || l.waits.isEmpty && l.waitMsgs.isEmpty && s.flushed && (l.pclass != 2 || s.plans n l)

/-- Every task of a CONCURRENT launch is taken and bound together (R34, R378). -/
def State.bindPlan (s : State) (n : Fin 256) (l : Launch) (xs : List Berth) : State :=
  xs.foldl (fun s x => (l.template? x.task.tmpl).elim s fun p =>
    (s.takeOut n x.task.num).bindOn x.c x.at_ n l p x.task) s

/-- LAUNCH_DISPATCH_START. -/
def execLaunchDispatchStart (launch : Fin 256) (s : State) : Out :=
  match s.launch? launch with
  | none => .next s
  | some l =>
    if l.state ≠ .admitted ∨ !s.mayDispatch launch then .next s
    else
      let l := { l with state := .running }
      let s := s.setLaunch launch l
      if l.pclass = 2 then
        let s := s.bindPlan launch l ((s.plan launch l).getD [])
        .next { s with reserved := s.reserved.filter fun r => !(r.2.1 == launch && r.2.2.isNone) }.dispatch
      else .next s.dispatch

/-! ## ENERGY_UPDATE (R379, R380) -/

/-- A launch's queued tasks move to the tail of the new class's queues. -/
def State.moveClass (s : State) (n : Fin 256) (old new : Fin 4) : State :=
  (List.range 8).foldl (fun (s : State) camp =>
    let a := queueOf camp old
    let b := queueOf camp new
    let (mine, rest) := s.ready[a].partition fun x => x.launch == n
    let s := { s with ready := s.ready.set a rest }
    { s with ready := s.ready.set b (s.ready[b] ++ mine) }) s

/-- A launch's class number grows: its queues and its tasks' records follow. -/
def State.demote (s : State) (n : Fin 256) : State :=
  match s.launch? n with
  | none => s
  | some l =>
    let new : Fin 4 := Fin.ofNat 4 (l.cls.val + 1)
    let s := s.setLaunch n { l with cls := new, remain := l.budget.toNat }
    let s := s.moveClass n l.cls new
    l.tasks.foldl (fun s t => s.putTask n { t with cls := new }) s

/-- ENERGY_UPDATE: so many millijoules were spent (log 11). -/
def execEnergyUpdate (launch : Fin 256) (joules : Nat) (s : State) : Out :=
  match s.launch? launch with
  | none => .next s
  | some l =>
    if l.state = .queued ∨ l.state = .over then .next s
    else
      let s := s.setLaunch launch { l with used := l.used + joules, remain := l.remain - joules }
      if l.budget = 0#32 ∨ l.remain = 0 ∨ joules < l.remain then .next s
      else if l.cls = 3 then .next (s.launchEvent launch 0x05 (leBytes 4 3))
      else .next (((s.demote launch).launchEvent launch 0x05 (leBytes 4 (l.cls.val + 1))).dispatch)

/-! ## WATCHDOG_EXPIRY (R385, R386) -/

/-- Whether a watchdog's interval has passed. -/
def State.watchdogDue (s : State) (n : Fin 256) : Bool :=
  match s.launch? n with
  | some l =>
    match l.timer with
    | some t => decide (t + l.watchdog.toNat * 1000 ≤ s.gptp)
    | none => true
  | none => true

/-- A bound or SAVED task in a hang report: number, context, state, progress, PC and whether it waits. -/
def State.hangBytes (s : State) (t : Task) : List Byte :=
  let x : Option Context := match t.ctx with
    | some c => some (s.ctx c)
    | none => t.saved.head?
  let waits : Nat := match x.map Context.run with
    | some (.syncWait ..) | some (.rejoinWait _) | some (.held _) => 1
    | _ => 0
  leBytes 4 t.num ++ leBytes 4 ((t.ctx.map CtxRef.num).getD 0) ++ leBytes 4 t.state.code ++
    leBytes 4 t.progress.toNat ++
    leBytes 8 ((x.map fun x => (pcAddr x.pc).toNat).getD 0) ++ leBytes 4 waits

/-- A hang report's contents (R386; log 17). -/
def State.hangReport (s : State) (l : Launch) : List Byte :=
  let counts := [TState.pending, .ready, .running, .parked, .saved, .done, .cancelled, .faulted, .orphan].flatMap
    fun st => leBytes 4 (l.tasks.filter fun t => t.state == st).length
  let ts := (l.tasks.filter fun t => t.ctx.isSome && !t.state.retired || t.state == .saved).take 64
  leBytes 8 l.lastSink ++ counts ++ ts.flatMap s.hangBytes

/-- WATCHDOG_EXPIRY: one report, and the timer stops. -/
def execWatchdogExpiry (launch : Fin 256) (s : State) : Out :=
  match s.launch? launch with
  | none => .next s
  | some l =>
    if l.timer.isNone ∨ l.state = .over ∨ !s.watchdogDue launch then .next s
    else .next ((s.launchEvent launch 0x06 (s.hangReport l)).modLaunch launch fun l => { l with timer := none })

/-! ## Teardown (R387, R388) -/

/-- Tasks that no context holds retire CANCELLED at once. -/
def State.cancelUnbound (s : State) (n : Fin 256) : State :=
  match s.launch? n with
  | none => s
  | some l =>
    (l.tasks.filter fun t => match t.state with | .pending | .ready | .saved => true | _ => false).foldl
      (fun s t => s.cancelTask n t.num) s

/-- The leaders bound to a launch. -/
def State.boundTo (s : State) (n : Fin 256) : List CtxRef :=
  match s.launch? n with
  | none => []
  | some l => l.tasks.filterMap fun t => if t.state.retired then none else t.ctx

/-- Teardown begins, or turns to ABORT: tasks that stand where they stop do so at once. -/
def State.tearDown (s : State) (n : Fin 256) (abort : Bool) : State :=
  match s.launch? n with
  | none => s
  | some l =>
    let s := s.setLaunch n { l with teardown := some abort, abortAt := s.cycle
                                    state := if l.state = .queued then .admitted else l.state }
    let s := { s with reserved := s.reserved.filter fun r => r.2.1 != n }
    let s := s.cancelUnbound n
    let s := (s.boundTo n).foldl (fun s c =>
      let s := if s.stopsHere c then s.stopNow c else s.due (.teardownStop c)
      if abort && (s.tornDown c).isSome then s.due (.abortTimeout c) else s) s
    (s.launchOver n).afterFree

/-- A bound context has reached its stop, or, stopped, the end of its entries (R387). -/
def State.stopReady (s : State) (c : CtxRef) : Bool :=
  (s.tornDown c).isNone || s.stopsHere c || (s.ctx c).halted && !s.entriesBusy c

/-- TEARDOWN_STOP. -/
def execTeardownStop (c : CtxRef) (s : State) : Out :=
  if (s.tornDown c).isNone ∨ !s.stopReady c then .next s else .next (s.stopNow c)

/-- The cycles after which ABORT stops a context wherever it is. -/
def abortCycles : Nat := 65536

/-- Whether a context's ABORT has timed out. -/
def State.abortDue (s : State) (c : CtxRef) : Bool :=
  match (s.ctx c).task.bind fun t => s.launch? t.launch with
  | some l => l.teardown != some true || decide (l.abortAt + abortCycles ≤ s.cycle)
  | none => true

/-- ABORT_TIMEOUT: the context issues nothing more, and stops. -/
def execAbortTimeout (c : CtxRef) (s : State) : Out :=
  if s.tornDown c ≠ some true ∨ !s.abortDue c ∨ (s.ctx c).run = .faulted then .next s
  else .next (s.stopNow c)

end Sys2Proof.Machine
end

