-- ==== Sys2Proof/Machine/Link.lean ====
section
/-!
DEFINITION. The host link: datagrams, associations, acknowledgement and retransmission, gated transmission, WRITE,
READ, FENCE, RESET, ABORT and PEER, R164, R387 and R408 to R417 of spec/35_link_platform.md. A message event is the
arrival of one datagram of that message (R409). Associations 8 to 15 are those of peers 0 to 7 (log 17).
-/
namespace Sys2Proof.Machine

/-! ## Associations (R408, R411) -/

/-- The peer of an association's number. -/
def peerOfAssoc (a : Fin 16) : Option (Fin 8) := if 8 ≤ a.val then some (Fin.ofNat 8 (a.val - 8)) else none

/-- An association that is open, as a host's. -/
def State.hostOpen (s : State) (a : Fin 16) : Bool := (s.assocs[a]).any fun x => x.opened && x.peer.isNone

/-- An association that is open, of either kind. -/
def State.isOpen (s : State) (a : Fin 16) : Bool := (s.assocs[a]).any fun x => x.opened

/-- Whether firmware runs: without it the module accepts only HELLO, firmware updates and sensor settings
(R422). -/
def State.firmwareUp (s : State) : Bool := s.fwSlot.isSome

/-- HELLO or a MGMT message wakes the module (R423); the product-key unit's copy is that of its key region. -/
def State.wakeUp (s : State) : State := { s with standby := false }

/-- An association closes: what it has received and not acted on, and what waits at a gate for it, is discarded
(log 17), and a MSG or A2A that waits for its peer has lost it (R417). -/
def State.closeAssoc (s : State) (a : Fin 16) : State :=
  let s := { s with
    assocs := s.assocs.set a none
    inbox := s.inbox.filter fun m => m.1.assoc != a
    ports := s.ports.map fun (p : Port) => { p with waiting := p.waiting.filter fun w => w.2.2.assoc != a } }
  match peerOfAssoc a with
  | some p => s.peerLost p.val
  | none => s

/-! ## Datagrams (R409, R410) -/

/-- A header's fields (Table 1). -/
structure Header where
  major : Nat
  minor : Nat
  type  : BitVec 8
  last  : Bool
  ackv  : Bool
  seq   : Word
  ack   : Word
deriving DecidableEq, Repr

/-- The header of a datagram. -/
def header (bs : List Byte) : Header :=
  ⟨leAt bs 3 1, leAt bs 2 1, BitVec.ofNat 8 (leAt bs 1 1), (leAt bs 0 1).testBit 2, (leAt bs 0 1).testBit 1,
    BitVec.ofNat 32 (leAt bs 4 4), BitVec.ofNat 32 (leAt bs 8 4)⟩

/-- A bad header: of a datagram longer than 9,000 bytes, with a reserved bit, or of another payload length. -/
def headerBad (bs : List Byte) : Bool :=
  decide (bs.length < 24) || decide (9000 < bs.length) || (leAt bs 0 1).testBit 0 || leAt bs 0 1 / 8 != 0 ||
    leAt bs 14 2 != 0 || leAt bs 12 2 + 24 != bs.length

/-- What an arriving datagram is to its association. -/
inductive Receipt where
  /-- A bad header, another major, no open association, or a fragment of another message: dropped. -/
  | dropped
  /-- Received before: dropped, and acknowledged again. -/
  | again
  /-- Ahead of one that has not come. -/
  | early
  /-- A fragment before its message's LAST. -/
  | part
  /-- The LAST fragment: the message's payload. -/
  | whole (payload : List Byte)
deriving DecidableEq, Repr

/-- The fragments of a message so far, which must be of the type given. -/
def Assoc.partOf (x : Assoc) (type : BitVec 8) : Option (List Byte) :=
  match x.part with
  | none => some []
  | some (t, bs) => if t = type then some bs else none

/-- A datagram's place in its association's sequence. -/
def Assoc.receipt (x : Assoc) (bs : List Byte) : Receipt :=
  let h := header bs
  if headerBad bs ∨ !x.opened ∨ h.major ≠ x.major then .dropped
  else if h.seq ≠ x.rxSeq then (if (h.seq - x.rxSeq).msb then .again else .early)
  else
    match x.partOf h.type with
    | none => .dropped
    | some old => if h.last then .whole (old ++ bs.drop 24) else .part

def State.receipt (s : State) (m : FltMsg) : Receipt :=
  match s.assocs[m.assoc] with
  | some x => x.receipt m.payload
  | none => .dropped

/-- Every datagram below a number is acknowledged. -/
def Assoc.acked (x : Assoc) (number : Word) : Assoc :=
  { x with unacked := x.unacked.filter fun u => !decide (0 < (number - u.out.seq).toInt) }

/-- A datagram counts for the next acknowledgement, since a time (R410). -/
def Assoc.counted (x : Assoc) (now : Nat) : Assoc :=
  { x with rxUnacked := x.rxUnacked + 1, rxSince := if x.rxUnacked = 0 then now else x.rxSince }

/-- An association with a datagram received. -/
def Assoc.take (x : Assoc) (bs : List Byte) (now : Nat) : Assoc :=
  let h := header bs
  let y := if h.ackv then x.acked h.ack else x
  match x.receipt bs with
  | .dropped | .early => x
  | .again => y.counted now
  | .part => { y.counted now with
      rxSeq := x.rxSeq + 1#32, part := some (h.type, (x.part.elim [] (·.2)) ++ bs.drop 24) }
  | .whole _ => { y.counted now with rxSeq := x.rxSeq + 1#32, part := none }

/-- The acknowledgement of a datagram received is due, if none was. -/
def State.ackSoon (s : State) (a : Fin 16) (x : Assoc) : State := if x.rxUnacked = 0 then s.due (.ackTimer a) else s

/-- A datagram arrives. A MGMT message wakes the module as it does (R423). -/
def State.received (s : State) (m : FltMsg) : State :=
  match s.assocs[m.assoc] with
  | none => s
  | some x =>
    match x.receipt m.payload with
    | .dropped | .early => s
    | _ =>
      let s := { s with assocs := s.assocs.set m.assoc (some (x.take m.payload s.gptp)) }.ackSoon m.assoc x
      if (header m.payload).type = 0x08#8 ∧ x.peer = none then s.wakeUp else s

/-- Whether a deferred WRITE of an association is still to be performed. -/
def State.writePending (s : State) (a : Fin 16) : Bool :=
  s.deferred.any fun d => match d with
    | .write m .. | .writing m .. => m.assoc == a
    | _ => false

/-- A message may be acted on after those before it in the inbox: messages of an association take effect in
sequence, after its WRITEs (R413); STANDBY acts on none (R423). -/
def State.mayAct (s : State) (before : List (FltMsg × List Byte)) (a : Fin 16) : Bool :=
  !s.standby && !s.writePending a && !before.any fun x => x.1.assoc == a

/-- The messages before a parked one. -/
def parkedBefore (m : FltMsg) (xs : List (FltMsg × List Byte)) : List (FltMsg × List Byte) := xs.takeWhile fun x => x.1 != m

/-- A message that waits unacted. -/
def State.parked (s : State) (m : FltMsg) : Option (List Byte) := (s.inbox.find? fun x => x.1 == m).map (·.2)

/-- The message that is acted on as a datagram of a type arrives, or that waited for its turn, and the state in which
it is; `room` is what else its action waits for. -/
def State.takes (s : State) (type : BitVec 8) (room : State → FltMsg → Bool) (m : FltMsg) : Option (State × FltMsg) :=
  match s.parked m with
  | some bs =>
    let p : FltMsg := { m with payload := bs }
    if s.mayAct (parkedBefore m s.inbox) m.assoc ∧ room s p then
      some ({ s with inbox := s.inbox.filter fun x => x.1 != m }, p)
    else none
  | none =>
    match s.receipt m with
    | .whole bs =>
      let p : FltMsg := { m with payload := bs }
      let u := s.received m
      if (header m.payload).type = type ∧ u.mayAct u.inbox m.assoc ∧ room u p then some (u, p) else none
    | _ => none

/-- A datagram of a type that acts on nothing yet: received, or its message waits, and its event with it (`step`). -/
def State.keeps (s : State) (type : BitVec 8) (m : FltMsg) : State :=
  if (s.parked m).isSome ∨ (header m.payload).type ≠ type then s
  else
    match s.receipt m with
    | .whole bs => { s.received m with inbox := (s.received m).inbox ++ [(m, bs)] }
    | _ => s.received m

/-- A datagram arrives, or a message that waited has its turn. -/
def State.onMessage (s : State) (type : BitVec 8) (room : State → FltMsg → Bool) (m : FltMsg)
    (k : FltMsg → State → Out) : Out :=
  match s.takes type room m with
  | some (u, p) => k p u
  | none => .next (s.keeps type m)

/-- A message's action waits for nothing of its own. -/
def anyTime (_ : State) (_ : FltMsg) : Bool := true

/-- A message of a host's association is acted on, if firmware runs; another has no effect (R417, R422). -/
def State.onHost (s : State) (type : BitVec 8) (m : FltMsg) (k : FltMsg → State → Out) : Out :=
  s.onMessage type anyTime m fun p u => if u.hostOpen p.assoc ∧ u.firmwareUp then k p u else .next u

/-- A reply of one status word. -/
def State.reply (s : State) (m : FltMsg) (type : BitVec 8) (status : Nat) (rest : List Byte) : State :=
  s.send m.assoc type (leBytes 4 status ++ rest)

/-! ## HELLO -/

/-- The host associations that are open. -/
def State.hostCount (s : State) : Nat := (s.assocs.toList.filter fun x => x.any fun x => x.opened && x.peer.isNone).length

/-- An association as HELLO opens it: sequence numbers start at 0, and the HELLO itself has been received. -/
def newAssoc (a : Fin 16) (minor : Nat) : Assoc := ⟨peerOfAssoc a, true, 1, minor, 0#32, 1#32, none, 0, 0, []⟩

/-- A HELLO's payload: the lowest and the highest major, then the highest minor of each (log 17): the minor
the module takes for major 1, if the sender supports it. -/
def helloMinor (bs : List Byte) : Option Nat :=
  let lo := leAt bs 0 1
  let hi := leAt bs 1 1
  if lo ≤ 1 ∧ 1 ≤ hi then some (min 3 (leAt bs (3 - lo) 1)) else none

/-- The payload of the module's own HELLO: major 1, minors to 3. -/
def ownHello : List Byte := [1#8, 1#8, 3#8]

/-- The module opens an association with a peer: its HELLO, number 0; until the answer, nothing else is received. -/
def State.callPeer (s : State) (a : Fin 16) : State :=
  s.sendOn { newAssoc a 3 with opened := false, rxSeq := 0#32 } 0 a 0x01#8 ownHello

/-- An answer to a HELLO that opens no association: major 0, and a minor. -/
def State.refuseHello (s : State) (a : Fin 16) (minor : BitVec 8) : State :=
  s.transmit 0 ⟨a, 0x81#8, 0#8, minor, 0#32, true, [0#8, minor]⟩

/-- HELLO opens an association, or opens it afresh; a fifth host, and an address outside the peer set, get none. -/
def State.hello (s : State) (a : Fin 16) (payload : List Byte) : State :=
  let refused := match peerOfAssoc a with
    | some p => !s.hasPeer p.val
    | none => (s.assocs[a]).isNone && decide (4 ≤ s.hostCount)
  if refused then s.refuseHello a 1#8
  else
    match helloMinor payload with
    | none => (s.closeAssoc a).refuseHello a 0#8
    | some n =>
      let s := s.closeAssoc a
      let x := (newAssoc a n).counted s.gptp
      ({ s with assocs := s.assocs.set a (some x) }.due (.ackTimer a)).send a 0x81#8 [1#8, BitVec.ofNat 8 n]

/-- A peer's answer to the module's HELLO: the association opens with its version, or closes. -/
def State.helloAnswer (s : State) (a : Fin 16) (bs : List Byte) : State :=
  match s.assocs[a] with
  | none => s
  | some x =>
    if x.opened then s
    else if leAt bs 24 1 ≠ 1 then s.closeAssoc a
    else
      let h := header bs
      let x := { x with opened := true, minor := min 3 (leAt bs 25 1), rxSeq := 1#32 }
      let x := (if h.ackv then x.acked h.ack else x).counted s.gptp
      { s with assocs := s.assocs.set a (some x) }.due (.ackTimer a)

/-- HELLO: a HELLO, or the answer to the module's own; each is one datagram, number 0 (log 17). -/
def execHello (m : FltMsg) (s : State) : Out :=
  let h := header m.payload
  if headerBad m.payload ∨ !h.last ∨ h.seq ≠ 0#32 then .next s
  else if h.type = 0x01#8 then .next (s.wakeUp.hello m.assoc (m.payload.drop 24))
  else if h.type = 0x81#8 then .next (s.helloAnswer m.assoc m.payload)
  else .next s

/-! ## Acknowledgement and retransmission (R410) -/

/-- The module's acknowledgement is due: 16 datagrams, or 20 µs. -/
def State.ackDue (s : State) (a : Fin 16) : Bool :=
  match s.assocs[a] with
  | some x => x.rxUnacked == 0 || decide (16 ≤ x.rxUnacked) || decide (x.rxSince + 20000 ≤ s.gptp)
  | none => true

/-- ACK_TIMER: a datagram with ACKV and the number below which everything has come; one that carries no message has
type 0 and takes no number (log 17). -/
def execAckTimer (assoc : Fin 16) (s : State) : Out :=
  match s.assocs[assoc] with
  | none => .next s
  | some x =>
    if x.rxUnacked = 0 ∨ !s.ackDue assoc then .next s
    else
      .next ({ s with assocs := s.assocs.set assoc (some { x with rxUnacked := 0 }) }.transmit 0
        ⟨assoc, 0x00#8, BitVec.ofNat 8 x.major, BitVec.ofNat 8 x.minor, x.txSeq, true, []⟩)

/-- ACKNOWLEDGEMENT: every datagram below the number has been received at the far end. -/
def execAcknowledgement (assoc : Fin 16) (number : Nat) (s : State) : Out :=
  match s.assocs[assoc] with
  | none => .next s
  | some x => .next { s with assocs := s.assocs.set assoc (some (x.acked (BitVec.ofNat 32 number))) }

/-- Datagrams that no acknowledgement has covered for 100 µs. -/
def Unacked.late (u : Unacked) (now : Nat) : Bool := u.sentAt.any fun t => decide (t + 100000 ≤ now)

/-- A retransmission is due. -/
def State.retransmitDue (s : State) (a : Fin 16) : Bool :=
  match s.assocs[a] with
  | some x => x.unacked.isEmpty || x.unacked.any (·.late s.gptp)
  | none => true

/-- RETRANSMIT_TIMEOUT: the late datagrams again, in their own kinds of traffic; after 64 times for one, the link is
lost. -/
def execRetransmitTimeout (assoc : Fin 16) (s : State) : Out :=
  match s.assocs[assoc] with
  | none => .next s
  | some x =>
    let late := x.unacked.filter (·.late s.gptp)
    if x.unacked.isEmpty ∨ late.isEmpty then .next s
    else if late.any fun u => decide (64 ≤ u.retries) then .next (s.closeAssoc assoc)
    else
      let again (u : Unacked) : Unacked := if u.late s.gptp then { u with retries := u.retries + 1, sentAt := none } else u
      let s := { s with assocs := s.assocs.set assoc (some { x with unacked := x.unacked.map again }) }
      let s := late.foldl (fun s u => s.transmit u.kind u.out) s
      .next (s.due (.retransmitTimeout assoc))

/-! ## Gated transmission (R416) -/

/-- The gates open at an offset in a cycle: those of its entry, and of the last one after the list's end. -/
def gatesAt : List (BitVec 8 × Nat) → Nat → BitVec 8
  | [], _ => BitVec.allOnes 8
  | [(g, _)], _ => g
  | (g, n) :: rest, t => if t < n then g else gatesAt rest (t - n)

/-- Whether a queue's gate is open now; before the base time every gate is. -/
def Port.open_ (p : Port) (q : Fin 8) (now : Nat) : Bool :=
  p.gates.isEmpty || decide (now < p.base) || (gatesAt p.gates ((now - p.base) % max p.period 1)).getLsbD q.val

/-- TSN_GATE_TRANSMIT: the first datagram that waits in the queue leaves. -/
def execTsnGateTransmit (port : Fin 2) (queue : Fin 8) (s : State) : Out :=
  let p := s.ports[port]
  if !p.open_ queue s.gptp then .next s
  else
    match p.waiting.find? fun w => w.1 == queue with
    | none => .next s
    | some w =>
      .next ({ s with ports := s.ports.set port { p with waiting := p.waiting.erase w } }.leave port w.2.1 w.2.2)

/-! ## WRITE and READ (R164, R413) -/

/-- A locator's fields. -/
structure Locator where
  space  : Nat
  stream : Bool
  handle : Nat
  addr   : Nat
  count  : Nat
deriving DecidableEq, Repr

/-- The locator of a payload. -/
def locator (bs : List Byte) : Locator :=
  ⟨bits (leAt bs 0 4) 0 2, (leAt bs 0 4).testBit 2, leAt bs 4 4, leAt bs 8 8, leAt bs 16 4⟩

/-- A malformed WRITE or READ. -/
def locatorBad (write : Bool) (bs : List Byte) : Bool :=
  let x := locator bs
  decide (bs.length < 24) || x.space == 3 || leAt bs 0 4 / 8 != 0 || write && x.stream || x.space != 0 && x.handle != 0 ||
    x.addr / 2 ^ 48 != 0 || leAt bs 20 4 != 0 ||
    if write then x.count != bs.length - 24 else x.count == 0 || decide (8192 < x.count) || bs.length != 24

/-- Bytes of DRAM. -/
def dramSize : Nat := 2 ^ 38

/-- The physical pieces of a span, by the tables alone: a host message asks no permission (log 17). -/
def State.hostPieces (s : State) : Nat → Nat → Nat → Option (List (Nat × Nat))
  | 0, _, _ => some []
  | pages + 1, va, n =>
    if n = 0 then some []
    else
      let len := min n (65536 - va % 65536)
      match s.walk va with
      | .leaf e => (s.hostPieces pages (va + len) (n - len)).map fun ps => (e.phys va, len) :: ps
      | _ => none

/-- The lines of the table entries that such a translation reads are used (R145, R405). -/
def State.walkedSpan (s : State) : Nat → Nat → Nat → State
  | 0, _, _ => s
  | pages + 1, va, n =>
    if n = 0 then s
    else
      let len := min n (65536 - va % 65536)
      match s.walk va with
      | .leaf _ => (s.walked va).walkedSpan pages (va + len) (n - len)
      | _ => s.walked va

/-- Bytes of a model context's batch table: 64 entries of 64 bytes at the base that its control word holds (R359, R368).
DESIGN CHOICE: a control word of 0 names no table (log 17). -/
def State.inBatch (s : State) (va n : Nat) : Bool :=
  s.seatCtl.any fun w => w != 0#64 && overlap va n (w.toNat % 2 ^ 48) 4096

/-- Bytes that no handle reaches: translation tables, the save pool, the residency unit's areas, the product-key
regions and batch tables (R413; log 17). -/
def State.closedToHandles (s : State) (va : Nat) (ps : List (Nat × Nat)) (n : Nat) : Bool :=
  s.inUnitArea va n || s.inPk va n || s.inBatch va n || ps.any fun p => s.inTables p.1 p.2

/-- The virtual address that a locator of space 0 or 1 names, unless it lies beyond its handle or the address space, or
is a pipe's. -/
def State.locVa (s : State) (x : Locator) : Option Nat :=
  let va := match x.space with
    | 0 => (lookupNat s.handles x.handle).bind fun h => if h.length < x.addr + x.count then none else some (h.base + x.addr)
    | 1 => some x.addr
    | _ => none
  va.filter fun va => decide (va + x.count ≤ 2 ^ 48) && !s.inPipe va x.count

/-- The physical pieces that a locator names, or none where an address does not exist. -/
def State.located (s : State) (x : Locator) : Option (List (Nat × Nat)) :=
  if x.space = 0 ∨ x.space = 1 then
    (s.locVa x).bind fun va =>
      (s.hostPieces (x.count / 65536 + 2) va x.count).filter fun ps => x.space == 1 || !s.closedToHandles va ps x.count
  else if dramSize < x.addr + x.count then none
  else some [(x.addr, x.count)]

/-- The walks that locating takes. -/
def State.locWalks (s : State) (x : Locator) : State :=
  (s.locVa x).elim s fun va => s.walkedSpan (x.count / 65536 + 2) va x.count

/-- The units of pieces that are single-copy atomic, each with its offset in the whole, its address and its length
(R147). -/
def hostUnits : Nat → List (Nat × Nat) → List (Nat × Nat × Nat)
  | _, [] => []
  | o, (pa, n) :: ps => ((alignedUnits 8 pa n).map fun u => (o + u.1, pa + u.1, u.2)) ++ hostUnits (o + n) ps

/-- The handle that a locator names. -/
def Locator.named (x : Locator) : Option Nat := if x.space = 0 then some x.handle else none

/-- A WRITE has been performed; the host's of a POISONED handle ends that (R38). -/
def State.writeDone (s : State) (m : FltMsg) : State :=
  let x := locator m.payload
  let s := if x.space = 0 ∧ peerOfAssoc m.assoc = none then
      { s with handles := s.handles.map fun (h : Nat × Handle) =>
          if h.1 = x.handle then (h.1, { h.2 with poisoned := false }) else h }
    else s
  s.reply m 0x83#8 0 []

/-- One unit of a WRITE is written; which one comes next is an open choice (R147; log 5). -/
def State.writeUnit (s : State) (m : FltMsg) (h : Option Nat) (todo : List (Nat × Nat × Nat)) : State :=
  let (n, s) := s.choose todo.length
  match todo[n]? with
  | none => s.writeDone m
  | some u =>
    let s := s.writeHome u.2.1 ((m.payload.drop (24 + u.1)).take u.2.2)
    let rest := todo.eraseIdx n
    if rest = [] then s.writeDone m
    else { s with deferred := s.deferred ++ [Deferred.writing m h rest] }.due (.writeDeferredStart m.assoc m.msgId)

/-- A WRITE is performed, whole or unit by unit, an open choice (R147; log 5). -/
def State.performWrite (s : State) (m : FltMsg) : State :=
  let x := locator m.payload
  match s.located x with
  | none => (s.locWalks x).reply m 0x83#8 1 []
  | some ps =>
    let (c, s) := (s.locWalks x).choose 2
    if c = 1 then s.writeUnit m x.named (hostUnits 0 ps)
    else (s.putPieces ps (m.payload.drop 24)).writeDone m

/-- A READ's reply with its bytes. -/
def State.readDone (s : State) (m : FltMsg) (bs : List Byte) : State :=
  s.sendAs (locator m.payload).stream m.assoc 0x84#8 (leBytes 4 0 ++ bs)

/-- One unit of a READ is read; which one comes next is an open choice (R147; log 5). -/
def State.readUnit (s : State) (m : FltMsg) (h : Option Nat) (got : List (Nat × Byte)) (todo : List (Nat × Nat × Nat)) : State :=
  let (n, s) := s.choose todo.length
  match todo[n]? with
  | none => s.readDone m []
  | some u =>
    let (bs, s) := s.readHome 0#8 u.2.1 u.2.2
    let got := got ++ bs.zipIdx.map fun b => (u.1 + b.2, b.1)
    let rest := todo.eraseIdx n
    if rest = [] then s.readDone m (gathered got 0 (locator m.payload).count)
    else { s with deferred := s.deferred ++ [Deferred.reading m h got rest] }.due (.readDeferredStart m.assoc m.msgId)

/-- A READ is performed, whole or unit by unit, an open choice (R147; log 5). Bytes with an uncorrectable error give
status 1 (log 17). -/
def State.performRead (s : State) (m : FltMsg) : State :=
  let x := locator m.payload
  match s.located x with
  | none => (s.locWalks x).sendAs x.stream m.assoc 0x84#8 (leBytes 4 1)
  | some ps =>
    if ps.any fun p => s.isBad .dram p.1 p.2 then (s.locWalks x).sendAs x.stream m.assoc 0x84#8 (leBytes 4 1)
    else
      let (c, s) := (s.locWalks x).choose 2
      if c = 1 then s.readUnit m x.named [] (hostUnits 0 ps)
      else
        let (bs, s) := s.readPieces 0#8 ps
        s.readDone m bs

/-- The launches of a handle that have been admitted and have not retired. -/
def State.launchesOn (s : State) (h : Nat) : List (Fin 256) :=
  (s.launches.map (·.2)).filterMap fun l =>
    if (l.state == .admitted || l.state == .running) && l.handles.any (fun y => y.1 == h) then some l.num else none

/-- WRITE: at once, or deferred while launches read or write the handle. -/
def execWrite (m : FltMsg) (s : State) : Out :=
  s.onMessage 0x03#8 anyTime m fun m s =>
    if !s.firmwareUp then .next s
    else if locatorBad true m.payload then .next (s.reply m 0x83#8 2 [])
    else
      let x := locator m.payload
      let waits := if x.space = 0 then s.launchesOn x.handle else []
      if waits = [] then .next (s.performWrite m)
      else
        .next ({ s with deferred := s.deferred ++ [Deferred.write m x.handle waits] }.due (.writeDeferredStart m.assoc m.msgId))

/-- An earlier deferred WRITE of a handle. -/
def writesTo (h : Nat) : Deferred → Bool
  | .write _ h' _ => h' == h
  | .writing _ h' _ => h' == some h
  | _ => false

/-- READ: at once, or deferred while the handle's last writer has not retired. -/
def execRead (m : FltMsg) (s : State) : Out :=
  s.onHost 0x04#8 m fun m s =>
    if locatorBad false m.payload then .next (s.sendAs (locator m.payload).stream m.assoc 0x84#8 (leBytes 4 2))
    else
      let x := locator m.payload
      let writer := if x.space = 0 then ((lookupNat s.handles x.handle).bind (·.writer)).toList else []
      if writer = [] ∧ !(x.space == 0 && s.deferred.any (writesTo x.handle)) then .next (s.performRead m)
      else
        .next ({ s with deferred := s.deferred ++ [Deferred.read m x.handle writer] }.due (.readDeferredStart m.assoc m.msgId))

/-- A deferred message's association and number. -/
def Deferred.key : Deferred → Fin 16 × Nat
  | .write m _ _ | .read m _ _ | .writing m _ _ | .reading m _ _ _ | .invalidate m _ _ | .fence m _ _ _ => (m.assoc, m.msgId)

/-- The deferred message of an association and number, with those before it. -/
def findDeferred (k : Fin 16 × Nat) (p : Deferred → Bool) : List Deferred → Option (List Deferred × Deferred)
  | [] => none
  | d :: ds =>
    if d.key = k ∧ p d then some ([], d) else (findDeferred k p ds).map fun x => (d :: x.1, x.2)

/-- A deferred WRITE or READ that may begin or go on. -/
def deferredReady (before : List Deferred) : Deferred → Bool
  | .write _ _ ws => ws.isEmpty
  | .read _ h ws => ws.isEmpty && !before.any (writesTo h)
  | .writing .. | .reading .. => true
  | _ => false

def Deferred.isWrite : Deferred → Bool
  | .write .. | .writing .. => true
  | _ => false
def Deferred.isRead : Deferred → Bool
  | .read .. | .reading .. => true
  | _ => false

/-- A message whose first units have been moved: it waits for no flush any more. -/
def Deferred.begun : Deferred → Bool
  | .writing .. | .reading .. => true
  | _ => false

/-- Whether a deferred message's start may come, or it is gone. -/
def State.mayStart (s : State) (k : Fin 16 × Nat) (p : Deferred → Bool) : Bool :=
  match findDeferred k p s.deferred with
  | some (before, d) => deferredReady before d && (d.begun || s.flushed)
  | none => true

/-- A deferred message leaves, and launches wait for it no more. -/
def State.dropDeferred (s : State) (k : Fin 16 × Nat) (p : Deferred → Bool) : State :=
  { s with
    deferred := s.deferred.filter fun d => !(d.key == k && p d)
    launches := s.launches.map fun (l : Nat × Launch) => (l.1, { l.2 with waitMsgs := l.2.waitMsgs.filter (· != k) }) }

/-- WRITE_DEFERRED_START. -/
def execWriteDeferredStart (assoc : Fin 16) (msgId : Nat) (s : State) : Out :=
  if !s.mayStart (assoc, msgId) Deferred.isWrite then .next s
  else
    match findDeferred (assoc, msgId) Deferred.isWrite s.deferred with
    | some (_, .write m _ _) => .next ((s.dropDeferred (assoc, msgId) Deferred.isWrite).performWrite m)
    | some (_, .writing m h us) => .next ((s.dropDeferred (assoc, msgId) Deferred.isWrite).writeUnit m h us)
    | _ => .next s

/-- READ_DEFERRED_START. -/
def execReadDeferredStart (assoc : Fin 16) (msgId : Nat) (s : State) : Out :=
  if !s.mayStart (assoc, msgId) Deferred.isRead then .next s
  else
    match findDeferred (assoc, msgId) Deferred.isRead s.deferred with
    | some (_, .read m _ _) => .next ((s.dropDeferred (assoc, msgId) Deferred.isRead).performRead m)
    | some (_, .reading m h got us) => .next ((s.dropDeferred (assoc, msgId) Deferred.isRead).readUnit m h got us)
    | _ => .next s

/-! ## FENCE (R414) -/

/-- The launch numbers that a FENCE names: a count, then one word each (log 17). -/
def fenceNames (bs : List Byte) : List Nat := numsAt bs 4 4 (min (leAt bs 0 4) 16)

/-- What the launches named have issued and not performed: requests, entries and elements. -/
def State.fenceMarks (s : State) (ns : List Nat) : List Nat × List (CtxRef × Word) × List Nat :=
  let mine (t : Option TaskRef) : Bool := t.any fun t => ns.contains t.launch.val
  ((s.reqs.filter fun r => mine r.task && r.kind.isAccess && r.state == .waiting).map (·.id),
   if ns.isEmpty then [] else
    (allCtxs.filter fun c => mine (s.ctx c).task).flatMap fun c =>
      ((s.ctx c).aq.filter AqEntry.isDevWrite).map fun e => (c, e.seq),
   if ns.isEmpty then [] else
    s.cores.toList.flatMap fun k => (k.allElems.filter fun e => mine e.2.task).map fun e => e.2.id)

/-- Whether what a FENCE waits for has performed. -/
def State.fencePerformed (s : State) : Deferred → Bool
  | .fence _ rs es ids =>
    (!s.reqs.any fun r => rs.contains r.id && r.state == .waiting) &&
      (!es.any fun e => (s.ctx e.1).aq.any fun x => x.seq == e.2 && x.isDevWrite) &&
      (ids.isEmpty || !s.cores.any fun k => k.allElems.any fun e => ids.contains e.2.id)
  | _ => true

def Deferred.isFence : Deferred → Bool
  | .fence .. => true
  | _ => false

/-- A deferred message of an association stands among some. -/
def anyOf (a : Fin 16) (ds : List Deferred) : Bool := ds.any fun d => d.key.1 == a

/-- A FENCE that has been acted on waits; it is answered once it has performed and every earlier message of its
association has taken effect. -/
def State.fenceReady (s : State) (m : FltMsg) : Bool :=
  match findDeferred (m.assoc, m.msgId) Deferred.isFence s.deferred with
  | some (before, d) => s.fencePerformed d && !anyOf m.assoc before
  | none => true

/-- FENCE: the module acts on it, and answers it once what it covers has performed. -/
def execFence (m : FltMsg) (s : State) : Out :=
  let k := (m.assoc, m.msgId)
  match findDeferred k Deferred.isFence s.deferred with
  | some (before, d) =>
    if s.fencePerformed d ∧ !anyOf m.assoc before then .next ((s.dropDeferred k Deferred.isFence).reply m 0x85#8 0 [])
    else .next s
  | none =>
    s.onHost 0x05#8 m fun p s =>
      let (rs, es, ids) := s.fenceMarks (fenceNames p.payload)
      let d := Deferred.fence p rs es ids
      if s.fencePerformed d ∧ !anyOf m.assoc s.deferred then .next (s.reply p 0x85#8 0 [])
      else .next ({ s with deferred := s.deferred ++ [d] }.due (.fence m))

/-! ## RESET and ABORT (R387) -/

/-- A teardown message: its word, and the status of its reply. -/
def State.teardownStatus (s : State) (bs : List Byte) : Nat :=
  let w := leAt bs 0 4
  if bs.length ≠ 4 ∨ w / 2 ^ 9 ≠ 0 then 2
  else
    match s.launch? (Fin.ofNat 256 w) with
    | none => 1
    | some l =>
      if l.state = .over then 1
      else
        match l.teardown with
        | none => 0
        | some abort => if !abort && w.testBit 8 then 0 else 3

/-- A teardown message of either mode. -/
def State.teardownMsg (s : State) (m : FltMsg) : State :=
  let st := s.teardownStatus m.payload
  let s := s.reply m 0x87#8 st []
  if st = 0 then s.tearDown (Fin.ofNat 256 (leAt m.payload 0 4)) ((leAt m.payload 0 4).testBit 8) else s

/-- RESET. -/
def execReset (m : FltMsg) (s : State) : Out := s.onHost 0x07#8 m fun m s => .next (s.teardownMsg m)

/-- ABORT: a RESET message with its ABORT bit. -/
def execAbort (m : FltMsg) (s : State) : Out := s.onHost 0x07#8 m fun m s => .next (s.teardownMsg m)

/-! ## PEER and unknown types (R411, R417) -/

/-- A PEER message's payload and bell are written at the home slices, untagged, where this module's tables translate
them with W; the result goes back to the sender (log 17). -/
def State.peerArrives (s : State) (m : FltMsg) : State :=
  let bell := leAt m.payload 16 8
  let (t, s) := s.deliver (leAt m.payload 8 8 % 2 ^ 48) (m.payload.drop 24)
    (if bell = 2 ^ 64 - 1 then none else some (bell % 2 ^ 48))
  s.send m.assoc 0x89#8 (leBytes 8 (leAt m.payload 0 8) ++ leBytes 4 (transCauses t).toNat)

/-- A peer's result of a PEER message (log 17). -/
def State.peerResult (s : State) (p : Fin 8) (m : FltMsg) : State :=
  s.netAnswer (leAt m.payload 0 8) p.val (BitVec.ofNat 4 (leAt m.payload 8 4))

/-- PEER: a peer's payload and bell, or its result of those this module sent. -/
def execPeer (m : FltMsg) (s : State) : Out :=
  match peerOfAssoc m.assoc with
  | none => .next s
  | some p =>
    if (header m.payload).type = 0x89#8 then
      s.onMessage 0x89#8 anyTime m fun m s => .next (if s.firmwareUp then s.peerResult p m else s)
    else s.onMessage 0x09#8 anyTime m fun m s => .next (if s.firmwareUp then s.peerArrives m else s)

/-- A type outside Table 2, or of no reply that the module waits for. -/
def unknownType (t : BitVec 8) : Bool := t != 0x00#8 && t != 0x81#8 && t != 0x89#8 && decide (9 < t.toNat)

/-- A type of Table 2 on which the module does not act where it comes: an EVENT, a HELLO or an answer to one that does
not stand at number 0, and a PEER message or result from a host. -/
def unheeded (h : Header) (a : Fin 16) : Bool :=
  h.type == 0x06#8 || (h.type == 0x01#8 || h.type == 0x81#8) && h.seq != 0#32 ||
    (h.type == 0x09#8 || h.type == 0x89#8) && (peerOfAssoc a).isNone

/-- FLT_UNKNOWN_TYPE: dropped; the event names the type. DEDUCED: a datagram of a known type on which the module does
not act is numbered and acknowledged as every other, and has no effect (R410; log 17). -/
def execFltUnknownType (m : FltMsg) (s : State) : Out :=
  let h := header m.payload
  if !unknownType h.type && !unheeded h m.assoc then .next s
  else
    s.onMessage h.type anyTime m fun _ s =>
      .next (if s.firmwareUp && unknownType h.type then s.moduleEvent 0x0F (leBytes 4 h.type.toNat) else s)

end Sys2Proof.Machine
end

