-- ==== Sys2Proof/Machine/Admission.lean ====
section
/-!
DEFINITION. LAUNCH: the message, the kernel image, templates, dependency patterns, group tables, gangs, and
the checks of admission, R33 to R36, R42, R47, R48, R56 to R58, R100, R374 and R412.
-/
namespace Sys2Proof.Machine

/-! ## The message (R412, Table 3) -/

/-- Word `i` of a byte list, counted in bytes. -/
def w32 (bs : List Byte) (o : Nat) : Nat := leAt bs o 4

/-- The counts that set a payload's length: members, pipes, handle entries, argument bytes. -/
def launchMembers (bs : List Byte) : Nat := bits (w32 bs 32) 29 3
def launchPipes (bs : List Byte) : Nat := bits (w32 bs 32) 25 4
def launchEntries (bs : List Byte) : Nat := bits (w32 bs 32) 0 7
def launchArgs (bs : List Byte) : Nat := bits (w32 bs 12) 0 16

/-- Malformed in framing: no number is taken. -/
def framingBad (bs : List Byte) : Bool :=
  decide (bs.length < 36) || decide (4 < launchMembers bs) || decide (8 < launchPipes bs) ||
    decide (64 < launchEntries bs) || decide (4096 < launchArgs bs) ||
    bs.length != 132 + 8 * launchEntries bs + launchArgs bs

/-- A gang's members: template and task count. -/
def gangMembers (bs : List Byte) : List (BitVec 8 × Nat) :=
  (List.range (launchMembers bs)).map fun i => (BitVec.ofNat 8 (w32 bs (40 + 8 * i)), bits (w32 bs (36 + 8 * i)) 0 28)

/-- The handle list: handle, whether read, whether written. -/
def handleList (bs : List Byte) : List (Nat × Bool × Bool) :=
  (List.range (launchEntries bs)).map fun h =>
    (w32 bs (132 + 8 * h), (w32 bs (136 + 8 * h)).testBit 0, (w32 bs (136 + 8 * h)).testBit 1)

/-- A pipe's fields: name, producer, consumer, push and pop offsets. -/
structure PipeField where
  name     : Nat
  producer : Nat
  consumer : Nat
  push     : Nat
  pop      : Nat
deriving DecidableEq, Repr

def pipeFields (bs : List Byte) : List PipeField :=
  (List.range (launchPipes bs)).map fun p =>
    let w := w32 bs (68 + 8 * p)
    let v := w32 bs (72 + 8 * p)
    ⟨bits w 16 16, bits w 14 2, bits w 12 2, bits v 16 16, bits v 0 16⟩

/-- The progress class: a gang is CONCURRENT whatever its field says (R56). -/
def launchClass (bs : List Byte) : Nat := if launchMembers bs = 0 then bits (w32 bs 0) 22 2 else 2

def launchCount (bs : List Byte) : Nat := bits (w32 bs 8) 0 28
def groupAddr (bs : List Byte) : Nat := leAt bs 24 8

/-- A nonzero reserved field, or a value out of range, in the LAUNCH's own fields (R33, R35, R57). -/
def launchBad (bs : List Byte) : Bool :=
  let w0 := w32 bs 0
  bits w0 22 2 == 3 || bits w0 8 12 != 0 || w32 bs 8 / 2 ^ 28 != 0 || launchCount bs == 0 ||
    groupAddr bs / 2 ^ 48 != 0 || bits (w32 bs 32) 7 18 != 0 ||
    groupAddr bs != 0 && decide (512 < launchCount bs) ||
    (List.range 4).any (fun i => w32 bs (36 + 8 * i) / 2 ^ 28 != 0 || w32 bs (40 + 8 * i) / 2 ^ 8 != 0) ||
    (List.range 8).any (fun p => bits (w32 bs (68 + 8 * p)) 0 12 != 0) ||
    (List.range (launchEntries bs)).any (fun h => w32 bs (136 + 8 * h) / 4 != 0 || w32 bs (136 + 8 * h) % 4 == 0) ||
    launchMembers bs != 0 &&
      (bits w0 0 8 != 0 || launchCount bs != (gangMembers bs).foldl (fun n x => n + x.2) 0)

/-! ## Kernel images and templates (R42, R100) -/

/-- A handle's bytes, where they are resident. -/
def State.handleBytes (s : State) (h : Handle) (o n : Nat) : Option (List Byte) :=
  if h.length < o + n then none
  else match s.resBytes (h.base + o) n with
    | .ok bs => some bs
    | .error _ => none

/-- A kernel image's header, and its template records. -/
structure Image where
  packets : Nat
  code    : Nat
  table   : Nat
  ro      : Nat
  roSize  : Nat
  recs    : List (List Byte)
deriving DecidableEq, Repr

/-- Two areas share a byte. -/
def areasMeet : List (Nat × Nat) → Bool
  | [] => false
  | a :: as => as.any (fun b => overlap a.1 a.2 b.1 b.2) || areasMeet as

/-- A malformed image header, within a buffer of a length. -/
def imageBad (len : Nat) (hdr : List Byte) : Bool :=
  let t := bits (w32 hdr 0) 0 9
  let areas := [(0, 32), (w32 hdr 8, 32 * w32 hdr 4), (w32 hdr 12, 32 * t), (w32 hdr 16, w32 hdr 20)]
  bits (w32 hdr 0) 9 15 != 0 || leAt hdr 24 8 != 0 || t == 0 || decide (256 < t) || w32 hdr 4 == 0 ||
    w32 hdr 8 % 32 != 0 || w32 hdr 12 % 32 != 0 ||
    areasMeet (areas.filter fun a => a.2 != 0) || areas.any fun a => a.2 != 0 && decide (len < a.1 + a.2)

/-- The refusal reasons of Table 3. -/
inductive Refused where
  | version | malformed | image | template | contexts | groups | placement | pipes | poisoned | handle
deriving DecidableEq, Repr

def Refused.code : Refused → Nat
  | .version => 1
  | .malformed => 2
  | .image => 3
  | .template => 4
  | .contexts => 5
  | .groups => 6
  | .placement => 7
  | .pipes => 8
  | .poisoned => 9
  | .handle => 10

/-- A check that gives a reason where it fails. -/
def check (ok : Bool) (r : Refused) : Except Refused Unit := if ok then .ok () else .error r

/-- Checks 2 and 3: the image, with its templates' records. -/
def State.readImage (s : State) (h : Handle) : Except Refused Image :=
  match s.handleBytes h 0 32 with
  | none => .error .image
  | some hdr =>
    if w32 hdr 0 / 2 ^ 24 ≠ 1 then .error .version
    else if imageBad h.length hdr then .error .malformed
    else
      match s.handleBytes h (w32 hdr 12) (32 * bits (w32 hdr 0) 0 9) with
      | none => .error .image
      | some tb =>
        let recs := (List.range (bits (w32 hdr 0) 0 9)).map fun i => (tb.drop (32 * i)).take 32
        if recs.any fun r => decide (w32 hdr 4 ≤ w32 r 4) then .error .malformed
        else .ok ⟨w32 hdr 4, w32 hdr 8, w32 hdr 12, w32 hdr 16, w32 hdr 20, recs⟩

/-- A template record's identifier. -/
def recId (r : List Byte) : BitVec 8 := BitVec.ofNat 8 (bits (w32 r 0) 16 8)

/-- A malformed template (R42, Table 6). -/
def templateBad (r : List Byte) : Bool :=
  bits (w32 r 0) 14 2 == 3 || bits (w32 r 0) 5 9 != 0 || decide (16 < bits (w32 r 0) 0 5) ||
    w32 r 8 % 4096 != 0 || w32 r 8 == 0 || decide (2097152 < w32 r 8) ||
    w32 r 12 % 512 != 0 || decide (w32 r 8 < w32 r 12) || w32 r 16 / 16 != 0 || bits (w32 r 24) 12 19 != 0 ||
    bits (w32 r 24) 0 12 % 8 != 0 || w32 r 28 != 0

/-- A template of its record. -/
def templateOf (r : List Byte) : Template :=
  { id := recId r, width := bits (w32 r 0) 14 2, h := bits (w32 r 0) 0 5, entry := w32 r 4, spsize := w32 r 8
    stack := w32 r 12, control := BitVec.ofNat 4 (w32 r 16), deps := w32 r 20, tilev := (w32 r 24).testBit 31
    tileOff := bits (w32 r 24) 0 12 }

/-! ## Dependency patterns (R374) -/

/-- A rule of a pattern. -/
structure DepRule where
  amt   : Nat
  abs   : Bool
  d     : Nat
  mask  : Nat
  value : Nat
deriving DecidableEq, Repr

/-- The rule at a place of a pattern's bytes. -/
def depRule (bs : List Byte) (n : Nat) : DepRule :=
  let o := 8 + 16 * n
  ⟨bits (w32 bs o) 28 4, (w32 bs o).testBit 27, w32 bs (o + 4), w32 bs (o + 8), w32 bs (o + 12)⟩

/-- A malformed pattern, in its header and its rules. -/
def headBad (hdr : List Byte) : Bool :=
  bits (w32 hdr 0) 8 16 != 0 || w32 hdr 4 != 0 || w32 hdr 0 % 2 ^ 8 == 0 || decide (64 < w32 hdr 0 % 2 ^ 8)
def ruleBad (bs : List Byte) (n : Nat) : Bool :=
  let r := depRule bs n
  r.amt == 0 || bits (w32 bs (8 + 16 * n)) 0 27 != 0 || r.d / 2 ^ 28 != 0 || r.mask / 2 ^ 28 != 0 || r.value / 2 ^ 28 != 0

/-- A template's pattern: its version, and its rules where it is sound. -/
def State.pattern (s : State) (h : Handle) (p : Nat) : Except Refused (List DepRule) :=
  if p = 0 then .ok []
  else
    match s.handleBytes h p 8 with
    | none => .error .malformed
    | some hdr =>
      if w32 hdr 0 / 2 ^ 24 ≠ 1 then .error .version
      else if headBad hdr then .error .malformed
      else
        let n := w32 hdr 0 % 2 ^ 8
        match s.handleBytes h p (8 + 16 * n) with
        | none => .error .malformed
        | some bs => if (List.range n).any (ruleBad bs) then .error .malformed else .ok ((List.range n).map (depRule bs))

/-- A template and its pattern in check 5, where versions come first. -/
def State.checkTemplate (s : State) (h : Handle) (r : List Byte) : Except Refused (Template × List DepRule) :=
  if w32 r 0 / 2 ^ 24 ≠ 1 then .error .version
  else
    match s.pattern h (w32 r 20) with
    | .error .version => .error .version
    | x => if templateBad r then .error .malformed else x.map fun ds => (templateOf r, ds)

/-- The templates that a launch names, in order: any version before any malformed. -/
def State.checkTemplates (s : State) (h : Handle) (rs : List (List Byte)) :
    Except Refused (List (Template × List DepRule)) :=
  let xs := rs.map (s.checkTemplate h)
  if xs.any fun x => match x with | .error .version => true | _ => false then .error .version
  else xs.foldr (fun x acc => match x, acc with
    | .ok a, .ok as => .ok (a :: as)
    | .error e, _ => .error e
    | _, .error e => .error e) (.ok [])

/-- The dependants that a task's rules name, in order. -/
def dependants (rs : List DepRule) (count t : Nat) : List (Nat × Nat) :=
  rs.filterMap fun r =>
    if t &&& r.mask ≠ r.value then none
    else
      let u : Int := if r.abs then r.d else t + toSigned 28 r.d
      if 0 ≤ u ∧ u < count then some (r.amt, u.toNat) else none

/-! ## Tasks -/

/-- A launch's tasks as its members give them: number, member, number within it, template, rules. -/
def taskPlan : Nat → Nat → List (Nat × Template × List DepRule) → List (Nat × Nat × Nat × Template × List DepRule)
  | _, _, [] => []
  | num, m, (n, p, rs) :: rest =>
    (List.range n).map (fun i => (num + i, m, i, p, rs)) ++ taskPlan (num + n) (m + 1) rest

/-- The tasks of a launch, with the counters that its patterns give. -/
def tasksOf (count : Nat) (cls : Fin 4) (ms : List (Nat × Template × List DepRule)) : List Task :=
  let ps := taskPlan 0 0 ms
  let deps := ps.map fun x => dependants x.2.2.2.2 count x.1
  let all := deps.flatMap fun d => d
  (ps.zip deps).map fun x =>
    { num := x.1.1, state := .pending, tmpl := x.1.2.2.2.1.id
      counter := BitVec.ofNat 32 ((all.filter fun d => d.2 == x.1.1).foldl (fun n d => n + d.1) 0)
      arg := 0#48, deps := x.2, overflow := 0#48, tile := 0#48, ctx := none, progress := 0#32, retire := 0#8
      member := x.1.2.1, memTask := x.1.2.2.1, cls := cls, slot := none, saved := [] }

/-! ## Group tables (R47, R48) -/

/-- The group-table image's groups with their line fields, and the named contexts. -/
structure GroupTable where
  groups : List (List Nat × Nat)
  places : List Nat
deriving DecidableEq, Repr

/-- The members of a 512-bit set. -/
def memberSet (bs : List Byte) : List Nat := (List.range 512).filter fun d => (leAt bs (d / 8) 1).testBit (d % 8)

/-- Check 6 on the image's fields: its reserved fields come before its counts (R35). DESIGN CHOICE: a group count outside
1 to 256 is answered GROUPS before the groups' own reserved fields are read, since R47 gives such a body no extent (log
45). -/
def State.readGroups (s : State) (va count : Nat) : Except Refused GroupTable :=
  match s.resBytes va 16 with
  | .error _ => .error .groups
  | .ok hdr =>
    let g := bits (w32 hdr 0) 0 9
    if w32 hdr 0 / 2 ^ 24 ≠ 1 then .error .version
    else if bits (w32 hdr 0) 9 15 ≠ 0 ∨ w32 hdr 4 / 2 ^ 10 ≠ 0 ∨ leAt hdr 8 8 ≠ 0 then .error .malformed
    else if g = 0 ∨ 256 < g then .error .groups
    else
      let n := bits (w32 hdr 4) 0 10
      match s.resBytes va (16 + 72 * g + 2 * n) with
      | .error _ => .error .groups
      | .ok bs =>
        let line (i : Nat) : Nat := w32 bs (16 + 72 * i + 64)
        let place (t : Nat) : Nat := leAt bs (16 + 72 * g + 2 * t) 2
        if (List.range g).any (fun i => line i / 2 ^ 5 != 0 || w32 bs (16 + 72 * i + 68) != 0 ||
              decide (15 < line i) && line i != 31) ||
            (List.range n).any (fun t => place t / 2 ^ 9 != 0) then .error .malformed
        else if n ≠ count then .error .groups
        else .ok ⟨(List.range g).map fun i => (memberSet (bs.drop (16 + 72 * i)), line i), (List.range count).map place⟩

/-- The camps of a group's members. -/
def groupCamps (ms : List Nat) : List Nat := (ms.map (· / 64)).eraseDups

/-- What R48 forbids. -/
def GroupTable.bad (x : GroupTable) : Bool :=
  (List.range 512).any (fun d => decide (4 < (x.groups.filter fun g => g.1.contains d).length)) ||
    x.groups.any fun g =>
      g.1.isEmpty || g.1.any (fun d => !x.places.contains d) ||
        (g.1.map (· / 8)).eraseDups.length != g.1.length ||
        decide (g.2 < 4) && (groupCamps g.1).length != 1

/-- The line with the fewest of the launch's groups among some, the lowest among equals. -/
def fewest (done : List Group) : List LineRef → Option LineRef
  | [] => none
  | l :: ls =>
    let n (x : LineRef) : Nat := (done.filter fun g => g.line == x).length
    match fewest done ls with
    | some b => some (if n l ≤ n b then l else b)
    | none => some l

/-- Lines given to groups in order (R48). -/
def mapLines (done : List Group) : List (List Nat × Nat) → List Group
  | [] => done
  | (ms, line) :: rest =>
    let camp : Option (Fin 8) := match groupCamps ms with | [c] => some (Fin.ofNat 8 c) | _ => none
    let free : List LineRef := match camp with
      | some c => (List.range 4).map fun i => ⟨some c, Fin.ofNat 16 i⟩
      | none => (List.range 12).map fun i => ⟨none, Fin.ofNat 16 (4 + i)⟩
    let l : LineRef :=
      if line = 31 then (fewest done free).getD ⟨none, 4⟩
      else if line < 4 then ⟨camp, Fin.ofNat 16 line⟩ else ⟨none, Fin.ofNat 16 line⟩
    mapLines (done ++ [⟨ms, l⟩]) rest

/-! ## The checks of R35, in order -/

/-- A gang binding that breaks R58. -/
def pipesBad (bs : List Byte) : Bool :=
  (pipeFields bs).any fun p =>
    decide (launchMembers bs ≤ p.producer) || decide (launchMembers bs ≤ p.consumer) || p.producer == p.consumer

/-- Check 8, entry by entry. -/
def State.checkHandles (s : State) : List (Nat × Bool × Bool) → Except Refused Unit
  | [] => .ok ()
  | h :: hs =>
    match lookupNat s.handles h.1 with
    | none => .error .handle
    | some x => if x.poisoned then .error .poisoned else s.checkHandles hs

/-- The launch that a message gives, or the reason of its refusal. -/
def State.build (s : State) (n : Fin 256) (m : FltMsg) : Except Refused Launch :=
  let bs := m.payload
  if w32 bs 0 / 2 ^ 24 ≠ 1 then .error .version
  else if launchBad bs then .error .malformed
  else
    match lookupNat s.handles (w32 bs 4) with
    | none => .error .image
    | some h =>
      match s.readImage h with
      | .error e => .error e
      | .ok img =>
        let count := launchCount bs
        let gang := gangMembers bs
        let ids := if gang = [] then [BitVec.ofNat 8 (w32 bs 0)] else gang.map (·.1)
        let recs := ids.map fun id => img.recs.find? fun r => recId r == id
        if recs.any (·.isNone) then .error .template
        else
          match s.checkTemplates h (recs.filterMap fun r => r) with
          | .error e => .error e
          | .ok ts =>
            let table : Except Refused GroupTable := if groupAddr bs = 0 then .ok ⟨[], []⟩ else s.readGroups (groupAddr bs) count
            match table with
            | .error e => .error e
            | .ok g =>
              if g.bad then .error .groups
              else if pipesBad bs then .error .pipes
              else
                match s.checkHandles (handleList bs) with
                | .error e => .error e
                | .ok () =>
                  let counts := if gang = [] then [count] else gang.map (·.2)
                  let ms := (counts.zip ts).map fun x => (x.1, x.2.1, x.2.2)
                  let cls : Fin 4 := Fin.ofNat 4 (bits (w32 bs 0) 20 2)
                  let templates := img.recs.filterMap fun r =>
                    if w32 r 0 / 2 ^ 24 = 1 ∧ !templateBad r then some (templateOf r) else none
                  .ok {
                    num := n, assoc := m.assoc, state := .queued, order := s.nextId, image := w32 bs 4
                    code := h.base + img.code, pclass := Fin.ofNat 3 (launchClass bs), cls
                    budget := BitVec.ofNat 32 (w32 bs 16), used := 0, remain := w32 bs 16
                    watchdog := BitVec.ofNat 32 (w32 bs 20), timer := none, started := false, lastSink := s.gptp, argBase := 0#48
                    stride := bits (w32 bs 12) 16 16, count, templates, members := gang
                    groups := mapLines [] g.groups, places := g.places, placed := groupAddr bs != 0
                    pipes := (pipeFields bs).map fun p =>
                      ⟨BitVec.ofNat 16 p.name, BitVec.ofNat 48 p.push, BitVec.ofNat 48 p.pop, []⟩
                    handles := handleList bs, args := bs.drop (132 + 8 * launchEntries bs), area := 0#48
                    tasks := tasksOf count cls ms, teardown := none, abortAt := 0, saveBase := 0, saveImages := 0
                    waits := [], waitMsgs := [] }

/-- Placed tasks on contexts that cannot take their template's width (check 9). -/
def Launch.misplaced (l : Launch) : Bool :=
  l.placed && l.tasks.any fun t =>
    match l.template? t.tmpl, l.places[t.num]? with
    | some p, some d => d / 8 % p.cores != 0
    | _, _ => true

/-- Checks 9 and 10. -/
def State.checkRoom (s : State) (n : Fin 256) (l : Launch) : Except Refused Launch :=
  if l.misplaced then .error .placement
  else if l.pclass = 2 ∧ !s.idle.plans n l then .error .contexts
  else .ok l

/-! ## LAUNCH -/

/-- The lowest free launch number (R412). -/
def State.freeLaunch (s : State) : Option (Fin 256) :=
  (List.finRange 256).find? fun n => match s.launch? n with | some l => l.state == .over | none => true

/-- A launch's task-record area: where the command processor puts it is an open choice (logs 5, 12). -/
def State.chooseArea (s : State) (n : Fin 256) : Nat × State :=
  let (k, s) := s.choose 65536
  (2 ^ 47 + n.val * 2 ^ 36 + (k + 1) * 65536, s)

/-- A LAUNCH with a number: checked, and admitted, or queued for its contexts, or refused. -/
def State.takeLaunch (s : State) (n : Fin 256) (m : FltMsg) : State :=
  let s := s.send m.assoc 0x82#8 (leBytes 4 n.val)
  let s := { s with launches := eraseNat n.val s.launches }
  match (s.build n m).bind (s.checkRoom n) with
  | .error r => s.send m.assoc 0x06#8 (eventBytes 0x01 (some n) s.gptp (leBytes 4 r.code))
  | .ok l =>
    let (_, s) := s.newId
    let (area, s) := s.chooseArea n
    let s := s.setLaunch n l
    if l.pclass = 2 then s.reserveAll.due (.admitLaunch n (BitVec.ofNat 48 area)) else s.takeOn n area

/-- A LAUNCH waits unacted while it needs a number and none is free (R412). -/
def launchRoom (s : State) (m : FltMsg) : Bool :=
  !s.hostOpen m.assoc || !s.firmwareUp || framingBad m.payload || s.freeLaunch.isSome

/-- LAUNCH. -/
def execLaunch (m : FltMsg) (s : State) : Out :=
  s.onMessage 0x02#8 launchRoom m fun m s =>
    if !s.hostOpen m.assoc ∨ !s.firmwareUp then .next s
    else if framingBad m.payload then .next (s.send m.assoc 0x82#8 (leBytes 4 0xFFFFFFFF))
    else
      match s.freeLaunch with
      | none => .next s
      | some n => .next (s.takeLaunch n m)

end Sys2Proof.Machine
end

