-- ==== Sys2Proof/Machine/Digest.lean ====
section
/-!
DEFINITION. SHA-512 and RSA-4096, which R421 and R422 of spec/35_link_platform.md name for the firmware slots and the
Attest setting. PRESUMED: SHA-512 as FIPS 180-4 defines it (log 10).
-/
namespace Sys2Proof.Machine

/-! ## SHA-512 -/

/-- The eight words of a digest under way. -/
structure ShaState where
  a : DWord
  b : DWord
  c : DWord
  d : DWord
  e : DWord
  f : DWord
  g : DWord
  h : DWord
deriving DecidableEq, Repr

/-- The first words: the fractions of the square roots of the first eight primes. -/
def shaStart : ShaState :=
  ⟨0x6a09e667f3bcc908#64, 0xbb67ae8584caa73b#64, 0x3c6ef372fe94f82b#64, 0xa54ff53a5f1d36f1#64,
   0x510e527fade682d1#64, 0x9b05688c2b3e6c1f#64, 0x1f83d9abfb41bd6b#64, 0x5be0cd19137e2179#64⟩

/-- The 80 round constants: the fractions of the cube roots of the first eighty primes. -/
def shaK0 : List DWord :=
  [0x428a2f98d728ae22#64, 0x7137449123ef65cd#64, 0xb5c0fbcfec4d3b2f#64, 0xe9b5dba58189dbbc#64, 0x3956c25bf348b538#64,
   0x59f111f1b605d019#64, 0x923f82a4af194f9b#64, 0xab1c5ed5da6d8118#64, 0xd807aa98a3030242#64, 0x12835b0145706fbe#64,
   0x243185be4ee4b28c#64, 0x550c7dc3d5ffb4e2#64, 0x72be5d74f27b896f#64, 0x80deb1fe3b1696b1#64, 0x9bdc06a725c71235#64,
   0xc19bf174cf692694#64, 0xe49b69c19ef14ad2#64, 0xefbe4786384f25e3#64, 0x0fc19dc68b8cd5b5#64, 0x240ca1cc77ac9c65#64]
def shaK1 : List DWord :=
  [0x2de92c6f592b0275#64, 0x4a7484aa6ea6e483#64, 0x5cb0a9dcbd41fbd4#64, 0x76f988da831153b5#64, 0x983e5152ee66dfab#64,
   0xa831c66d2db43210#64, 0xb00327c898fb213f#64, 0xbf597fc7beef0ee4#64, 0xc6e00bf33da88fc2#64, 0xd5a79147930aa725#64,
   0x06ca6351e003826f#64, 0x142929670a0e6e70#64, 0x27b70a8546d22ffc#64, 0x2e1b21385c26c926#64, 0x4d2c6dfc5ac42aed#64,
   0x53380d139d95b3df#64, 0x650a73548baf63de#64, 0x766a0abb3c77b2a8#64, 0x81c2c92e47edaee6#64, 0x92722c851482353b#64]
def shaK2 : List DWord :=
  [0xa2bfe8a14cf10364#64, 0xa81a664bbc423001#64, 0xc24b8b70d0f89791#64, 0xc76c51a30654be30#64, 0xd192e819d6ef5218#64,
   0xd69906245565a910#64, 0xf40e35855771202a#64, 0x106aa07032bbd1b8#64, 0x19a4c116b8d2d0c8#64, 0x1e376c085141ab53#64,
   0x2748774cdf8eeb99#64, 0x34b0bcb5e19b48a8#64, 0x391c0cb3c5c95a63#64, 0x4ed8aa4ae3418acb#64, 0x5b9cca4f7763e373#64,
   0x682e6ff3d6b2b8a3#64, 0x748f82ee5defb2fc#64, 0x78a5636f43172f60#64, 0x84c87814a1f0ab72#64, 0x8cc702081a6439ec#64]
def shaK3 : List DWord :=
  [0x90befffa23631e28#64, 0xa4506cebde82bde9#64, 0xbef9a3f7b2c67915#64, 0xc67178f2e372532b#64, 0xca273eceea26619c#64,
   0xd186b8c721c0c207#64, 0xeada7dd6cde0eb1e#64, 0xf57d4f7fee6ed178#64, 0x06f067aa72176fba#64, 0x0a637dc5a2c898a6#64,
   0x113f9804bef90dae#64, 0x1b710b35131c471b#64, 0x28db77f523047d84#64, 0x32caab7b40c72493#64, 0x3c9ebe0a15c9bebc#64,
   0x431d67c49c100d4c#64, 0x4cc5d4becb3e42b6#64, 0x597f299cfc657e2a#64, 0x5fcb6fab3ad6faec#64, 0x6c44198c4a475817#64]
def shaK : List DWord := shaK0 ++ shaK1 ++ shaK2 ++ shaK3

/-- Big-endian bytes of a number. -/
def beBytes (n x : Nat) : List Byte := (leBytes n x).reverse

/-- The message in whole blocks: a bit of 1, zeros, and its length in bits. -/
def shaPadded (bs : List Byte) : List Byte :=
  bs ++ [0x80#8] ++ List.replicate ((239 - bs.length % 128) % 128) 0#8 ++ beBytes 16 (8 * bs.length)

/-- The words of a block of bytes. -/
def shaWords : Nat → List Byte → List DWord
  | 0, _ => []
  | n + 1, bs => BitVec.ofNat 64 (leNat (bs.take 8).reverse) :: shaWords n (bs.drop 8)

/-- The next word of a block's schedule, from its last sixteen, newest first. -/
def shaNext (ws : List DWord) : DWord :=
  let w (i : Nat) : DWord := ws.getD (i - 1) 0#64
  let s0 (x : DWord) : DWord := x.rotateRight 1 ^^^ x.rotateRight 8 ^^^ (x >>> 7)
  let s1 (x : DWord) : DWord := x.rotateRight 19 ^^^ x.rotateRight 61 ^^^ (x >>> 6)
  s1 (w 2) + w 7 + s0 (w 15) + w 16

/-- A schedule of further words, newest first. -/
def shaSchedule : Nat → List DWord → List DWord
  | 0, ws => ws
  | n + 1, ws => shaSchedule n (shaNext ws :: ws)

/-- One round. -/
def ShaState.round (x : ShaState) (k w : DWord) : ShaState :=
  let s1 := x.e.rotateRight 14 ^^^ x.e.rotateRight 18 ^^^ x.e.rotateRight 41
  let ch := (x.e &&& x.f) ^^^ (~~~ x.e &&& x.g)
  let t1 := x.h + s1 + ch + k + w
  let s0 := x.a.rotateRight 28 ^^^ x.a.rotateRight 34 ^^^ x.a.rotateRight 39
  let maj := (x.a &&& x.b) ^^^ (x.a &&& x.c) ^^^ (x.b &&& x.c)
  ⟨t1 + (s0 + maj), x.a, x.b, x.c, x.d + t1, x.e, x.f, x.g⟩

def shaRounds : List DWord → List DWord → ShaState → ShaState
  | k :: ks, w :: ws, x => shaRounds ks ws (x.round k w)
  | _, _, x => x

/-- One block of 128 bytes. -/
def ShaState.block (x : ShaState) (bs : List Byte) : ShaState :=
  let y := shaRounds shaK (shaSchedule 64 (shaWords 16 bs).reverse).reverse x
  ⟨x.a + y.a, x.b + y.b, x.c + y.c, x.d + y.d, x.e + y.e, x.f + y.f, x.g + y.g, x.h + y.h⟩

def shaBlocks : Nat → List Byte → ShaState → ShaState
  | 0, _, x => x
  | n + 1, bs, x => shaBlocks n (bs.drop 128) (x.block (bs.take 128))

/-- SHA-512: 64 bytes. -/
def sha512 (bs : List Byte) : List Byte :=
  let p := shaPadded bs
  let x := shaBlocks (p.length / 128) p shaStart
  [x.a, x.b, x.c, x.d, x.e, x.f, x.g, x.h].flatMap fun w => beBytes 8 w.toNat

/-! ## RSA-4096 -/

/-- A power modulo a number, by the exponent's bits. -/
def powMod (m : Nat) : Nat → Nat → Nat → Nat → Nat
  | 0, _, _, acc => acc
  | n + 1, b, e, acc => powMod m n (b * b % m) (e / 2) (if e.testBit 0 then acc * b % m else acc)

/-- RSA's function with a key of 4,096 bits. -/
def rsa (x e m : Nat) : Nat := powMod m 4096 (x % m) e (1 % m)

/-- A key's primes (R421). -/
structure RsaKey where
  p : Nat
  q : Nat
deriving DecidableEq, Repr

/-- A factor of an RSA-4096 modulus: of 2,048 bits, odd, and so large that the product of two has 4,096 bits. -/
def rsaFactor (x : BitVec 2045) : Nat := 3 * 2 ^ 2046 + 2 * x.toNat + 1
def RsaKey.ofBits (x : BitVec 2045 × BitVec 2045) : RsaKey := ⟨rsaFactor x.1, rsaFactor x.2⟩

/-- The device's key, and the one with which the firmware certifies it (log 10). -/
def deviceKey : RsaKey := RsaKey.ofBits Config.deviceBits
def firmwareKey : RsaKey := RsaKey.ofBits Config.firmwareBits

/-- The public exponent (R421, setting 0x0F). -/
def rsaExponent : Nat := 65537

/-- A key's modulus, and the number modulo which its exponents count. -/
def RsaKey.modulus (k : RsaKey) : Nat := k.p * k.q
def RsaKey.order (k : RsaKey) : Nat := Nat.lcm (k.p - 1) (k.q - 1)

/-- The private exponent: the inverse of the public one. -/
def RsaKey.secret (k : RsaKey) : Nat :=
  (((List.range rsaExponent).find? fun i => (1 + k.order * i) % rsaExponent == 0).map fun i =>
    (1 + k.order * i) / rsaExponent).getD 0

/-- The RSA-4096 signature of bytes over their SHA-512 digest; how a digest is padded is open (log 10). -/
def RsaKey.sign (k : RsaKey) (bs : List Byte) : Nat := rsa (Config.rsaPad (sha512 bs)).toNat k.secret k.modulus

/-- Whether a signature of bytes verifies with a public RSA-4096 key: a modulus has 4,096 bits. -/
def rsaVerifies (e m signature : Nat) (bs : List Byte) : Bool :=
  decide (2 ^ 4095 ≤ m) && decide (m < 2 ^ 4096) && decide (signature < m) &&
    rsa signature e m == (Config.rsaPad (sha512 bs)).toNat

end Sys2Proof.Machine
end

