-- ==== Sys2Proof/Machine/Management.lean ====
section
/-!
DEFINITION. The MGMT settings, R421 and Tables 5 and 6 of spec/35_link_platform.md, with R140, R299, R304, R319,
R332, R377, R383, R404 to R407, R398, R416, R417, R422 and R423 for what each changes.
-/
namespace Sys2Proof.Machine

/-! ## Payloads and replies (R421) -/

/-- The fields of a payload as one number, whose bit 0 is bit 0 of offset 8. -/
def mgmtFields (bs : List Byte) : Nat := leNat (bs.drop 8)

/-- The field of a bit and a width. -/
def mgmtField (bs : List Byte) (lo n : Nat) : Nat := bits (mgmtFields bs) lo n

/-- A malformed payload: in its header, in its length, or in a bit that Table 6 does not assign. -/
def mgmtBad (code need : Nat) (fields : List (Nat × Nat)) (bs : List Byte) : Bool :=
  decide (bs.length < need) || leAt bs 3 1 != 1 || leAt bs 2 1 != code || leAt bs 0 2 + 8 != bs.length ||
    leAt bs 4 4 != 0 || strayBits (mgmtFields bs) fields

/-- The reply 0x88: the payload's own header with the status in place of the count's low byte, and its reply fields. A
code that no setting has is malformed, and answered with that code. -/
def State.answer (s : State) (m : FltMsg) (status : Nat) (fields : List Byte) : State :=
  s.send m.assoc 0x88#8 (leBytes 4 (2 ^ 24 + leAt m.payload 2 1 * 2 ^ 16 + leAt m.payload 1 1 * 2 ^ 8 + status) ++
    leBytes 4 fields.length ++ fields)

/-- A setting of a host's message: a malformed payload gives status 2, a refused one 1, and an applied one 0.
Without firmware only the firmware-update and sensor settings are accepted (R422). -/
def State.setting (s : State) (m : FltMsg) (code need : Nat) (fields : List (Nat × Nat)) (bad accepted : Bool)
    (k : State → State) : Out :=
  if !s.hostOpen m.assoc then .next s
  else if mgmtBad code (max 8 need) fields m.payload ∨ bad then .next (s.answer m 2 [])
  else if !accepted ∨ !s.firmwareUp && code != 0x0E && code != 0x10 then .next (s.answer m 1 [])
  else .next (k s)

/-- A MGMT datagram arrives, or a MGMT message that waited has its turn. -/
def State.onMgmt (s : State) (m : FltMsg) (k : FltMsg → State → Out) : Out := s.onMessage 0x08#8 anyTime m k

/-- A setting whose reply has no fields. -/
def State.plainSetting (s : State) (m : FltMsg) (code need : Nat) (fields : List (Nat × Nat)) (bad accepted : Bool)
    (k : State → State) : Out :=
  s.setting m code need fields bad accepted fun s => (k s).answer m 0 []

/-- A multiple of 64 KiB. -/
def pageMultiple (n : Nat) : Bool := n % 65536 == 0

/-- A launch that has been admitted and has not retired. -/
def Launch.admitted (l : Launch) : Bool := l.state == .admitted || l.state == .running

/-- No launch is admitted. -/
def State.noLaunch (s : State) : Bool := !s.launches.any fun l => l.2.admitted

/-- No canopy fill is FETCHING. -/
def State.noCanopyFill (s : State) : Bool :=
  !(s.resid.fills.any (·.canopy) || s.resid.tags.any fun t => t.2.tier == 0 && t.2.state == .fetching)

/-! ## Handles and the canopy -/

/-- 0x01: a launch names its handle list's handles, and its kernel image's (R33). -/
def execMgmtHandle (m : FltMsg) (s : State) : Out :=
  s.onMgmt m fun m s =>
    let f := mgmtField m.payload
    let h := f 0 32
    let base := f 64 48
    let len := f 128 48
    s.plainSetting m 0x01 30 [(0, 32), (64, 48), (128, 48)] (!pageMultiple base || !pageMultiple len)
      ((s.launchesOn h).isEmpty && !s.launches.any fun l => l.2.admitted && l.2.image == h) fun s =>
        if len = 0 then { s with handles := eraseNat h s.handles }
        else
          let old := lookupNat s.handles h
          { s with handles := insertNat h ⟨base, len, old.bind (·.writer), [], old.any (·.poisoned)⟩ s.handles }

/-- A canopy that keeps the frames of resident copies, and whose other bytes are open (R140, R319). -/
def reopened (old : Mem) (tag : Nat) (frames : List (Nat × Nat)) : Mem :=
  frames.foldl (fun (m : Mem) f => m.setBytes (16384 * f.1) (old.bytes (16384 * f.1) (16384 * f.2))) ⟨[], tag⟩

/-- Every canopy's launch-owned frames become undefined. -/
def State.reopenCanopies (s : State) : State :=
  { s with
    fresh := s.fresh + 64
    cores := Vector.ofFn fun (i : Fin 64) =>
      let k := s.cores[i]
      { k with canopy := reopened k.canopy (s.fresh + i.val + 1) (s.resid.usedFrames i.val) } }

/-- Whether a copy has a frame at or above a bound on any slice. -/
def Tag.reaches (t : Tag) (bound : Nat) : Bool := t.frames.any fun f => f.2 != 0 && decide (bound < f.1 + f.2)

/-- C changes (R140, R319). -/
def State.partition (s : State) (c : Nat) : State :=
  if c = s.canopyC then s
  else
    let u := if s.canopyC < c then s.resid.evictWhere true (·.reaches (1024 - c)) else s.resid
    ({ s with resid := u, canopyC := c }.reopenCanopies).kickFills

/-- 0x02. -/
def execMgmtCanopyPartition (m : FltMsg) (s : State) : Out :=
  s.onMgmt m fun m s =>
    let c := mgmtField m.payload 0 10
    s.plainSetting m 0x02 10 [(0, 10)] (c % 16 != 0 || decide (512 < c)) (s.noLaunch && s.noCanopyFill) (·.partition c)

/-! ## The units -/

/-- No copy of a model context holds a reference, and no token of it waits (R299). -/
def State.modelFree (s : State) (mc : Nat) : Bool :=
  !s.resid.tags.any (fun t => expertMc t.2.id.toNat == mc && t.2.ref != 0) &&
    !s.resid.waits.any fun w => s.resid.fills.any fun f => f.id == w.fill && expertMc f.expert.toNat == mc

/-- 0x03: bind or unbind. -/
def execMgmtModelBind (m : FltMsg) (s : State) : Out :=
  s.onMgmt m fun m s =>
    let f := mgmtField m.payload
    let mc : Fin 8 := Fin.ofNat 8 (f 0 3)
    let un := f 8 1 == 1
    let base := f 64 48
    s.plainSetting m 0x03 22 [(0, 3), (8, 1), (64, 48)] (un && base != 0)
      (s.modelFree mc.val && (s.resid.bases[mc]).isSome == un) (·.clearModel mc (if un then none else some base))

/-- 0x04: the residency unit's areas. -/
def execMgmtResidency (m : FltMsg) (s : State) : Out :=
  s.onMgmt m fun m s =>
    let f := mgmtField m.payload
    let xs := [f 0 48, f 64 64, f 128 48, f 192 64]
    s.plainSetting m 0x04 40 [(0, 48), (64, 64), (128, 48), (192, 64)] (!xs.all pageMultiple)
      (!s.resid.bases.any (·.isSome)) fun s =>
        { s with resid := { s.resid with wsBase := f 0 48, wsSize := f 64 64, rgBase := f 128 48, rgSize := f 192 64 } }

/-- The product-key unit serves nothing. -/
def State.pkIdle (s : State) : Bool :=
  !s.reqs.any fun r => match r.kind with
    | .unit op .. => op.toPk && r.state != .formed
    | _ => false

/-- 0x05: the product-key unit's tables. -/
def execMgmtProductKey (m : FltMsg) (s : State) : Out :=
  s.onMgmt m fun m s =>
    let f := mgmtField m.payload
    let p : PkBind := ⟨f 0 48, f 64 48, f 128 48, f 192 21, 128 * 2 ^ f 224 3, f 232 1 == 1⟩
    let bad := p.key % 4096 != 0 || p.grad % 4096 != 0 || p.val % 4096 != 0 || p.n == 0 || decide (2 ^ 20 < p.n) ||
      decide (4 < f 224 3) || decide (2 ^ 32 < p.n * p.d * p.elemBytes)
    s.plainSetting m 0x05 38 [(0, 48), (64, 48), (128, 48), (192, 21), (224, 3), (232, 1)] bad s.pkIdle
      fun s => { s with pk := some p }

/-- 0x06: BYPASS and the save pool. -/
def execMgmtDispatch (m : FltMsg) (s : State) : Out :=
  s.onMgmt m fun m s =>
    let f := mgmtField m.payload
    let pool := f 8 1 == 1
    let weak := s.launches.any fun l => l.2.admitted && l.2.pclass == 0
    s.plainSetting m 0x06 (if pool then 32 else 10) [(0, 9), (64, 48), (128, 64)] (pool && !pageMultiple (f 64 48))
      (!(pool && weak)) fun s =>
        let s := { s with bypass := BitVec.ofNat 8 (f 0 8) }
        if pool then { s with poolBase := f 64 48, poolSize := f 128 64 } else s

/-! ## Translation and faults -/

/-- 0x07: the root table. -/
def execMgmtTranslation (m : FltMsg) (s : State) : Out :=
  s.onMgmt m fun m s =>
    let r := mgmtField m.payload 0 38
    s.plainSetting m 0x07 13 [(0, 38)] (r % 4096 != 0) s.noLaunch fun s => { s with root := some r }

/-- 0x08: accepted always; the reply comes with TLB_INVALIDATE_COMPLETE. -/
def execMgmtTlbInvalidate (m : FltMsg) (s : State) : Out :=
  s.onMgmt m fun m s =>
    let f := mgmtField m.payload
    s.setting m 0x08 22 [(0, 48), (64, 48)] false true fun s =>
      { s with deferred := s.deferred ++ [Deferred.invalidate m (f 0 48) (f 64 48)] }.due
        (.tlbInvalidateComplete m.assoc m.msgId)

/-- Entries without those of a virtual range. -/
def tlbWithout (base n : Nat) (es : List TlbEntry) : List TlbEntry :=
  es.filter fun e => !overlap e.va (2 ^ e.bits) base n

def Deferred.isInvalidate : Deferred → Bool
  | .invalidate .. => true
  | _ => false

/-- TLB_INVALIDATE_COMPLETE: no TLB holds a translation of the range (R407). -/
def execTlbInvalidateComplete (assoc : Fin 16) (msgId : Nat) (s : State) : Out :=
  match findDeferred (assoc, msgId) Deferred.isInvalidate s.deferred with
  | some (_, .invalidate m base n) =>
    let s := s.dropDeferred (assoc, msgId) Deferred.isInvalidate
    let s := { s with
      cores := s.cores.map fun (k : Core) => { k with tlb := tlbWithout base n k.tlb }
      campTlb := s.campTlb.map (tlbWithout base n) }
    .next (s.answer m 0 [])
  | _ => .next s

/-- A unit's request or fetch goes on after its page fault. -/
def State.resumeUnit (s : State) (id : Nat) : State :=
  match s.req? id with
  | some r =>
    match r.kind with
    | .unit .xroute .. => s.due (.xrouteServe id)
    | .unit (.gres _) .. => s.due (.gresComplete id)
    | .unit (.msg ..) .. => s.due (.msgDelivered id 0#4)
    | .unit .a2a .. => s.due (.a2aDelivered id 0#4 0#8)
    | _ => s.due (.gResultLand id)
  | none =>
    match s.resid.fills.find? fun f => f.id == id with
    | some f => s.due (if f.going then .fetchComplete id else .fetchStart id)
    | none => s

/-- RETRY: the walk is made again. -/
def State.retryWalk (s : State) (w : Walk) : State :=
  match w.who with
  | .packet _ =>
    { s with walks := s.walks.map fun (x : Walk) => if x.id = w.id then { x with fault := none } else x }.due
      (.walkComplete w.id)
  | .unit id => (s.dropWalk w.id).resumeUnit id
  | .engine (.copy k q) => (s.dropWalk w.id).resumeElem k q
  | .engine (.address c) => (s.dropWalk w.id).resumeAq c

/-- FAIL at an engine: the fault that waited is TRANSLATION, detail 0x03. -/
def EngFault.failed (f : EngFault) : EngFault := { f with code := 0x0B#8, detail := 0x03#8, waits := false }

/-- FAIL: TRANSLATION, detail 0x03, of the requester (R405). -/
def State.failWalk (s : State) (w : Walk) : State :=
  match w.who with
  | .packet c => s.walkFails w c .translation 0x03#8 w.va
  | .unit id =>
    let s := s.dropWalk w.id
    match s.req? id with
    | some r => (s.putReq { r with pageFailed := w.va / 65536 :: r.pageFailed }).resumeUnit id
    | none =>
      match s.resid.fills.find? fun f => f.id == id with
      | some f => { s with resid := s.resid.putFill { f with reason := failAddr } }.due (.fetchFail id)
      | none => s
  | .engine (.copy k q) =>
    let s := s.dropWalk w.id
    match s.firstElem k q with
    | some e => match e.susp with
      | .fault f => (s.putElem k q { e with susp := .fault f.failed }).due (.engineFault (.copy k q))
      | _ => s
    | none => s
  | .engine (.address c) =>
    ((s.dropWalk w.id).modCtx c fun x =>
      { x with aqFault := x.aqFault.map fun (f : Word × EngFault) => (f.1, f.2.failed) }).due (.engineFault (.address c))

/-- 0x09: page resolve. -/
def execMgmtPageResolve (m : FltMsg) (s : State) : Out :=
  s.onMgmt m fun m s =>
    let f := mgmtField m.payload
    let w? := s.walks.find? fun w => w.fault == some (BitVec.ofNat 32 (f 0 32))
    s.plainSetting m 0x09 13 [(0, 32), (32, 1)] false w?.isSome fun s =>
      match w? with
      | none => s
      | some w => if f 32 1 = 0 then s.retryWalk w else s.failWalk w

/-- The context that stands at a BREAK for a task. -/
def State.brokenAt (s : State) (launch task : Nat) : Option CtxRef :=
  allCtxs.find? fun c =>
    let x := s.ctx c
    x.run == .held .brk && !x.defer && x.task.any fun t => t.launch.val == launch && t.task.toNat == task

/-- 0x0A: debug resume (R398). -/
def execMgmtDebugResume (m : FltMsg) (s : State) : Out :=
  s.onMgmt m fun m s =>
    let f := mgmtField m.payload
    let c? := s.brokenAt (f 0 8) (f 32 28)
    s.plainSetting m 0x0A 16 [(0, 8), (32, 28)] false c?.isSome fun s =>
      match c? with
      | none => s
      | some c => (s.fusedSet c).foldl (fun s d => s.modCtx d fun x => if x.run = .held .brk then { x with run := .ready } else x) s

/-! ## Peers and the link -/

/-- No MSG or A2A is outstanding. -/
def State.netIdle (s : State) : Bool :=
  !s.reqs.any fun r => match r.kind with
    | .unit (.msg ..) .. | .unit .a2a .. => r.state != .formed
    | _ => false

/-- The assigned bits of the peer-set setting. -/
def peerFields : List (Nat × Nat) := [(0, 3), (8, 8)] ++ (List.range 8).map fun i => (64 + 256 * i, 144)

/-- The module may call each peer that has no association: which side opens one is an open choice (log 5). -/
def State.callPeers (s : State) : List (Fin 8) → State
  | [] => s
  | p :: ps =>
    let a : Fin 16 := Fin.ofNat 16 (8 + p.val)
    if s.peers.holds p.val ∧ s.assocs[a] = none then
      let (c, s) := s.choose 2
      (if c = 1 then s.callPeer a else s).callPeers ps
    else s.callPeers ps

/-- A new peer set: the associations of peers that are no members any more, or at another address, close (R408). -/
def State.setPeers (s : State) (x : PeerSet) : State :=
  let stays (p : Fin 8) : Bool := x.holds p.val && x.addrs.getD p.val [] == s.peers.addrs.getD p.val []
  let gone := (List.finRange 8).filter fun p => !stays p && (s.assocs[(Fin.ofNat 16 (8 + p.val) : Fin 16)]).isSome
  let s := gone.foldl (fun s p => s.closeAssoc (Fin.ofNat 16 (8 + p.val))) s
  { s with peers := x }.callPeers (List.finRange 8)

/-- 0x0B: the peer set. -/
def execMgmtPeerSet (m : FltMsg) (s : State) : Out :=
  s.onMgmt m fun m s =>
    let f := mgmtField m.payload
    s.plainSetting m 0x0B 258 peerFields false s.netIdle (·.setPeers ⟨Fin.ofNat 8 (f 0 3), BitVec.ofNat 8 (f 8 8),
      (List.range 8).map fun i => (m.payload.drop (16 + 32 * i)).take 18⟩)

/-- The link setting's entry count, and its assigned bits. -/
def gateCount (bs : List Byte) : Nat := mgmtField bs 160 9
def linkFields (bs : List Byte) : List (Nat × Nat) :=
  [(0, 2), (4, 3), (8, 3), (12, 3), (16, 3), (20, 3), (24, 3), (64, 64), (128, 32), (160, 9)] ++
    (List.range (gateCount bs)).flatMap fun e => [(192 + 64 * e, 8), (224 + 64 * e, 32)]

/-- A port with the setting's priorities, queues and gates. -/
def Port.linked (p : Port) (bs : List Byte) : Port :=
  let f := mgmtField bs
  { p with
    prio := Vector.ofFn fun (i : Fin 3) => BitVec.ofNat 3 (f (4 + 8 * i.val) 3)
    queue := Vector.ofFn fun (i : Fin 3) => Fin.ofNat 8 (f (8 + 8 * i.val) 3)
    base := f 64 64
    period := f 128 32
    gates := (List.range (gateCount bs)).map fun e => (BitVec.ofNat 8 (f (192 + 64 * e) 8), f (224 + 64 * e) 32) }

/-- 0x0C: the link. -/
def execMgmtLink (m : FltMsg) (s : State) : Out :=
  s.onMgmt m fun m s =>
    let bs := m.payload
    let n := gateCount bs
    let period := mgmtField bs 128 32
    let mask := mgmtField bs 0 2
    s.plainSetting m 0x0C (32 + 8 * n) (linkFields bs)
      (n == 0 || decide (256 < n) || decide (period < 1000) || decide (1000000000 < period)) true fun s =>
        { s with ports := Vector.ofFn fun (i : Fin 2) => if mask.testBit i.val then s.ports[i].linked bs else s.ports[i] }

/-! ## Power, sensors and attestation (R422, R423) -/

/-- STANDBY begins: what the rule lists as lost is lost. -/
def State.enterStandby (s : State) : State :=
  { s with
    cores := Vector.ofFn fun (i : Fin 64) => { s.cores[i] with
      spad := ⟨[], s.fresh + 2 * i.val + 1⟩, canopy := ⟨[], s.fresh + 2 * i.val + 2⟩, l1 := [], excl := [], tlb := []
      icache := [], pstreams := [], metaCache := [] }
    campTlb := Vector.replicate 8 []
    l2 := []
    resid := s.resid.evictWhere false fun _ => true
    fresh := s.fresh + 128
    standby := true }

/-- 0x0D: the limit and the state. -/
def execMgmtPower (m : FltMsg) (s : State) : Out :=
  s.onMgmt m fun m s =>
    let f := mgmtField m.payload
    let w := f 0 9
    let st := f 16 2
    s.plainSetting m 0x0D 11 [(0, 9), (16, 2)] (w % 5 != 0 || decide (w < 150) || decide (380 < w) || decide (1 < st))
      (st == 0 || s.noLaunch && s.noCanopyFill && s.gambits.isEmpty) fun s =>
        let s := { s with limitW := w }
        if st = 1 then s.enterStandby else s

/-- The board measures: each temperature and the power move to any value, and the counts of ECC errors grow by any
number, all open choices (R146, R420; logs 5, 11). -/
def State.measure (s : State) : State :=
  let (j, s) := s.choose (2 ^ 16)
  let (b, s) := s.choose (2 ^ 16)
  let (p, s) := s.choose (2 ^ 32)
  let (c, s) := s.choose (2 ^ 64)
  let (u, s) := s.choose (2 ^ 64)
  let x := s.sensors
  { s with sensors := ⟨x.junction + BitVec.ofNat 16 j, x.board + BitVec.ofNat 16 b, x.power + BitVec.ofNat 32 p,
      x.corrected + BitVec.ofNat 64 c, x.uncorrected + BitVec.ofNat 64 u⟩ }

/-- The reply fields of the sensor setting. -/
def State.sensorBytes (s : State) : List Byte :=
  let x := s.sensors
  leBytes 2 x.junction.toNat ++ leBytes 2 x.board.toNat ++ leBytes 4 x.power.toNat ++ leBytes 8 s.mhz ++
    leBytes 8 x.corrected.toNat ++ leBytes 8 x.uncorrected.toNat

/-- 0x0E: what the board measures. -/
def execMgmtSensors (m : FltMsg) (s : State) : Out :=
  s.onMgmt m fun m s =>
    s.setting m 0x0E 8 [] false true fun s => s.measure.answer m 0 s.measure.sensorBytes

/-- The bytes of a firmware slot: up to the last listed. -/
def Mem.imageBytes (m : Mem) : List Byte := m.bytes 0 ((m.cells.getLast?.map fun c => c.1 + 1).getD 0)

/-- The bytes 8 to 183 of an Attest reply, which its signature covers. -/
def State.attested (s : State) (nonce : List Byte) : List Byte :=
  let digest (i : Fin 2) : List Byte := sha512 (s.firmware[i]).imageBytes
  nonce ++ digest 0 ++ digest 1 ++ leBytes 4 s.fwVersion.toNat ++ leBytes 2 s.canopyC ++ leBytes 2 s.limitW ++
    leBytes 8 s.peers.own.val

/-- The device key's modulus and the firmware's signature of it, as Attest gives them. -/
def certifiedKey : List Byte :=
  let key := beBytes 512 deviceKey.modulus
  key ++ beBytes 512 (firmwareKey.sign key)

/-- 0x0F: attest. A signature and a modulus stand with their highest byte first (log 10). -/
def execMgmtAttest (m : FltMsg) (s : State) : Out :=
  s.onMgmt m fun m s =>
    s.setting m 0x0F 40 [(0, 256)] false true fun s =>
      let body := s.attested ((m.payload.drop 8).take 32)
      s.answer m 0 (body ++ beBytes 512 (deviceKey.sign body) ++ certifiedKey)

/-- 0x10: bytes of a firmware slot that does not run. -/
def execMgmtFirmwareUpdate (m : FltMsg) (s : State) : Out :=
  s.onMgmt m fun m s =>
    let f := mgmtField m.payload
    let slot : Fin 2 := Fin.ofNat 2 (f 0 1)
    let n := f 64 32
    s.plainSetting m 0x10 (24 + n) [(0, 1), (32, 32), (64, 32), (128, 8 * n)] (n == 0 || decide (8192 < n))
      (s.fwSlot != some slot) fun s =>
        { s with firmware := s.firmware.set slot ((s.firmware[slot]).setBytes (f 32 32) ((m.payload.drop 24).take n)) }

/-- An element that uses a drive. -/
def CopyElem.onDrive (e : CopyElem) (d : Nat) : Bool :=
  recSrc e.words == 4 && bits (recSrcAddr e.words) 46 2 == d || recDst e.words == 4 && bits (recDstAddr e.words) 46 2 == d

/-- 0x11: an admin command of a drive. -/
def execMgmtNvmeAdmin (m : FltMsg) (s : State) : Out :=
  s.onMgmt m fun m s =>
    let bs := m.payload
    let d := mgmtField bs 0 2
    s.setting m 0x11 80 [(0, 2), (64, 512), (576, 32768)] (leAt bs 40 16 != 0)
      (!s.cores.any fun k => k.allElems.any fun e => e.2.onDrive d) fun s =>
        let out := (Config.nvmeAdmin s.fresh bs).take 4112
        { s with fresh := s.fresh + 1 }.answer m 0 (padTo (max 16 out.length) out)

end Sys2Proof.Machine
end

