-- ==== Sys2Proof/Machine/Platform.lean ====
section
/-!
DEFINITION. The device controller: clock changes, the two temperatures of R423, and device reset (R404, R416,
R418, R422 and the other rules that name it).
-/
namespace Sys2Proof.Machine

/-! ## The arithmetic clock (R423) -/

/-- A clock change pauses issue for at most 2 µs: a hold, whose length is an open choice (log 5). -/
def State.setClock (s : State) (mhz : Nat) : State :=
  let (n, s) := s.choose (2 * mhz + 1)
  { s with
    mhz := mhz
    cores := s.cores.map fun (k : Core) => { k with nextAt := max k.nextAt s.cycle + n } }

/-- The clocks that the controller chooses. -/
def clockOk (mhz : Nat) : Bool := decide (1000 ≤ mhz) && decide (mhz ≤ 2100) && mhz % 100 == 0

/-- The clock may change so: the controller lowers it only at a power setting below the maximum (R14). -/
def State.mayClock (s : State) (mhz : Nat) : Bool := clockOk mhz && (decide (s.mhz < mhz) || mhz != s.mhz && decide (s.limitW < 380))

/-- CLOCK_CHANGE; it is of no other frequency. -/
def execClockChange (mhz : Nat) (s : State) : Out := .next (if s.mayClock mhz then s.setClock mhz else s)

/-- The junction has reached a temperature, in °C. -/
def State.heatTo (s : State) (t : Nat) : State := { s with sensors := { s.sensors with junction := BitVec.ofNat 16 (16 * t) } }

/-- THERMAL_THROTTLE: 105 °C. The event names the limit, the clock and the temperature (log 17). -/
def execThermalThrottle (s : State) : Out :=
  let s := s.heatTo 105
  let s := if s.mhz = 1000 then s else s.setClock 1000
  .next (s.moduleEvent 0x0C (leBytes 4 s.limitW ++ leBytes 4 s.mhz ++ leBytes 4 s.sensors.junction.toNat))

/-- Every launch that has not retired is torn down in ABORT mode, and its contexts stop at once. -/
def State.abortAll (s : State) : State :=
  let ns : List (Fin 256) := (s.launches.map (·.2)).filterMap fun l => if l.state = .over then none else some l.num
  let s := ns.foldl (fun s n => s.tearDown n true) s
  ns.foldl (fun s n => (s.boundTo n).foldl (fun s c => s.stopTask c) s) s

/-- THERMAL_SHUTDOWN: 115 °C. -/
def execThermalShutdown (s : State) : Out := .next { (s.heatTo 115).abortAll with powered := false }

/-! ## Device reset -/

/-- What comes from outside the module: it is not lost with the module's own events. -/
def Instr.outer : Instr → Bool
  | .hello _ | .launch _ | .write _ | .read _ | .reset _ | .abort _ | .peer _ | .fltUnknownType _ => true
  | .mgmtHandle _ | .mgmtCanopyPartition _ | .mgmtModelBind _ | .mgmtResidency _ | .mgmtProductKey _ => true
  | .mgmtDispatch _ | .mgmtTranslation _ | .mgmtTlbInvalidate _ | .mgmtPageResolve _ | .mgmtDebugResume _ => true
  | .mgmtPeerSet _ | .mgmtLink _ | .mgmtPower _ | .mgmtSensors _ | .mgmtAttest _ | .mgmtFirmwareUpdate _ => true
  | .mgmtNvmeAdmin _ | .clockChange _ | .thermalThrottle | .thermalShutdown | .deviceReset => true
  | .acknowledgement .. => true
  | _ => false

/-- A slot's RSA-4096 signature over the SHA-512 digest verifies with the key whose hash is fused (R422). -/
def slotSigned (bs : List Byte) : Bool :=
  let key := Config.slotKey bs
  sha512 key == Config.fusedKeyHash &&
    rsaVerifies (Config.keyExponent key) (Config.keyModulus key) (Config.slotSignature bs) (Config.slotCovered bs)

/-- A slot that is valid: signed, and of a version that the rollback count allows (R422). -/
def Mem.bootable (m : Mem) : Bool := slotSigned m.imageBytes && decide (Config.rollbackCount ≤ Config.slotVersion m.imageBytes)

/-- The slot that boots: the valid one with the higher version. -/
def bootSlot (f : Vector Mem 2) : Option (Fin 2) :=
  let v (i : Fin 2) : Word := Config.slotVersion (f[i]).imageBytes
  match (f[(0 : Fin 2)]).bootable, (f[(1 : Fin 2)]).bootable with
  | true, true => some (if v 0 < v 1 then 1 else 0)
  | true, false => some 0
  | false, true => some 1
  | false, false => none

/-- The state after a device reset of a module that has run: memories whose contents no rule keeps are open
(log 2), and what lies outside the device stays. -/
def State.afterReset (s : State) : State :=
  let slot := bootSlot s.firmware
  { State.reset with
    gptp := s.gptp, firmware := s.firmware, drives := s.drives, bad := s.bad, sensors := s.sensors
    choices := s.choices, nextId := s.nextId, sent := s.sent
    agenda := s.agenda.filter Instr.outer
    fresh := s.fresh + 129
    dram := ⟨[], s.fresh + 129⟩
    cores := Vector.ofFn fun (i : Fin 64) =>
      { Core.reset with spad := ⟨[], s.fresh + 2 * i.val + 1⟩, canopy := ⟨[], s.fresh + 2 * i.val + 2⟩ }
    fwSlot := slot
    fwVersion := match slot with
      | some i => Config.slotVersion (s.firmware[i]).imageBytes
      | none => 0#32 }

/-- DEVICE_RESET. -/
def execDeviceReset (s : State) : Out := .next s.afterReset

end Sys2Proof.Machine
end

