-- ==== Sys2Proof/Machine/Promote.lean ====
section
/-!
DEFINITION. The C slot (P6): scale loads and promotes, R257 to R260 and R265 to R267 of
spec/19_matrix_instructions.md, R121 to R124 of spec/07_arithmetic.md.
-/
namespace Sys2Proof.Machine

/-! ## Scale loads (R257) -/

/-- The offset of a scale load. DESIGN CHOICE: R257 gives the sum no modulus: it is taken modulo 2^32, and as a signed
number (log 45). -/
def Context.scaleOff (x : Context) (base : Option (Fin 16)) (imm : BitVec 20) : Int :=
  ((match base with | some k => x.k[k].setWidth 32 | none => 0#32) + imm.signExtend 32 <<< 2).toInt

def execScla (e8 : Bool) (d : Fin 8) (base : Option (Fin 16)) (imm : BitVec 20) (s : State) : Out :=
  let o := s.me.scaleOff base imm
  let n := if e8 then 1 else 4
  s.withSpad n (128 * n) false [o] fun as =>
    s.readElems false (128 * n) as fun f s =>
      .next (s.land 6 (.sa d (lanes fun i => BitVec.ofNat 32 (readNum f (s.me.windowBase + o.toNat + n * i) n))))

def execSclb (e8 : Bool) (d : Fin 8) (base : Option (Fin 16)) (imm : BitVec 20) (s : State) : Out :=
  let o := s.me.scaleOff base imm
  let n := if e8 then 1 else 4
  s.withSpad n n false [o] fun as =>
    s.readElems false n as fun f s =>
      .next (s.land 6 (.sb d (BitVec.ofNat 32 (readNum f (s.me.windowBase + o.toNat) n))))

def execScli (d : Fin 8) (bits : BitVec 29) (s : State) : Out :=
  .next (s.land 1 (.sb d (bits.setWidth 32 <<< 3)))

/-! ## Promotes (R258 to R260) -/

/-- The stream that begins at the port now and that no promote has taken (R259). -/
def Context.streamNow (x : Context) (ints : Bool) : Option Stream :=
  x.streams.find? fun st => st.port == x.clock && !st.taken && st.ints == ints

/-- The scale word of row i: s for PROM and PROMZ, the codes' sum for PROMX (R122). -/
def scaleWord (kind : PromKind) (sa : VReg) (sb : Word) (i : Nat) : Word :=
  match kind with
  | .prom | .promz => mul32 (lane sa i) sb
  | .promx =>
    let a := (lane sa i).toNat % 256
    let b := sb.toNat % 256
    if a = 255 ∨ b = 255 then 0x1FF#32 else BitVec.ofNat 32 (a + b)
  | .promi | .promiNeg => 0#32

/-- Row i's partial sums: those of the stream, or zeros beyond it; a float one is negated under NEG, an integer one
where it is used, exactly (R258). -/
def promPsum (st : Stream) (kind : PromKind) (neg : Bool) (i : Nat) : VReg :=
  let row := st.rows.getD i (splat 0#32)
  if !neg || kind == .promi || kind == .promiNeg then row else lanes fun j => lane row j ^^^ 0x80000000#32

/-- A promote of n rows. -/
def State.promote (s : State) (kind : PromKind) (neg : Bool) (acc : Fin 16) (sa : VReg) (sb : Word) (n : Nat) :
    Out :=
  match s.me.streamNow (kind == .promi || kind == .promiNeg) with
  | none => s.badDesc
  | some st =>
    s.withAcc acc fun slot s =>
      let s := s.setMe { s.me with streams := s.me.streams.map fun y =>
        if y.port = st.port then { y with taken := true } else y }
      .next ((List.range n).foldl (fun (s : State) (i : Nat) =>
        s.land (7 + i) (.promRow slot (Fin.ofNat 128 i) kind (promPsum st kind neg i)
          (splat (scaleWord kind sa sb i)))) s)

def execProm (neg : Bool) (acc : Fin 16) (sa sb : Fin 8) (rows : BitVec 7) (s : State) : Out :=
  s.promote .prom neg acc s.me.sa[sa] s.me.sb[sb] (rows.toNat + 1)
def execPromz (neg : Bool) (acc : Fin 16) (sa sb : Fin 8) (rows : BitVec 7) (s : State) : Out :=
  s.promote .promz neg acc s.me.sa[sa] s.me.sb[sb] (rows.toNat + 1)
def execPromx (neg : Bool) (acc : Fin 16) (sa sb : Fin 8) (rows : BitVec 7) (s : State) : Out :=
  s.promote .promx neg acc s.me.sa[sa] s.me.sb[sb] (rows.toNat + 1)
def execPromi (neg : Bool) (acc : Fin 16) (rows : BitVec 7) (s : State) : Out :=
  s.promote (if neg then .promiNeg else .promi) neg acc (splat 0#32) 0#32 (rows.toNat + 1)

end Sys2Proof.Machine
end

