-- ==== Sys2Proof/Machine/Scalar.lean ====
section
/-!
DEFINITION. The S slot (P0): R166 to R178 of spec/11_scalar_branch_instructions.md. Latencies are those
of Table 19 of spec/05_packets_encoding.md.
-/
namespace Sys2Proof.Machine

/-! ## NOPs (R83) -/

def execNop (s : State) : Out := .next s
def execNopSlot0 (s : State) : Out := .next s

/-! ## Integer operations (R168) -/

/-- A two-source integer operation. -/
def execS2 (f : DWord → DWord → DWord) (lat : Nat) (d : Fin 32) (src : SArgs) (s : State) : Out :=
  .next (s.land lat (.s d (f (s.me.sA src) (s.me.sB src))))

/-- An operation on one register and an immediate. -/
def execSI (f : DWord → DWord) (d a : Fin 32) (s : State) : Out :=
  .next (s.land 1 (.s d (f s.me.s[a])))

/-- The high half of a 128-bit product. -/
def mulHighS (a b : DWord) : DWord := (a.signExtend 128 * b.signExtend 128).extractLsb' 64 64
def mulHighU (a b : DWord) : DWord := (a.setWidth 128 * b.setWidth 128).extractLsb' 64 64

def execAdd (d : Fin 32) (src : SArgs) (s : State) : Out := execS2 (· + ·) 1 d src s
def execSub (d : Fin 32) (src : SArgs) (s : State) : Out := execS2 (· - ·) 1 d src s
def execMul (d : Fin 32) (src : SArgs) (s : State) : Out := execS2 (· * ·) 3 d src s
def execMulhs (d : Fin 32) (src : SArgs) (s : State) : Out := execS2 mulHighS 3 d src s
def execMulhu (d : Fin 32) (src : SArgs) (s : State) : Out := execS2 mulHighU 3 d src s
def execAnd (d : Fin 32) (src : SArgs) (s : State) : Out := execS2 (· &&& ·) 1 d src s
def execOr (d : Fin 32) (src : SArgs) (s : State) : Out := execS2 (· ||| ·) 1 d src s
def execXor (d : Fin 32) (src : SArgs) (s : State) : Out := execS2 (· ^^^ ·) 1 d src s
def execAndn (d : Fin 32) (src : SArgs) (s : State) : Out := execS2 (fun a b => a &&& ~~~b) 1 d src s
def execShl (d : Fin 32) (src : SArgs) (s : State) : Out :=
  execS2 (fun a b => a <<< (b.toNat % 64)) 1 d src s
def execShr (d : Fin 32) (src : SArgs) (s : State) : Out :=
  execS2 (fun a b => a >>> (b.toNat % 64)) 1 d src s
def execSar (d : Fin 32) (src : SArgs) (s : State) : Out :=
  execS2 (fun a b => a.sshiftRight (b.toNat % 64)) 1 d src s
def execMin (d : Fin 32) (src : SArgs) (s : State) : Out :=
  execS2 (fun a b => if a.slt b then a else b) 1 d src s
def execMax (d : Fin 32) (src : SArgs) (s : State) : Out :=
  execS2 (fun a b => if a.slt b then b else a) 1 d src s
def execMinu (d : Fin 32) (src : SArgs) (s : State) : Out :=
  execS2 (fun a b => if a.ult b then a else b) 1 d src s
def execMaxu (d : Fin 32) (src : SArgs) (s : State) : Out :=
  execS2 (fun a b => if a.ult b then b else a) 1 d src s

def execAddi (d a : Fin 32) (imm : BitVec 12) (s : State) : Out :=
  execSI (· + imm.signExtend 64) d a s
def execAndi (d a : Fin 32) (imm : BitVec 12) (s : State) : Out :=
  execSI (· &&& imm.signExtend 64) d a s
def execOri (d a : Fin 32) (imm : BitVec 12) (s : State) : Out :=
  execSI (· ||| imm.signExtend 64) d a s
def execXori (d a : Fin 32) (imm : BitVec 12) (s : State) : Out :=
  execSI (· ^^^ imm.signExtend 64) d a s
def execShli (d a : Fin 32) (sh : BitVec 6) (s : State) : Out := execSI (· <<< sh.toNat) d a s
def execShri (d a : Fin 32) (sh : BitVec 6) (s : State) : Out := execSI (· >>> sh.toNat) d a s
def execSari (d a : Fin 32) (sh : BitVec 6) (s : State) : Out :=
  execSI (fun x => x.sshiftRight sh.toNat) d a s

def execClz (d : Fin 32) (a : RK 32) (s : State) : Out :=
  .next (s.land 1 (.s d (BitVec.ofNat 64 (leadingZeros 64 (s.me.sSrc a).toNat))))
def execPopc (d : Fin 32) (a : RK 32) (s : State) : Out :=
  .next (s.land 1 (.s d (BitVec.ofNat 64 (popcount 64 (s.me.sSrc a).toNat))))

/-! ## Constants, tests and selection (R169 to R171) -/

def execLi (d : Fin 32) (imm : BitVec 17) (s : State) : Out :=
  .next (s.land 1 (.s d (imm.signExtend 64)))
def execLis (d : Fin 32) (imm : BitVec 17) (s : State) : Out :=
  .next (s.land 1 (.s d (s.me.s[d] <<< 17 ||| imm.setWidth 64)))

def execCmp (cc : ICc) (q : Fin 8) (src : SArgs) (s : State) : Out :=
  .next (s.land 1 (.q q (iccHolds cc (s.me.sA src) (s.me.sB src))))
def execCmpi (cc : ICc) (q : Fin 8) (a : Fin 32) (imm : BitVec 11) (s : State) : Out :=
  .next (s.land 1 (.q q (iccHolds cc s.me.s[a] (imm.signExtend 64))))
def execSel (d : Fin 32) (q : Fin 8) (src : SArgs) (s : State) : Out :=
  .next (s.land 1 (.s d (if s.me.q[q] then s.me.sA src else s.me.sB src)))

/-! ## Special registers and the common file (R172 to R174) -/

def execMfsr (d : Fin 32) (sr : SReg) (s : State) : Out :=
  .next (s.land 1 (.s d (s.readSr s.focus.c sr)))
def execMtsr (sr : SReg) (a : Fin 32) (s : State) : Out := .next (s.land 1 (.sr sr s.me.s[a]))
def execKset (d : Fin 16) (a : RK 32) (s : State) : Out := .next (s.land 1 (.k d (s.me.sSrc a)))
def execKget (d : Fin 32) (a : Fin 16) (s : State) : Out := .next (s.land 1 (.s d s.me.k[a]))

/-! ## Cross-file moves (R175) -/

/-- A predicate with one lane, or one group of 32 lanes. -/
def oneLane (i : Nat) : Pred := BitVec.ofNat 128 (2 ^ (i % 128))
def laneWord (w : Nat) : Pred := BitVec.ofNat 128 (0xFFFFFFFF * 2 ^ (32 * (w % 4)))

/-- What a PUT writes. -/
def Context.putWrite (x : Context) : PutArgs → RegWrite
  | .x d a => .x d ((x.sSrc a).setWidth 32)
  | .a d a => .a d ((x.sSrc a).setWidth 32)
  | .g d a => .g d (x.sSrc a)
  | .v d ab => .v d (splat ((x.sA ab).setWidth 32)) (oneLane ((x.sB ab).toNat % 128))
  | .vbc d a => .v d (splat ((x.sSrc a).setWidth 32)) (BitVec.allOnes 128)
  | .m d a => .m d (x.sSrc a)
  | .sb d a => .sb d ((x.sSrc a).setWidth 32)
  | .p d ab =>
    let w := (x.sB ab).toNat % 4
    .p d (((x.sA ab).setWidth 32).setWidth 128 <<< (32 * w)) (laneWord w)

/-- The g register a PUT or GET names. -/
def putG : PutArgs → List (Fin 16)
  | .g d _ => [d]
  | .x .. | .a .. | .v .. | .vbc .. | .m .. | .sb .. | .p .. => []
def getG : GetArgs → List (Fin 16)
  | .g a => [a]
  | .x .. | .a .. | .v .. | .m .. | .sb .. | .p .. => []

/-- What a GET reads. -/
def Context.getValue (x : Context) : GetArgs → DWord
  | .x a => x.x[a].setWidth 64
  | .a a => x.a[a].setWidth 64
  | .g a => x.g[a]
  | .v a b => (lane x.v[a] ((x.sSrc b).toNat % 128)).setWidth 64
  | .m a => x.m[a]
  | .sb a => x.sb[a].setWidth 64
  | .p a b => (x.p[a] >>> (32 * ((x.sSrc b).toNat % 4))).setWidth 32 |>.setWidth 64

def execPut (args : PutArgs) (s : State) : Out :=
  s.withG (putG args) (.next (s.land 3 (s.me.putWrite args)))
def execGet (d : Fin 32) (args : GetArgs) (s : State) : Out :=
  s.withG (getG args) (.next (s.land 3 (.s d (s.me.getValue args))))

/-! ## Duplicate checks (R176) -/

/-- Whether registers `i` and `j` of a file are equal in every bit. -/
def Context.sameReg (x : Context) (f : ChkFile) (i j : Nat) : Bool :=
  match f with
  | .s => x.s[Fin.ofNat 32 i] == x.s[Fin.ofNat 32 j]
  | .x => x.x[Fin.ofNat 32 i] == x.x[Fin.ofNat 32 j]
  | .v => x.v[Fin.ofNat 32 i] == x.v[Fin.ofNat 32 j]
  | .p => x.p[Fin.ofNat 8 i] == x.p[Fin.ofNat 8 j]
  | .a => x.a[Fin.ofNat 16 i] == x.a[Fin.ofNat 16 j]
  | .m => x.m[Fin.ofNat 16 i] == x.m[Fin.ofNat 16 j]
  | .g => x.g[Fin.ofNat 16 i] == x.g[Fin.ofNat 16 j]

/-- The g registers of a CHK over the g file. -/
def chkG (f : ChkFile) (a b : Fin 32) (n : Fin 8) : List (Fin 16) :=
  match f with
  | .g => (List.range (n.val + 1)).flatMap fun i => [Fin.ofNat 16 (a.val + i), Fin.ofNat 16 (b.val + i)]
  | .s | .x | .v | .p | .a | .m => []

def execChk (f : ChkFile) (a b : Fin 32) (n : Fin 8) (s : State) : Out :=
  s.withG (chkG f a b n) <|
    match firstBelow (fun i => !s.me.sameReg f (a.val + i) (b.val + i)) (n.val + 1) with
    | some i => s.raise .dupmismatch (BitVec.ofNat 64 (f.code * 256 + a.val + i))
    | none => .next s

/-! ## Traps (R177, R178) -/

/-- TRAPI: the trap is taken after the packet, before the next (R177, R401). -/
def execTrapi (imm : BitVec 17) (s : State) : Out :=
  .next ((s.setMe { s.me with trap := some imm }).due (.uiEntry s.focus.c))

/-- UIRET (R178, R403): the handler's results land, then the interrupted point resumes. -/
def execUiret (s : State) : Out :=
  let s := s.drainCtx s.focus.c
  let x := s.me.leaveUi
  .next { s.setMe x with focus := { s.focus with transfer := some x.pc, resumed := true } }

end Sys2Proof.Machine
end

