-- ==== Sys2Proof/Machine/Dispatch.lean ====
section
/-!
DEFINITION. The dispatch: one arm for each constructor of Instr, each a direct call of its meaning.
-/
namespace Sys2Proof.Machine

def exec (i : Instr) (s : State) : Host.Outcome State Fault Refusal :=
  match i with
  | .add d src => Sys2Proof.Machine.execAdd d src s
  | .sub d src => Sys2Proof.Machine.execSub d src s
  | .mul d src => Sys2Proof.Machine.execMul d src s
  | .mulhs d src => Sys2Proof.Machine.execMulhs d src s
  | .mulhu d src => Sys2Proof.Machine.execMulhu d src s
  | .and d src => Sys2Proof.Machine.execAnd d src s
  | .or d src => Sys2Proof.Machine.execOr d src s
  | .xor d src => Sys2Proof.Machine.execXor d src s
  | .andn d src => Sys2Proof.Machine.execAndn d src s
  | .shl d src => Sys2Proof.Machine.execShl d src s
  | .shr d src => Sys2Proof.Machine.execShr d src s
  | .sar d src => Sys2Proof.Machine.execSar d src s
  | .min d src => Sys2Proof.Machine.execMin d src s
  | .max d src => Sys2Proof.Machine.execMax d src s
  | .minu d src => Sys2Proof.Machine.execMinu d src s
  | .maxu d src => Sys2Proof.Machine.execMaxu d src s
  | .addi d a imm => Sys2Proof.Machine.execAddi d a imm s
  | .andi d a imm => Sys2Proof.Machine.execAndi d a imm s
  | .ori d a imm => Sys2Proof.Machine.execOri d a imm s
  | .xori d a imm => Sys2Proof.Machine.execXori d a imm s
  | .shli d a sh => Sys2Proof.Machine.execShli d a sh s
  | .shri d a sh => Sys2Proof.Machine.execShri d a sh s
  | .sari d a sh => Sys2Proof.Machine.execSari d a sh s
  | .li d imm => Sys2Proof.Machine.execLi d imm s
  | .lis d imm => Sys2Proof.Machine.execLis d imm s
  | .cmp cc q src => Sys2Proof.Machine.execCmp cc q src s
  | .cmpi cc q a imm => Sys2Proof.Machine.execCmpi cc q a imm s
  | .sel d q src => Sys2Proof.Machine.execSel d q src s
  | .clz d a => Sys2Proof.Machine.execClz d a s
  | .popc d a => Sys2Proof.Machine.execPopc d a s
  | .mfsr d sr => Sys2Proof.Machine.execMfsr d sr s
  | .mtsr sr a => Sys2Proof.Machine.execMtsr sr a s
  | .kset d a => Sys2Proof.Machine.execKset d a s
  | .kget d a => Sys2Proof.Machine.execKget d a s
  | .put args => Sys2Proof.Machine.execPut args s
  | .get d args => Sys2Proof.Machine.execGet d args s
  | .chk file a b n => Sys2Proof.Machine.execChk file a b n s
  | .trapi imm => Sys2Proof.Machine.execTrapi imm s
  | .prep b off => Sys2Proof.Machine.execPrep b off s
  | .prepk b k => Sys2Proof.Machine.execPrepk b k s
  | .jmp b => Sys2Proof.Machine.execJmp b s
  | .br q b => Sys2Proof.Machine.execBr q b s
  | .brn q b => Sys2Proof.Machine.execBrn q b s
  | .call b => Sys2Proof.Machine.execCall b s
  | .loopi len nopre count => Sys2Proof.Machine.execLoopi len nopre count s
  | .loopk len nopre k => Sys2Proof.Machine.execLoopk len nopre k s
  | .lset lev k => Sys2Proof.Machine.execLset lev k s
  | .lbrk lev now => Sys2Proof.Machine.execLbrk lev now s
  | .unprep b => Sys2Proof.Machine.execUnprep b s
  | .skipz z nz off => Sys2Proof.Machine.execSkipz z nz off s
  | .zset z k => Sys2Proof.Machine.execZset z k s
  | .brv p b z => Sys2Proof.Machine.execBrv p b z s
  | .xadd d a b => Sys2Proof.Machine.execXadd d a b s
  | .xsub d a b => Sys2Proof.Machine.execXsub d a b s
  | .xmul d a b => Sys2Proof.Machine.execXmul d a b s
  | .xand d a b => Sys2Proof.Machine.execXand d a b s
  | .xxor d a b => Sys2Proof.Machine.execXxor d a b s
  | .xshl d a b => Sys2Proof.Machine.execXshl d a b s
  | .xshr d a b => Sys2Proof.Machine.execXshr d a b s
  | .xmin u d a b => Sys2Proof.Machine.execXmin u d a b s
  | .xmax u d a b => Sys2Proof.Machine.execXmax u d a b s
  | .xaddi d a imm => Sys2Proof.Machine.execXaddi d a imm s
  | .xshli d a sh => Sys2Proof.Machine.execXshli d a sh s
  | .xshri d a sh => Sys2Proof.Machine.execXshri d a sh s
  | .xli d imm => Sys2Proof.Machine.execXli d imm s
  | .xpopc d a => Sys2Proof.Machine.execXpopc d a s
  | .xclz d a => Sys2Proof.Machine.execXclz d a s
  | .xldw d a imm => Sys2Proof.Machine.execXldw d a imm s
  | .xadv d a b => Sys2Proof.Machine.execXadv d a b s
  | .xsel d c a b => Sys2Proof.Machine.execXsel d c a b s
  | .aqg sp args => Sys2Proof.Machine.execAqg sp args s
  | .aqs sp args => Sys2Proof.Machine.execAqs sp args s
  | .aqsa i32 args => Sys2Proof.Machine.execAqsa i32 args s
  | .aqcnt d => Sys2Proof.Machine.execAqcnt d s
  | .vadd d a b g => Sys2Proof.Machine.execVadd d a b g s
  | .vsub d a b g => Sys2Proof.Machine.execVsub d a b g s
  | .vmul h d a b g => Sys2Proof.Machine.execVmul h d a b g s
  | .vmin u d a b g => Sys2Proof.Machine.execVmin u d a b g s
  | .vmax u d a b g => Sys2Proof.Machine.execVmax u d a b g s
  | .vand d a b g => Sys2Proof.Machine.execVand d a b g s
  | .vor d a b g => Sys2Proof.Machine.execVor d a b g s
  | .vxor d a b g => Sys2Proof.Machine.execVxor d a b g s
  | .vshl d a b g => Sys2Proof.Machine.execVshl d a b g s
  | .vshr d a b g => Sys2Proof.Machine.execVshr d a b g s
  | .vsar d a b g => Sys2Proof.Machine.execVsar d a b g s
  | .vadds u sub d a b g => Sys2Proof.Machine.execVadds u sub d a b g s
  | .vfadd rm d a b g => Sys2Proof.Machine.execVfadd rm d a b g s
  | .vfsub rm d a b g => Sys2Proof.Machine.execVfsub rm d a b g s
  | .vfmul rm d a b g => Sys2Proof.Machine.execVfmul rm d a b g s
  | .vfma rm d a b c g => Sys2Proof.Machine.execVfma rm d a b c g s
  | .vfmin nan d a b g => Sys2Proof.Machine.execVfmin nan d a b g s
  | .vfmax nan d a b g => Sys2Proof.Machine.execVfmax nan d a b g s
  | .vfsgn m d a b g => Sys2Proof.Machine.execVfsgn m d a b g s
  | .vfrcp rm d a g => Sys2Proof.Machine.execVfrcp rm d a g s
  | .vfrsq rm d a g => Sys2Proof.Machine.execVfrsq rm d a g s
  | .vfexp2 rm d a g => Sys2Proof.Machine.execVfexp2 rm d a g s
  | .vflog2 rm d a g => Sys2Proof.Machine.execVflog2 rm d a g s
  | .vcmp cc d a b g => Sys2Proof.Machine.execVcmp cc d a b g s
  | .vfcmp cc d a b g => Sys2Proof.Machine.execVfcmp cc d a b g s
  | .vsel d c a b g => Sys2Proof.Machine.execVsel d c a b g s
  | .vcvt rm sat d a src dst g => Sys2Proof.Machine.execVcvt rm sat d a src dst g s
  | .vqnt rm sat d a b fmt g => Sys2Proof.Machine.execVqnt rm sat d a b fmt g s
  | .vdqnt rm mx d a b fmt g => Sys2Proof.Machine.execVdqnt rm mx d a b fmt g s
  | .vrsum rm i32 seg d a g => Sys2Proof.Machine.execVrsum rm i32 seg d a g s
  | .vrmax arg u nan i32 seg d a g => Sys2Proof.Machine.execVrmax arg u nan i32 seg d a g s
  | .vrmin arg u nan i32 seg d a g => Sys2Proof.Machine.execVrmin arg u nan i32 seg d a g s
  | .vscan rm excl i32 seg d a g => Sys2Proof.Machine.execVscan rm excl i32 seg d a g s
  | .vperm z d a b g => Sys2Proof.Machine.execVperm z d a b g s
  | .vrot d a imm g => Sys2Proof.Machine.execVrot d a imm g s
  | .vbcst d a n g => Sys2Proof.Machine.execVbcst d a n g s
  | .vli d imm => Sys2Proof.Machine.execVli d imm s
  | .vmov d a g => Sys2Proof.Machine.execVmov d a g s
  | .viota rank d g => Sys2Proof.Machine.execViota rank d g s
  | .plog t d a b g => Sys2Proof.Machine.execPlog t d a b g s
  | .ppack set d g => Sys2Proof.Machine.execPpack set d g s
  | .punpk set a => Sys2Proof.Machine.execPunpk set a s
  | .pcnt m d a g => Sys2Proof.Machine.execPcnt m d a g s
  | .vpop d g => Sys2Proof.Machine.execVpop d g s
  | .vpushd a g => Sys2Proof.Machine.execVpushd a g s
  | .gate first final d a b k chunk g => Sys2Proof.Machine.execGate first final d a b k chunk g s
  | .dice pos d g => Sys2Proof.Machine.execDice pos d g s
  | .vdesc init d a b => Sys2Proof.Machine.execVdesc init d a b s
  | .vcmp48 m d a fmt g => Sys2Proof.Machine.execVcmp48 m d a fmt g s
  | .ldv d a ma off g => Sys2Proof.Machine.execLdv d a ma off g s
  | .stv src a ma off g => Sys2Proof.Machine.execStv src a ma off g s
  | .ldvs d a b ma g => Sys2Proof.Machine.execLdvs d a b ma g s
  | .stvs src a b ma g => Sys2Proof.Machine.execStvs src a b ma g s
  | .ldve d a ma off g => Sys2Proof.Machine.execLdve d a ma off g s
  | .ldb d a ma off g => Sys2Proof.Machine.execLdb d a ma off g s
  | .stb src a ma off g => Sys2Proof.Machine.execStb src a ma off g s
  | .aadd d a b g => Sys2Proof.Machine.execAadd d a b g s
  | .aaddi d a imm g => Sys2Proof.Machine.execAaddi d a imm g s
  | .ali d imm => Sys2Proof.Machine.execAli d imm s
  | .ldvh d a ma off g => Sys2Proof.Machine.execLdvh d a ma off g s
  | .stvh src a ma off g => Sys2Proof.Machine.execStvh src a ma off g s
  | .lda d a ma off g => Sys2Proof.Machine.execLda d a ma off g s
  | .sta src a ma off g => Sys2Proof.Machine.execSta src a ma off g s
  | .mma mx mA mB fa fb => Sys2Proof.Machine.execMma mx mA mB fa fb s
  | .mmas mA mB fa fb => Sys2Proof.Machine.execMmas mA mB fa fb s
  | .azero acc => Sys2Proof.Machine.execAzero acc s
  | .arel acc => Sys2Proof.Machine.execArel acc s
  | .acpy rm sat int acc a fmt => Sys2Proof.Machine.execAcpy rm sat int acc a fmt s
  | .ald acc a fmt => Sys2Proof.Machine.execAld acc a fmt s
  | .mset pf d a => Sys2Proof.Machine.execMset pf d a s
  | .madd aux d a imm => Sys2Proof.Machine.execMadd aux d a imm s
  | .scla e8 d base imm => Sys2Proof.Machine.execScla e8 d base imm s
  | .sclb e8 d base imm => Sys2Proof.Machine.execSclb e8 d base imm s
  | .prom neg acc sa sb rows => Sys2Proof.Machine.execProm neg acc sa sb rows s
  | .promz neg acc sa sb rows => Sys2Proof.Machine.execPromz neg acc sa sb rows s
  | .promx neg acc sa sb rows => Sys2Proof.Machine.execPromx neg acc sa sb rows s
  | .promi neg acc rows => Sys2Proof.Machine.execPromi neg acc rows s
  | .scli d bits => Sys2Proof.Machine.execScli d bits s
  | .gld sx sz d a imm => Sys2Proof.Machine.execGld sx sz d a imm s
  | .gst sz src a imm => Sys2Proof.Machine.execGst sz src a imm s
  | .atadd args => Sys2Proof.Machine.execAtadd args s
  | .atmin args => Sys2Proof.Machine.execAtmin args s
  | .atmax args => Sys2Proof.Machine.execAtmax args s
  | .atand args => Sys2Proof.Machine.execAtand args s
  | .ator args => Sys2Proof.Machine.execAtor args s
  | .atxch args => Sys2Proof.Machine.execAtxch args s
  | .atcas args c => Sys2Proof.Machine.execAtcas args c s
  | .dcas acq rel d a b e n => Sys2Proof.Machine.execDcas acq rel d a b e n s
  | .amov acq rel d a b c => Sys2Proof.Machine.execAmov acq rel d a b c s
  | .tdec rel d a amt => Sys2Proof.Machine.execTdec rel d a amt s
  | .drain scope d => Sys2Proof.Machine.execDrain scope d s
  | .qcpy d a q => Sys2Proof.Machine.execQcpy d a q s
  | .qred i32 d a b size q => Sys2Proof.Machine.execQred i32 d a b size q s
  | .qfence d mask => Sys2Proof.Machine.execQfence d mask s
  | .qpoll acq d a => Sys2Proof.Machine.execQpoll acq d a s
  | .tspawn d a b => Sys2Proof.Machine.execTspawn d a b s
  | .tarm imm => Sys2Proof.Machine.execTarm imm s
  | .tarmReg a => Sys2Proof.Machine.execTarmReg a s
  | .xroute d a b => Sys2Proof.Machine.execXroute d a b s
  | .xlook d a => Sys2Proof.Machine.execXlook d a s
  | .xfetch l d a b => Sys2Proof.Machine.execXfetch l d a b s
  | .xpin d a => Sys2Proof.Machine.execXpin d a s
  | .xunpin d a => Sys2Proof.Machine.execXunpin d a s
  | .xhint d a => Sys2Proof.Machine.execXhint d a s
  | .xswap d a b => Sys2Proof.Machine.execXswap d a b s
  | .xstat clr d a n => Sys2Proof.Machine.execXstat clr d a n s
  | .pkq bf16 d a b => Sys2Proof.Machine.execPkq bf16 d a b s
  | .pks d a b => Sys2Proof.Machine.execPks d a b s
  | .pkk d a b => Sys2Proof.Machine.execPkk d a b s
  | .gopen d a => Sys2Proof.Machine.execGopen d a s
  | .genter d a => Sys2Proof.Machine.execGenter d a s
  | .gresConfirm d a => Sys2Proof.Machine.execGresConfirm d a s
  | .gresRefute d a => Sys2Proof.Machine.execGresRefute d a s
  | .gqry d a => Sys2Proof.Machine.execGqry d a s
  | .tkcmt lev pw zw snap d a b => Sys2Proof.Machine.execTkcmt lev pw zw snap d a b s
  | .seatr d a w => Sys2Proof.Machine.execSeatr d a w s
  | .seatw d a b w => Sys2Proof.Machine.execSeatw d a b w s
  | .msg bell size d a b => Sys2Proof.Machine.execMsg bell size d a b s
  | .a2a d a => Sys2Proof.Machine.execA2a d a s
  | .yieldComplete c => Sys2Proof.Machine.execYieldComplete c s
  | .syncArrive c => Sys2Proof.Machine.execSyncArrive c s
  | .syncEpisodeComplete line => Sys2Proof.Machine.execSyncEpisodeComplete line s
  | .rejoinComplete leader => Sys2Proof.Machine.execRejoinComplete leader s
  | .endRetire c => Sys2Proof.Machine.execEndRetire c s
  | .holdEnd c => Sys2Proof.Machine.execHoldEnd c s
  | .gResultLand id => Sys2Proof.Machine.execGResultLand id s
  | .drainComplete id => Sys2Proof.Machine.execDrainComplete id s
  | .atomicPerform id => Sys2Proof.Machine.execAtomicPerform id s
  | .dcasPerform id => Sys2Proof.Machine.execDcasPerform id s
  | .decrementApply id => Sys2Proof.Machine.execDecrementApply id s
  | .tspawnRecordWritten id => Sys2Proof.Machine.execTspawnRecordWritten id s
  | .qfenceComplete id => Sys2Proof.Machine.execQfenceComplete id s
  | .copyElementStart core q => Sys2Proof.Machine.execCopyElementStart core q s
  | .copyElementComplete core q => Sys2Proof.Machine.execCopyElementComplete core q s
  | .pipeResume core q => Sys2Proof.Machine.execPipeResume core q s
  | .enginePortServe core bank => Sys2Proof.Machine.execEnginePortServe core bank s
  | .gatherEntryBegin c => Sys2Proof.Machine.execGatherEntryBegin c s
  | .gatherDataLand c seq => Sys2Proof.Machine.execGatherDataLand c seq s
  | .scatterEntryPerform c seq => Sys2Proof.Machine.execScatterEntryPerform c seq s
  | .engineFault e => Sys2Proof.Machine.execEngineFault e s
  | .gcap id => Sys2Proof.Machine.execGcap id s
  | .taggedWriteAtHome id => Sys2Proof.Machine.execTaggedWriteAtHome id s
  | .memeccLoadFault id => Sys2Proof.Machine.execMemeccLoadFault id s
  | .walkComplete id => Sys2Proof.Machine.execWalkComplete id s
  | .shadowReturn c => Sys2Proof.Machine.execShadowReturn c s
  | .faultRetire c => Sys2Proof.Machine.execFaultRetire c s
  | .uiEntry c => Sys2Proof.Machine.execUiEntry c s
  | .bindTask c => Sys2Proof.Machine.execBindTask c s
  | .preempt c => Sys2Proof.Machine.execPreempt c s
  | .restoreTask c => Sys2Proof.Machine.execRestoreTask c s
  | .admitLaunch launch area => Sys2Proof.Machine.execAdmitLaunch launch area s
  | .launchDispatchStart launch => Sys2Proof.Machine.execLaunchDispatchStart launch s
  | .watchdogExpiry launch => Sys2Proof.Machine.execWatchdogExpiry launch s
  | .abortTimeout c => Sys2Proof.Machine.execAbortTimeout c s
  | .teardownStop c => Sys2Proof.Machine.execTeardownStop c s
  | .xrouteServe id => Sys2Proof.Machine.execXrouteServe id s
  | .fetchStart id => Sys2Proof.Machine.execFetchStart id s
  | .fetchComplete id => Sys2Proof.Machine.execFetchComplete id s
  | .fetchFail id => Sys2Proof.Machine.execFetchFail id s
  | .gresComplete id => Sys2Proof.Machine.execGresComplete id s
  | .msgDelivered id causes => Sys2Proof.Machine.execMsgDelivered id causes s
  | .a2aDelivered id causes failed => Sys2Proof.Machine.execA2aDelivered id causes failed s
  | .writeDeferredStart assoc msgId => Sys2Proof.Machine.execWriteDeferredStart assoc msgId s
  | .readDeferredStart assoc msgId => Sys2Proof.Machine.execReadDeferredStart assoc msgId s
  | .ackTimer assoc => Sys2Proof.Machine.execAckTimer assoc s
  | .retransmitTimeout assoc => Sys2Proof.Machine.execRetransmitTimeout assoc s
  | .tsnGateTransmit port queue => Sys2Proof.Machine.execTsnGateTransmit port queue s
  | .tlbInvalidateComplete assoc msgId => Sys2Proof.Machine.execTlbInvalidateComplete assoc msgId s
  | .storePerform id => Sys2Proof.Machine.execStorePerform id s
  | .fence m => Sys2Proof.Machine.execFence m s
  | .nop => Sys2Proof.Machine.execNop s
  | .nopSlot0 => Sys2Proof.Machine.execNopSlot0 s
  | .uiret => Sys2Proof.Machine.execUiret s
  | .ret => Sys2Proof.Machine.execRet s
  | .ipurge => Sys2Proof.Machine.execIpurge s
  | .yieldK => Sys2Proof.Machine.execYieldK s
  | .syncK => Sys2Proof.Machine.execSyncK s
  | .decoupleK => Sys2Proof.Machine.execDecoupleK s
  | .rejoinK => Sys2Proof.Machine.execRejoinK s
  | .endK => Sys2Proof.Machine.execEndK s
  | .breakK => Sys2Proof.Machine.execBreakK s
  | .energyUpdate launch joules => Sys2Proof.Machine.execEnergyUpdate launch joules s
  | .nvmeTimeout core q => Sys2Proof.Machine.execNvmeTimeout core q s
  | .hello m => Sys2Proof.Machine.execHello m s
  | .launch m => Sys2Proof.Machine.execLaunch m s
  | .write m => Sys2Proof.Machine.execWrite m s
  | .read m => Sys2Proof.Machine.execRead m s
  | .reset m => Sys2Proof.Machine.execReset m s
  | .abort m => Sys2Proof.Machine.execAbort m s
  | .peer m => Sys2Proof.Machine.execPeer m s
  | .fltUnknownType m => Sys2Proof.Machine.execFltUnknownType m s
  | .mgmtHandle m => Sys2Proof.Machine.execMgmtHandle m s
  | .mgmtCanopyPartition m => Sys2Proof.Machine.execMgmtCanopyPartition m s
  | .mgmtModelBind m => Sys2Proof.Machine.execMgmtModelBind m s
  | .mgmtResidency m => Sys2Proof.Machine.execMgmtResidency m s
  | .mgmtProductKey m => Sys2Proof.Machine.execMgmtProductKey m s
  | .mgmtDispatch m => Sys2Proof.Machine.execMgmtDispatch m s
  | .mgmtTranslation m => Sys2Proof.Machine.execMgmtTranslation m s
  | .mgmtTlbInvalidate m => Sys2Proof.Machine.execMgmtTlbInvalidate m s
  | .mgmtPageResolve m => Sys2Proof.Machine.execMgmtPageResolve m s
  | .mgmtDebugResume m => Sys2Proof.Machine.execMgmtDebugResume m s
  | .mgmtPeerSet m => Sys2Proof.Machine.execMgmtPeerSet m s
  | .mgmtLink m => Sys2Proof.Machine.execMgmtLink m s
  | .mgmtPower m => Sys2Proof.Machine.execMgmtPower m s
  | .mgmtSensors m => Sys2Proof.Machine.execMgmtSensors m s
  | .mgmtAttest m => Sys2Proof.Machine.execMgmtAttest m s
  | .mgmtFirmwareUpdate m => Sys2Proof.Machine.execMgmtFirmwareUpdate m s
  | .mgmtNvmeAdmin m => Sys2Proof.Machine.execMgmtNvmeAdmin m s
  | .clockChange mhz => Sys2Proof.Machine.execClockChange mhz s
  | .thermalThrottle => Sys2Proof.Machine.execThermalThrottle s
  | .thermalShutdown => Sys2Proof.Machine.execThermalShutdown s
  | .deviceReset => Sys2Proof.Machine.execDeviceReset s
  | .acknowledgement assoc number => Sys2Proof.Machine.execAcknowledgement assoc number s

end Sys2Proof.Machine
end

