-- ==== Sys2Proof/Machine/Agenda.lean ====
section
/-!
DEFINITION. Which due events may happen (log 6): an event stays due until what its rule makes it wait for has
come. One that has nothing left to act on may happen too, and changes nothing.
-/
namespace Sys2Proof.Machine

/-! ## Messages (R410, R412 to R414, R423) -/

/-- A message that the module receives and acts on. -/
def Instr.message : Instr → Option FltMsg
  | .hello m | .launch m | .write m | .read m | .reset m | .abort m | .peer m | .fltUnknownType m | .fence m => some m
  | .mgmtHandle m | .mgmtCanopyPartition m | .mgmtModelBind m | .mgmtResidency m | .mgmtProductKey m => some m
  | .mgmtDispatch m | .mgmtTranslation m | .mgmtTlbInvalidate m | .mgmtPageResolve m | .mgmtDebugResume m => some m
  | .mgmtPeerSet m | .mgmtLink m | .mgmtPower m | .mgmtSensors m | .mgmtAttest m | .mgmtFirmwareUpdate m => some m
  | .mgmtNvmeAdmin m => some m
  | _ => none

/-- A message's datagram may arrive unless one before it has not come; a message that waits may be acted on in its
turn (R410, R412, R413). -/
def State.messageReady (s : State) (room : State → FltMsg → Bool) (m : FltMsg) : Bool :=
  match s.parked m with
  | some bs => s.mayAct (parkedBefore m s.inbox) m.assoc && room s { m with payload := bs }
  | none => s.receipt m != .early

/-- A message's event may happen. -/
def State.eventOf (s : State) (e : Instr) (m : FltMsg) : Bool :=
  match e with
  | .hello _ => true
  | .launch _ => s.messageReady launchRoom m
  | .fence _ => if (findDeferred (m.assoc, m.msgId) Deferred.isFence s.deferred).isSome then s.fenceReady m
      else s.messageReady anyTime m
  | _ => s.messageReady anyTime m

/-- A message that waits unacted keeps its event. -/
def keepMessage (e : Instr) : Out → Out
  | .next s =>
    match Instr.message e with
    | some m => .next (if (s.parked m).isSome then s.due e else s)
    | none => .next s
  | o => o

/-! ## Requests and engines -/

/-- A request in a turn of its kind, or gone. -/
def State.turn (s : State) (id : Nat) (p : Req → Bool) : Bool :=
  match s.req? id with
  | none => true
  | some r => p r

/-- A waiting request has its unit's turn. -/
def State.unitTurn (s : State) (r : Req) (op : UnitOp) : Bool :=
  if op.toGambits then s.gambitReady r
  else if op.toPk then s.pkReady r
  else if op.toSeats then s.seatReady r
  else if op.toResidency then s.residReady r
  else true

/-- A request's result may land. -/
def State.landReady (s : State) (r : Req) : Bool :=
  match r.state with
  | .formed => true
  | .served =>
    match r.kind with
    | .unit .xroute .. => !s.decsOf r.id
    | .unit .. => !s.outstanding (.req r.id)
    | _ => true
  | .waiting =>
    match r.kind with
    | .load .. => s.mayPerform r
    | .unit op .. => s.unitTurn r op
    | _ => true

/-- A queue's element waits for a pipe no longer. -/
def State.pipeMay (s : State) (c : Fin 64) (q : Fin 4) : Bool :=
  match s.firstElem c q with
  | none => true
  | some e => e.susp != .pipe || (s.elemPipe e).all fun p => s.pipeReady p

/-- A held context's entry of a handler takes its cycles (R401). -/
def State.holdOver (s : State) (c : CtxRef) : Bool :=
  !(s.issueSet c).any fun m => match (s.ctx m).run with
    | .held (.ui until_) => decide (s.cycle < until_)
    | _ => false

/-- A core may issue: its schedule has come. -/
def State.due? (s : State) (k : Fin 64) : Bool := decide ((s.core k).nextAt ≤ s.cycle)

/-- Arrivals are taken in the order of their cycles, and of their groups among equals (R50). -/
def State.arrivesNext (s : State) (c : CtxRef) : Bool :=
  let key (c : CtxRef) : Nat := (s.core c.core).nextAt * 256 + ((s.groupOf c).map fun g => g.2.1.toNat).getD 0
  s.due? c.core && s.agenda.all fun e =>
    match e with
    | .syncArrive d => decide (key c ≤ key d)
    | _ => true

/-- An engine's record waits for a core fault of its context that is being handled: a walk or a fill (R399). -/
def State.engineTurn (s : State) (e : EngineRef) : Bool :=
  let owner := match e with
    | .address c => some c
    | .copy k q => ((s.firstElem k q).filter fun (e : CopyElem) => !e.silent).map CopyElem.owner
  match owner.map fun c => (s.ctx c).run with
  | some (.held (.walk _)) | some (.held (.side _)) => false
  | _ => true

/-- An interrupt may enter, or there is none any more. -/
def State.uiTurn (s : State) (c : CtxRef) : Bool :=
  (s.ctx c).trap.isNone && (s.ctx c).uiQueue.isEmpty ||
    s.uiReady c && s.due? c.core && (s.core c.core).current == some c.ctx

/-- Whether a due event may happen. -/
def State.eventReady (s : State) (e : Instr) : Bool :=
  match Instr.message e with
  | some m => s.eventOf e m
  | none =>
    match e with
    | .syncArrive c => s.arrivesNext c
    | .syncEpisodeComplete line => s.agenda.all fun e => match e with
      | .syncArrive c => !s.due? c.core || (s.groupOf c).map (·.2.2.line) != some line
      | _ => true
    | .rejoinComplete l => s.fuseTurn l
    | .endRetire c => (s.ctx c).run != .endWait || !s.endBusy c
    | .holdEnd c => s.holdOver c
    | .gResultLand id => s.turn id s.landReady
    | .drainComplete id => s.turn id fun r => match r.kind with
      | .drain scope => s.released r scope
      | _ => true
    | .atomicPerform id | .dcasPerform id => s.turn id fun r => r.state != .waiting || s.atomicReady r
    | .storePerform id | .taggedWriteAtHome id => s.turn id s.mayPerform
    | .decrementApply id => (s.decs.filter fun d => d.id == id).all s.decReady
    | .tspawnRecordWritten id => s.turn id s.tspawnReady
    | .qfenceComplete id => s.turn id s.fenceDone
    | .copyElementStart k q => s.mayBegin k q
    | .pipeResume k q => s.pipeMay k q
    | .enginePortServe k b => s.portReady k b
    | .gatherEntryBegin c => s.entryReady c
    | .gatherDataLand c n | .scatterEntryPerform c n => s.entryMay c n
    | .engineFault e => s.engineTurn e
    | .faultRetire c => !s.entriesBusy c
    | .uiEntry c => s.uiTurn c
    | .preempt c => (s.preemptFor c).isNone || s.preemptReady c
    | .admitLaunch n _ => s.mayAdmit n
    | .launchDispatchStart n => s.mayDispatch n
    | .watchdogExpiry n => s.watchdogDue n
    | .abortTimeout c => s.abortDue c
    | .teardownStop c => s.stopReady c
    | .xrouteServe id => s.turn id s.residReady
    | .fetchStart id => s.fetchReady id
    | .gresComplete id => s.turn id fun r => s.released r .dev && s.gambitReady r
    | .msgDelivered id _ | .a2aDelivered id _ _ => s.turn id s.netReady
    | .writeDeferredStart a k => s.mayStart (a, k) Deferred.isWrite
    | .readDeferredStart a k => s.mayStart (a, k) Deferred.isRead
    | .ackTimer a => s.ackDue a
    | .retransmitTimeout a => s.retransmitDue a
    | .tsnGateTransmit p q => s.ports[p].open_ q s.gptp
    | _ => true

/-- The places of the due events that may happen. -/
def State.readyAt (s : State) : Nat → List Instr → List Nat
  | _, [] => []
  | n, e :: es => if s.eventReady e then n :: s.readyAt (n + 1) es else s.readyAt (n + 1) es

end Sys2Proof.Machine
end

