-- ==== Sys2Proof/Machine/Regs.lean ====
section
/-!
DEFINITION. The registers that an operation names as sources and as destinations, for the checks of R86, R93,
R266 and R402.
-/
namespace Sys2Proof.Machine

/-- A register of Table 8 of spec/05_packets_encoding.md, a special register, or a loop level's pending count. -/
inductive Reg where
  | s (i : Fin 32) | k (i : Fin 16) | q (i : Fin 8)
  | x (i : Fin 32)
  | v (i : Fin 32) | p (i : Fin 8)
  | a (i : Fin 16)
  | b (i : Fin 8) | z (i : Fin 8)
  | m (i : Fin 16)
  | acc (i : Fin 16)
  | sa (i : Fin 8) | sb (i : Fin 8)
  | g (i : Fin 16)
  | sr (r : SReg)
  | lev (l : Fin 8)
deriving DecidableEq, Repr

/-! ## Sources -/

def ofK {n : Nat} (f : Fin n → Reg) : RK n → Reg
  | .r i => f i
  | .k i => .k i

def sArgRegs : SArgs → List Reg
  | .ss a b => [.s a, .s b]
  | .ks a b => [.k a, .s b]
  | .sk a b => [.s a, .k b]

def guardRegs : Guard → List Reg
  | .all => []
  | .pos i | .neg i => [.p (Fin.ofNat 8 (i.val + 1))]

def putSrcs : PutArgs → List Reg
  | .x _ a | .a _ a | .g _ a | .vbc _ a | .m _ a | .sb _ a => [ofK .s a]
  | .v _ x | .p _ x => sArgRegs x

def getSrcs : GetArgs → List Reg
  | .x a => [.x a]
  | .a a => [.a a]
  | .g a => [.g a]
  | .v a b => [.v a, ofK .s b]
  | .m a => [.m a]
  | .sb a => [.sb a]
  | .p a b => [.p a, ofK .s b]

/-- A register of a file that CHK compares. -/
def chkReg (f : ChkFile) (i : Nat) : Reg :=
  match f with
  | .s => .s (Fin.ofNat 32 i)
  | .x => .x (Fin.ofNat 32 i)
  | .v => .v (Fin.ofNat 32 i)
  | .p => .p (Fin.ofNat 8 i)
  | .a => .a (Fin.ofNat 16 i)
  | .m => .m (Fin.ofNat 16 i)
  | .g => .g (Fin.ofNat 16 i)

def pushSrcs (x : PushArgs) : List Reg := (x.cond.map Reg.x).toList ++ [ofK .x x.a, .x x.b]

def vSrcs (a : RK 32) (g : Guard) : List Reg := ofK .v a :: guardRegs g
def vSrcs2 (a : RK 32) (b : Fin 32) (g : Guard) : List Reg := [ofK .v a, .v b] ++ guardRegs g
def lSrcs (a : RK 16) (g : Guard) : List Reg := ofK .a a :: guardRegs g
def baseRegs : Option (Fin 16) → List Reg
  | some k => [.k k]
  | none => []
def decRegs : DecAmt → List Reg
  | .imm _ => []
  | .reg b => [.g b]

/-- The registers that an operation reads. -/
def Instr.srcs : Instr → List Reg
  | .add _ x | .sub _ x | .mul _ x | .mulhs _ x | .mulhu _ x | .and _ x | .or _ x | .xor _ x | .andn _ x
  | .shl _ x | .shr _ x | .sar _ x | .min _ x | .max _ x | .minu _ x | .maxu _ x | .cmp _ _ x => sArgRegs x
  | .addi _ a _ | .andi _ a _ | .ori _ a _ | .xori _ a _ | .shli _ a _ | .shri _ a _ | .sari _ a _
  | .cmpi _ _ a _ | .mtsr _ a => [.s a]
  | .lis d _ => [.s d]
  | .sel _ q x => .q q :: sArgRegs x
  | .clz _ a | .popc _ a | .kset _ a => [ofK .s a]
  | .mfsr _ r => [.sr r]
  | .kget _ a => [.k a]
  | .put x => putSrcs x
  | .get _ x => getSrcs x
  | .chk f a b n => (List.range (n.val + 1)).flatMap fun i => [chkReg f (a.val + i), chkReg f (b.val + i)]
  | .prepk _ k | .lset _ k | .loopk _ _ k | .zset _ k => [.k k]
  | .jmp b | .call b => [.b b]
  | .ret => [.b 7]
  | .br q b | .brn q b => [.q q, .b b]
  | .brv p b _ => [.p p, .b b]
  | .skipz z _ _ => [.z z]
  | .xadd _ a b | .xsub _ a b | .xmul _ a b | .xand _ a b | .xxor _ a b | .xshl _ a b | .xshr _ a b
  | .xmin _ _ a b | .xmax _ _ a b => [ofK .x a, .x b]
  | .xaddi _ a _ | .xshli _ a _ | .xshri _ a _ | .xpopc _ a | .xclz _ a | .xldw _ a _ => [ofK .x a]
  | .xadv d a b => [ofK .x a, .x b, .x d]
  | .xsel _ c a b => [.x c, ofK .x a, .x b]
  | .aqg _ x | .aqs _ x | .aqsa _ x => pushSrcs x
  | .vadd _ a b g | .vsub _ a b g | .vmul _ _ a b g | .vmin _ _ a b g | .vmax _ _ a b g | .vand _ a b g
  | .vor _ a b g | .vxor _ a b g | .vshl _ a b g | .vshr _ a b g | .vsar _ a b g | .vadds _ _ _ a b g
  | .vfadd _ _ a b g | .vfsub _ _ a b g | .vfmul _ _ a b g | .vfmin _ _ a b g | .vfmax _ _ a b g
  | .vfsgn _ _ a b g | .vcmp _ _ a b g | .vfcmp _ _ a b g | .vqnt _ _ _ a b _ g | .vdqnt _ _ _ a b _ g
  | .vperm _ _ a b g | .gate _ _ _ a b _ _ g => vSrcs2 a b g
  | .vfma _ _ a b c g => .v c :: vSrcs2 a b g
  | .vfrcp _ _ a g | .vfrsq _ _ a g | .vfexp2 _ _ a g | .vflog2 _ _ a g | .vrsum _ _ _ _ a g
  | .vrmax _ _ _ _ _ _ a g | .vrmin _ _ _ _ _ _ a g | .vscan _ _ _ _ _ a g | .vrot _ a _ g | .vbcst _ a _ g
  | .vmov _ a g | .vpushd a g | .vcmp48 _ _ a _ g => vSrcs a g
  | .vcvt rm _ d a _ _ g => if rm = .sr then .v d :: vSrcs a g else vSrcs a g
  | .vsel _ c a b g => .p c :: vSrcs2 a b g
  | .viota r _ g => (r.map Reg.p).toList ++ guardRegs g
  | .plog _ _ a b g => [.p a, .p b] ++ guardRegs g
  | .ppack set _ g => (pset set).map Reg.p ++ guardRegs g
  | .punpk _ a => [ofK .v a]
  | .pcnt _ _ a g => .p a :: guardRegs g
  | .vpop _ g => guardRegs g
  | .dice _ _ g => [.sr .dkey, .sr .dctrh, .sr .dctrl] ++ guardRegs g
  | .vdesc _ _ a b => [ofK .v a, .v b]
  | .ldv _ a _ _ g | .ldve _ a _ _ g | .ldb _ a _ _ g | .ldvh _ a _ _ g | .lda _ a _ _ g | .aaddi _ a _ g =>
    lSrcs a g
  | .stv v a _ _ g | .stvh v a _ _ g => .v v :: lSrcs a g
  | .ldvs _ a b _ g | .aadd _ a b g => .a b :: lSrcs a g
  | .stvs v a b _ g => [.v v, .a b] ++ lSrcs a g
  | .stb b a _ _ g => .b b :: lSrcs a g
  | .sta r a _ _ g => .a r :: lSrcs a g
  | .mma _ mA mB _ _ | .mmas mA mB _ _ => [.m mA, .m mB]
  | .acpy _ _ _ acc a _ => [.acc acc, ofK .m a]
  | .ald _ a _ | .mset _ _ a | .madd _ _ a _ => [ofK .m a]
  | .scla _ _ base _ | .sclb _ _ base _ => baseRegs base
  | .prom _ acc sa sb _ | .promx _ acc sa sb _ => [.acc acc, .sa sa, .sb sb]
  | .promz _ _ sa sb _ => [.sa sa, .sb sb]
  | .promi _ acc _ => [.acc acc]
  | .gld _ _ _ a _ | .qcpy _ a _ | .qpoll _ _ a | .tarmReg a | .xlook _ a | .xpin _ a | .xunpin _ a
  | .xhint _ a | .xstat _ _ a _ | .gopen _ a | .genter _ a | .gresConfirm _ a | .gresRefute _ a | .seatr _ a _
  | .a2a _ a => [ofK .g a]
  | .gst _ r a _ => [.g r, ofK .g a]
  | .atadd x | .atmin x | .atmax x | .atand x | .ator x | .atxch x => [ofK .g x.a, .g x.b]
  | .atcas x c => [ofK .g x.a, .g x.b, .g c]
  | .dcas _ _ _ a b e n => [ofK .g a, .g b, .g (pairLo e), .g (pairHi e), .g (pairLo n), .g (pairHi n)]
  | .amov _ _ _ a b c => [ofK .g a, .g b, .g c]
  | .tdec _ _ a amt => ofK .g a :: decRegs amt
  | .qred _ _ a b _ _ | .tspawn _ a b | .xroute _ a b | .xfetch _ _ a b | .xswap _ a b | .pkq _ _ a b
  | .pks _ a b | .pkk _ a b | .tkcmt _ _ _ _ _ a b | .seatw _ a b _ | .msg _ _ _ a b => [ofK .g a, .g b]
  | .gqry _ a => (a.map (ofK .g)).toList
  | _ => []

/-! ## Destinations -/

def putDst : PutArgs → Reg
  | .x d _ => .x d
  | .a d _ => .a d
  | .g d _ => .g d
  | .v d _ | .vbc d _ => .v d
  | .m d _ => .m d
  | .sb d _ => .sb d
  | .p d _ => .p d

/-- The registers that an operation writes. -/
def Instr.dsts : Instr → List Reg
  | .add d _ | .sub d _ | .mul d _ | .mulhs d _ | .mulhu d _ | .and d _ | .or d _ | .xor d _ | .andn d _
  | .shl d _ | .shr d _ | .sar d _ | .min d _ | .max d _ | .minu d _ | .maxu d _ | .addi d _ _ | .andi d _ _
  | .ori d _ _ | .xori d _ _ | .shli d _ _ | .shri d _ _ | .sari d _ _ | .li d _ | .lis d _ | .sel d _ _
  | .clz d _ | .popc d _ | .mfsr d _ | .kget d _ | .get d _ => [.s d]
  | .cmp _ q _ | .cmpi _ q _ _ => [.q q]
  | .mtsr r _ => [.sr r]
  | .kset d _ => [.k d]
  | .put x => [putDst x]
  | .prep b _ | .prepk b _ | .unprep b => [.b b]
  | .call _ => [.b 7]
  | .zset z _ => [.z z]
  | .lset lev _ | .lbrk lev _ => [.lev lev]
  | .xadd d _ _ | .xsub d _ _ | .xmul d _ _ | .xand d _ _ | .xxor d _ _ | .xshl d _ _ | .xshr d _ _
  | .xmin _ d _ _ | .xmax _ d _ _ | .xaddi d _ _ | .xshli d _ _ | .xshri d _ _ | .xli d _ | .xpopc d _ | .xclz d _
  | .xldw d _ _ | .xadv d _ _ | .xsel d _ _ _ | .aqcnt d => [.x d]
  | .vadd d _ _ _ | .vsub d _ _ _ | .vmul _ d _ _ _ | .vmin _ d _ _ _ | .vmax _ d _ _ _ | .vand d _ _ _
  | .vor d _ _ _ | .vxor d _ _ _ | .vshl d _ _ _ | .vshr d _ _ _ | .vsar d _ _ _ | .vadds _ _ d _ _ _
  | .vfadd _ d _ _ _ | .vfsub _ d _ _ _ | .vfmul _ d _ _ _ | .vfma _ d _ _ _ _ | .vfmin _ d _ _ _
  | .vfmax _ d _ _ _ | .vfsgn _ d _ _ _ | .vfrcp _ d _ _ | .vfrsq _ d _ _ | .vfexp2 _ d _ _ | .vflog2 _ d _ _
  | .vsel d _ _ _ _ | .vcvt _ _ d _ _ _ _ | .vqnt _ _ d _ _ _ _ | .vdqnt _ _ d _ _ _ _ | .vrsum _ _ _ d _ _
  | .vrmax _ _ _ _ _ d _ _ | .vrmin _ _ _ _ _ d _ _ | .vscan _ _ _ _ d _ _ | .vperm _ d _ _ _ | .vrot d _ _ _
  | .vbcst d _ _ _ | .vli d _ | .vmov d _ _ | .viota _ d _ | .ppack _ d _ | .pcnt _ d _ _ | .vpop d _
  | .gate _ _ d _ _ _ _ _ | .vdesc _ d _ _ | .vcmp48 _ d _ _ _ => [.v d]
  | .dice _ d _ => [.v d, .sr .dctrl, .sr .dctrh]
  | .vcmp _ d _ _ _ | .vfcmp _ d _ _ _ | .plog _ d _ _ _ => [.p d]
  | .punpk set _ => (pset set).map Reg.p
  | .ldv d _ _ _ _ | .ldvs d _ _ _ _ | .ldve d _ _ _ _ | .ldvh d _ _ _ _ => [.v d]
  | .ldb d _ _ _ _ => [.b d]
  | .lda d _ _ _ _ | .aadd d _ _ _ | .aaddi d _ _ _ | .ali d _ => [.a d]
  | .azero acc | .arel acc | .ald acc _ _ | .prom _ acc _ _ _ | .promz _ acc _ _ _ | .promx _ acc _ _ _
  | .promi _ acc _ => [.acc acc]
  | .mset _ d _ | .madd _ d _ _ => [.m d]
  | .scla _ d _ _ => [.sa d]
  | .sclb _ d _ _ | .scli d _ => [.sb d]
  | .gld _ _ d _ _ | .amov _ _ d _ _ _ | .tdec _ d _ _ | .drain _ d | .qcpy d _ _ | .qred _ d _ _ _ _ | .qfence d _
  | .qpoll _ d _ | .tspawn d _ _ | .xroute d _ _ | .xlook d _ | .xfetch _ d _ _ | .xpin d _ | .xunpin d _ | .xhint d _
  | .xswap d _ _ | .xstat _ d _ _ | .pkq _ d _ _ | .pks d _ _ | .pkk d _ _ | .gopen d _
  | .gresConfirm d _ | .gresRefute d _ | .gqry d _ | .seatr d _ _ | .seatw d _ _ _ | .msg _ _ d _ _ | .a2a d _ => [.g d]
  | .genter d _ => [.g d, .sr .gid]
  | .tkcmt lev pw zw _ d _ _ => .g d :: (if pw then [.lev lev] else []) ++ if zw then [.z 0, .z 1, .z 2, .z 3] else []
  | .atadd x | .atmin x | .atmax x | .atand x | .ator x | .atxch x | .atcas x _ => [.g x.d]
  | .dcas _ _ d _ _ _ _ => [.g (pairLo d), .g (pairHi d)]
  | _ => []

/-- The size of the file of the destination that an operation's d field names. -/
def Instr.dFile (p : Pos) : Instr → Nat
  | .cmp .. | .prep .. | .prepk .. | .zset .. | .vcmp .. | .vfcmp .. | .plog .. | .ldb .. | .scla .. | .sclb ..
  | .scli .. => 8
  | .kset .. | .aadd .. | .aaddi .. | .ali .. | .lda .. | .ald .. | .mset .. | .madd .. => 16
  | .put x => match putDst x with
    | .a _ | .g _ | .m _ => 16
    | .sb _ | .p _ => 8
    | _ => 32
  | _ => if p = .Q then 16 else 32

/-- The destinations that a slot's word names: a number outside its file names none (log 13). -/
def Instr.namedDsts (p : Pos) (w : Word) (i : Instr) : List Reg :=
  let d := if p = .S ∨ p = .B then fld w 17 5 else fld w 21 5
  if d < Instr.dFile p i then Instr.dsts i
  else match i with
    | .tkcmt .. => (Instr.dsts i).drop 1
    | _ => []

/-! ## Two destinations in a packet (R86) -/

/-- An operation at its position, with the destinations that it names. -/
abbrev NamedOp := Pos × Instr × List Reg

/-- An L-slot load of a v register. -/
def Instr.loadsV : Instr → Bool
  | .ldv .. | .ldvs .. | .ldve .. | .ldvh .. => true
  | _ => false

/-- A pair of operations at two positions whose common destination is allowed. -/
def mayShare (p : Pos) (q : Pos) (i j : Instr) (r : Reg) : Bool :=
  match r with
  | .acc _ => p == .M && q == .C || p == .C && q == .M
  | .v _ => p == .V && q == .L && Instr.loadsV j || p == .L && q == .V && Instr.loadsV i
  | _ => false

/-- Two operations of a packet name one destination. -/
def clash (x y : NamedOp) : Bool := x.2.2.any fun r => y.2.2.contains r && !mayShare x.1 y.1 x.2.1 y.2.1 r

/-- Some two operations of a packet do. -/
def clashes : List NamedOp → Bool
  | [] => false
  | x :: xs => xs.any (clash x) || clashes xs

/-! ## The checking scoreboard (R93, R266) -/

/-- The register that a result in flight writes, but for rows of a tile. -/
def RegWrite.reg : RegWrite → Option Reg
  | .s i _ => some (.s i)
  | .k i _ => some (.k i)
  | .q i _ => some (.q i)
  | .x i _ => some (.x i)
  | .a i _ => some (.a i)
  | .m i _ => some (.m i)
  | .z i _ => some (.z i)
  | .sb i _ => some (.sb i)
  | .sa i _ => some (.sa i)
  | .v i _ _ => some (.v i)
  | .p i _ _ => some (.p i)
  | .b i _ => some (.b i)
  | .unprep i | .keepB i => some (.b i)
  | .keepA i => some (.a i)
  | .g .. | .sr .. | .pend .. | .sticky _ | .promRow .. | .aldRow .. | .zeroTile _ => none

/-- Whether a result in flight writes a register of the scoreboard. -/
def Context.inFlight (x : Context) (r : Reg) : Bool := x.landings.any fun l => l.write.reg == some r

/-- Whether a result in flight writes some of a handle's rows: any, or those that are no promote's. -/
def Context.rowsInFlight (x : Context) (h : Fin 16) (from_ n : Nat) (promotes : Bool) : Bool :=
  match x.acc[h] with
  | none => false
  | some slot => x.landings.any fun l =>
    match l.write with
    | .promRow t row _ _ _ => promotes && t == slot && decide (from_ ≤ row.val) && decide (row.val < from_ + n)
    | .aldRow t row _ => t == slot && decide (from_ ≤ row.val) && decide (row.val < from_ + n)
    | .zeroTile t => t == slot
    | _ => false

/-- ACPY's rows: those of its descriptor. -/
def Context.copiedRows (x : Context) (a : RK 16) : Nat × Nat :=
  let d := (x.mSrc a).toNat
  (bits d 44 7, bits d 37 7 + 1)

/-- EARLYREAD: a source has a result in flight. -/
def Context.readsEarly (x : Context) (i : Instr) : Bool :=
  (Instr.srcs i).any (fun r => x.inFlight r) ||
    match i with
    | .acpy _ _ _ acc a _ => x.rowsInFlight acc (x.copiedRows a).1 (x.copiedRows a).2 true
    | _ => false

/-- WAWCONFLICT: a destination has a result in flight; a promote's rows are ordered after other promotes'. -/
def Context.writesTwice (x : Context) (i : Instr) : Bool :=
  (Instr.dsts i).any (fun r => x.inFlight r) ||
    match i with
    | .azero acc | .arel acc | .ald acc _ _ => x.rowsInFlight acc 0 128 true
    | .prom _ acc _ _ n | .promz _ acc _ _ n | .promx _ acc _ _ n | .promi _ acc n =>
      x.rowsInFlight acc 0 (n.toNat + 1) false
    | _ => false

/-! ## What an operation reads (R146, R163) -/

/-- A register's number, file by file. -/
def Reg.code : Reg → Nat
  | .s i => i.val
  | .k i => 32 + i.val
  | .q i => 48 + i.val
  | .x i => 56 + i.val
  | .v i => 88 + i.val
  | .p i => 120 + i.val
  | .a i => 128 + i.val
  | .b i => 144 + i.val
  | .z i => 152 + i.val
  | .m i => 160 + i.val
  | .sa i => 176 + i.val
  | .sb i => 184 + i.val
  | .g i => 192 + i.val
  | .acc _ | .sr _ | .lev _ => 208

/-- The tile rows that an operation reads: a slot, the first row and their number. -/
def Context.tileReads (x : Context) (i : Instr) : Option (Fin 8 × Nat × Nat) :=
  match i with
  | .acpy _ _ _ acc a _ => x.acc[acc].map fun t => (t, (x.copiedRows a).1, (x.copiedRows a).2)
  | .prom _ acc _ _ n | .promx _ acc _ _ n | .promi _ acc n => x.acc[acc].map fun t => (t, 0, n.toNat + 1)
  | _ => none

/-- An operation reads a register or a tile row with an uncorrectable error (R146). -/
def State.readsBad (s : State) (m : CtxRef) (i : Instr) : Bool :=
  (Instr.srcs i).any (fun r => s.isBad (.regs m) r.code 1) ||
    ((s.ctx m).tileReads i).any fun y => s.isBad (.acc m.core) (y.1.val * 128 + y.2.1) y.2.2

/-- An operation reads a g result whose reading is an acquire event (R163, R334, R353, R372). -/
def Context.readsAcquire (x : Context) (i : Instr) : Bool :=
  (Instr.srcs i).any fun r => match r with
    | .g j => x.gAcq[j]
    | _ => false

/-- The acquire that an operation's reading of its sources is. -/
def State.acquireFor (s : State) (m : CtxRef) (i : Instr) : State :=
  if (s.ctx m).readsAcquire i then s.acquireNow m.core else s

/-- MEMECC on the operation: FADDR, the address read, has no value for a register or a tile row, and takes a free one
(log 40). -/
def State.raiseEcc (s : State) : Out :=
  { s with fresh := s.fresh + 1 }.raise .memecc (Config.freeWord s.fresh)

/-! ## The handler's packets (R402) -/

/-- A register that a handler may write. -/
def Reg.handlers : Reg → Bool
  | .s i => decide (28 ≤ i.val)
  | .g i => decide (12 ≤ i.val)
  | .sr r => r == .control || r == .finfo || r == .uistat
  | _ => false

end Sys2Proof.Machine
end

