-- ==== Sys2Proof/Machine/Issue.lean ====
section
/-!
DEFINITION. The issue of one packet: its fetch (R63, R179 to R185), the checks of R84, R93, R356 and R402, its
operations in position order over the cores that issue (R52, R65), and what follows them: STALL cycles, the loop
boundary, the kind (R44, R189). `exec` is the dispatch, a parameter here.
-/
namespace Sys2Proof.Machine

/-! ## A packet's slots (R63 to R67) -/

/-- A slot's word. -/
def slotWord (p : BitVec 256) (i : Nat) : Word := p.extractLsb' (32 * i) 32

/-- The engine of a position (R64). -/
def posName : Nat → Pos
  | 0 => .S | 1 => .X | 2 => .V | 3 => .L | 4 => .B | 5 => .M | 6 => .C | _ => .Q

/-- The word of slot 0 of a position's bundle. -/
def headWord (p : BitVec 256) (i : Nat) : Word := slotWord p (i / 4 * 4)

/-- Whether slot 0 of a position's bundle is a header. -/
def hasHeader (p : BitVec 256) (i : Nat) : Bool := (headWord p i).getLsbD 31

/-- What a header says of a slot (R67, Table 3). -/
def headerOf (p : BitVec 256) (i : Nat) : Hdr :=
  let w := headWord p i
  if w.getLsbD 31 then ⟨w.getLsbD (24 + i % 4), some (w.extractLsb' (24 - 8 * (i % 4)) 8)⟩ else Hdr.none

/-- STALL and KIND (R66). -/
def stallOf (p : BitVec 256) : Nat := ((slotWord p 0).extractLsb' 28 3).toNat
def kindOf (p : BitVec 256) : Nat := ((slotWord p 4).extractLsb' 28 3).toNat

/-- A position's operation, none for a header; or the detail of the check that fails (R84, Table 18). -/
def slotOp (p : BitVec 256) (i : Nat) : Except (BitVec 8) (Option Instr) :=
  if i % 4 = 0 ∧ hasHeader p i then
    if (slotWord p i).getLsbD 24 then .error 0x12#8 else .ok none
  else (decodeSlot (posName i) (slotWord p i) (headerOf p i)).map some

/-- GRANT bits set in a bundle's header. -/
def grants (p : BitVec 256) (i : Nat) : Nat :=
  if hasHeader p i then popcount 3 ((headWord p i).extractLsb' 25 3).toNat else 0

/-- The operations of the slots that decode. -/
def slotOps (p : BitVec 256) : List (Nat × Option Instr) :=
  (List.range 8).map fun i => (i, match slotOp p i with | .ok o => o | .error _ => none)

/-- The operations that the slots name, decoded or not. -/
def namedOps (p : BitVec 256) : List (Nat × Option Instr) :=
  (List.range 8).map fun i =>
    (i, if i % 4 = 0 ∧ hasHeader p i then none else namedSlot (posName i) (slotWord p i) (headerOf p i))

/-- A NOP is no operation (R83). -/
def Instr.isNop : Instr → Bool
  | .nop | .nopSlot0 => true
  | _ => false

/-- The operations of a packet besides NOPs, by position. -/
def realOps (ops : List (Nat × Option Instr)) : List (Nat × Instr) :=
  ops.filterMap fun x => match x.2 with
    | some i => if Instr.isNop i then none else some (x.1, i)
    | none => none

/-! ## Decode checks (R84, R192, R402) -/

/-- Kinds that end a segment or arrive: YIELD, SYNC and END. -/
def kindStops (kind : Nat) : Bool := kind == 1 || kind == 2 || kind == 5

/-- Loop entries, transfers and skips. -/
def Instr.moves : Instr → Bool
  | .loopi .. | .loopk .. | .jmp _ | .br .. | .brn .. | .call _ | .ret | .brv .. | .skipz .. => true
  | _ => false

/-- A B operation that TKCMT with PW cannot stand beside (R366). -/
def Instr.movesLevels : Instr → Bool
  | .loopi .. | .loopk .. | .lbrk .. => true
  | _ => false

def Instr.isSkipz : Instr → Bool
  | .skipz .. => true
  | _ => false

def Instr.commitsPending : Instr → Bool
  | .tkcmt _ pw _ _ _ _ _ => pw
  | _ => false

/-- An operation that R402 forbids a handler, at its position. -/
def Instr.notInHandler (n : Nat) (i : Instr) : Bool :=
  match posName n with
  | .X | .V | .L | .M | .C => true
  | .B => !Instr.isSkipz i
  | .S | .Q => (Instr.dsts i).any fun r => !r.handlers

/-- The operand limits of an operation that need the context or the packet: detail 0x18 at its position. -/
def Context.limited (x : Context) (kind stall : Nat) (real : List (Nat × Instr)) (n : Nat) (i : Instr) : Bool :=
  (match i with
    | .trapi _ => kind != 0 || x.inNopre
    | .uiret => real.length != 1 || kind != 0 || stall != 0 || !x.uiact
    | .tkcmt _ pw _ _ _ _ _ => pw && real.any fun y => Instr.movesLevels y.2
    | i => x.inNopre && Instr.moves i) ||
    x.uiact && Instr.notInHandler n i

/-- The kind's limits, at P4. -/
def Context.kindLimited (x : Context) (kind : Nat) : Bool :=
  x.inNopre && kindStops kind || x.uiact && kind != 0

/-- The check that fails at a position, if any. -/
def Context.slotFails (x : Context) (p : BitVec 256) (real : List (Nat × Instr)) (n : Nat) : Option (BitVec 8) :=
  match slotOp p n with
  | .error d => some d
  | .ok o =>
    let lim := match o with
      | some i => !Instr.isNop i && x.limited (kindOf p) (stallOf p) real n i
      | none => false
    if lim || n == 4 && x.kindLimited (kindOf p) then some 0x18#8 else none

/-- The first failing check: its position and detail. Packet-wide checks come first. -/
def Context.decodeFails (x : Context) (p : BitVec 256) : Option (Fin 8 × BitVec 8) :=
  let real := realOps (namedOps p)
  if kindOf p = 7 then some (4, 0x01#8)
  else if x.decoup ∧ kindStops (kindOf p) then some (4, 0x02#8)
  else if 3 < grants p 0 + grants p 4 then some (if hasHeader p 0 then 0 else 4, 0x03#8)
  else if clashes (real.map fun y => (posName y.1, y.2, Instr.namedDsts (posName y.1) (slotWord p y.1) y.2)) then some (4, 0x04#8)
  else
    (List.range 8).findSome? fun n => (x.slotFails p real n).map fun d => (Fin.ofNat 8 n, d)

/-! ## Fetch (R63, R85, R183, R404) -/

/-- Packets that an instruction cache holds. -/
def icacheSize : Nat := 2048

/-- A packet kept in the instruction cache. -/
def Core.keepPacket (k : Core) (pn : Nat) (p : BitVec 256) : Core :=
  let old := k.icache.filter fun x => x.1 != pn
  { k with icache := (if old.length < icacheSize then old else old.drop 1) ++ [(pn, p)] }

/-- The packet at the executing context's pc: a miss in the TLBs walks; a page without X faults. -/
def State.fetch (s : State) (k : BitVec 256 → State → Out) : Out :=
  let c := s.focus.c
  let va := s.me.pc.toNat * 32
  match s.tlbLookup c.core va with
  | none =>
    let (id, s) := s.startWalk (.packet c) 0 va .fetch (s.me.task.map (·.launch))
    .next ((s.holdFor (.walk id)).due (.walkComplete id))
  | some e =>
    if !e.x then s.raiseD .protection 0x01#8 (BitVec.ofNat 64 va)
    else
      let pa := e.phys va
      match (s.core c.core).cached (pa / 32) with
      | some p => k p (s.modCore c.core fun x => x.keepPacket (pa / 32) p)
      | none =>
        if s.isBad .dram pa 32 then s.raise .memecc (BitVec.ofNat 64 va)
        else
          let (bs, s) := s.readHome 0#8 pa 32
          let p := BitVec.ofNat 256 (leNat bs)
          k p (s.modCore c.core fun x => x.keepPacket (pa / 32) p)

/-! ## The scoreboard and ORPHAN (R93, R356) -/

/-- An operation's cores: those that issue, the leader alone for the B slot (R52). -/
def actors (set : List CtxRef) (n : Nat) : List CtxRef := if n = 4 then set.take 1 else set

/-- The first scoreboard check that fails. -/
def State.scoreFails (s : State) (set : List CtxRef) (real : List (Nat × Instr)) : Option (Fin 8 × Cause) :=
  real.findSome? fun y =>
    let on := (actors set y.1).filter fun m => (s.ctx m).sbchk
    if on.any fun m => (s.ctx m).readsEarly y.2 then some (Fin.ofNat 8 y.1, .earlyread)
    else if on.any fun m => (s.ctx m).writesTwice y.2 then some (Fin.ofNat 8 y.1, .wawconflict)
    else none

/-- An operation that an orphan may not issue (R356); a NOP is none (R83). -/
def Instr.notForOrphans (n : Nat) (i : Instr) : Bool :=
  match i with
  | .nop | .nopSlot0 => false
  | .gopen .. | .genter .. | .gresConfirm .. | .gresRefute .. | .gqry .. => false
  | .aqg sp _ | .aqs sp _ => !sp
  | .aqsa .. => true
  | _ => n == 7

/-! ## Operations in position order -/

/-- The executing context and position. -/
def State.aim (s : State) (c : CtxRef) (n : Nat) : State :=
  { s with focus := { s.focus with c := c, pos := Fin.ofNat 8 n } }

/-- Whether the set still issues: no fault and no hold has stopped it. -/
def State.going (s : State) (c : CtxRef) : Bool := (s.ctx c).run == .ready

/-- One operation on the cores that execute it, while none stops the packet. -/
def runOn (exec : Instr → State → Out) (n : Nat) (i : Instr) : List CtxRef → State → Out
  | [], s => .next s
  | m :: ms, s =>
    let s := s.aim m n
    if (s.ctx m).orphan ∧ Instr.notForOrphans n i then s.raise .orphan 0#64
    else if s.readsBad m i then s.raiseEcc
    else
      match exec i (s.acquireFor m i) with
      | .next s => if s.going m then runOn exec n i ms s else .next s
      | o => o

/-- The operations of a packet, in position order; an orphan's kind is checked at P4. -/
def runOps (exec : Instr → State → Out) (set : List CtxRef) (kind : Nat) :
    List (Nat × Option Instr) → State → Out
  | [], s => .next s
  | (n, o) :: rest, s =>
    let kindBad := n == 4 && kindStops kind && set.any fun m => (s.ctx m).orphan
    if kindBad then (s.aim (set.headD s.focus.c) 4).raise .orphan 0#64
    else
      match o with
      | none => runOps exec set kind rest s
      | some i =>
        match runOn exec n i (actors set n) s with
        | .next s => if set.all fun m => s.going m then runOps exec set kind rest s else .next s
        | x => x

/-! ## A packet that does not issue -/

/-- Events of a stop, which stay due. -/
def Instr.ofStop : Instr → Bool
  | .faultRetire _ | .walkComplete _ | .shadowReturn _ | .holdEnd _ => true
  | _ => false

/-- A context of a packet that has not issued: as it stood before, stopped as it was found. -/
def Context.stopped (x y : Context) : Context :=
  if y.run = .faulted then
    { x with
      run := .faulted, failed := y.failed, cause := y.cause, faddr := y.faddr
      epc := epcWord (Fin.ofNat 8 (y.cause.toNat / 2 ^ 16)) x.loops.length x.pc }
  else { x with run := y.run }

/-- No operation of the packet has had an effect: what stopped it remains (R85, R267). -/
def State.unissued (s0 s1 : State) (set : List CtxRef) (all : List CtxRef) : State :=
  let s := { s0 with
    walks := s1.walks, choices := s1.choices, fresh := s1.fresh, nextId := s1.nextId
    agenda := s0.agenda ++ (s1.agenda.drop s0.agenda.length).filter Instr.ofStop }
  let s := set.foldl (fun (s : State) m => s.setCtx m ((s0.ctx m).stopped (s1.ctx m))) s
  (all.filter fun m => !set.contains m).foldl (fun s m => s.modCtx m fun x => { x with run := (s1.ctx m).run }) s

/-! ## What follows the operations -/

/-- The other cores of a coupled set keep the leader's pc and loop stack (R52, R193). -/
def State.mirror (s : State) (set : List CtxRef) : State :=
  match set with
  | [] => s
  | l :: ms =>
    let x := s.ctx l
    ms.foldl (fun s m => s.modCtx m fun y => { y with pc := x.pc, loops := x.loops, defer := x.defer, atPoint := x.atPoint }) s

/-- Schedule cycles pass on every core of the set. -/
def State.pass (s : State) (set : List CtxRef) (n : Nat) : State := set.foldl (fun s m => s.tick m n) s

/-- The packet's issue cycle and those after it until the next may issue. -/
def State.busyFor (s : State) (set : List CtxRef) (n : Nat) : State :=
  set.foldl (fun s m => s.modCore m.core fun k => { k with nextAt := s.cycle + n }) s

/-- The next packet: a transfer's target, or what the loop boundary gives; a boundary that waits for TKCMT's
pending count stays open (R189, R370). -/
def State.moveOn (s : State) (c : CtxRef) (waits : Bool) : State :=
  s.modCtx c fun x =>
    match s.focus.transfer with
    | some t => { x with pc := t, atPoint := false }
    | none =>
      if waits then { x with defer := true, atPoint := false }
      else
        let (loops, pc) := loopBoundary x.pc x.loops
        { x with loops, pc, atPoint := x.boundaryPoint x.pc pc loops }

/-- The kind takes effect (R44). -/
def runKind (exec : Instr → State → Out) (kind : Nat) (s : State) : Out :=
  match kind with
  | 1 => exec .yieldK s
  | 2 => exec .syncK s
  | 3 => exec .decoupleK s
  | 4 => exec .rejoinK s
  | 5 => exec .endK s
  | 6 => exec .breakK s
  | _ => .next s

/-- A sequential fetch that misses may wait: schedule cycles, whose number is an open choice (R183, log 5). -/
def State.fetchWait (s : State) (set : List CtxRef) (l : CtxRef) (at_ : PcWord) : State :=
  if s.focus.transfer.isNone ∧ (s.ctx l).pc = at_ + 1#43 ∧ !s.packetAtHand l.core (s.ctx l).pc then
    let (n, s) := s.choose fetchWaitBound
    set.foldl (fun (s : State) m => s.spend m.core n) (s.pass set n)
  else s

/-- A packet's operations have issued: stores perform, STALL cycles pass, the next packet is known, and the
kind takes effect. -/
def State.issued (exec : Instr → State → Out) (set : List CtxRef) (l : CtxRef) (p : BitVec 256) (waits : Bool)
    (s : State) : Out :=
  let s := s.performStores
  let s := s.aim l 4
  let n := 1 + stallOf p + s.focus.wait
  let s := if s.focus.resumed then s else s.pass set n
  let s := ((s.moveOn l waits).mirror set).busyFor set n
  let s := s.fetchWait set l s.focus.at_
  runKind exec (kindOf p) s

/-- A packet that has been fetched is checked and issued. -/
def State.issuePacket (exec : Instr → State → Out) (set : List CtxRef) (l : CtxRef) (p : BitVec 256) (s : State) :
    Out :=
  match (s.ctx l).decodeFails p with
  | some (n, d) => .next (s.takeFault l n .illegal d (s.ctx l).pc (pcAddr (s.ctx l).pc))
  | none =>
    let ops := slotOps p
    let real := realOps ops
    match s.scoreFails set real with
    | some (n, cause) => .next (s.takeFault l n cause 0x00#8 (s.ctx l).pc 0#64)
    | none =>
      match runOps exec set (kindOf p) ops s with
      | .next s1 =>
        if set.all fun m => s1.going m then
          s1.issued exec set l p (real.any fun y => Instr.commitsPending y.2)
        else .next (s.unissued s1 set (s.fusedSet l))
      | o => o

/-- The g register on which the set's next packet waits (R343, R364). -/
def State.waitsOn (s : State) (set : List CtxRef) : Option (Fin 16) :=
  set.findSome? fun m => (s.ctx m).gWait.bind fun d => if (s.ctx m).gPending[d] then some d else none

/-- A context whose turn it is issues its next packet, or finds what holds it. -/
def State.issue (exec : Instr → State → Out) (c : CtxRef) (s : State) : Out :=
  let set := s.issueSet c
  let s := s.mirror set
  let s := { s with focus := ⟨c, (s.ctx c).pc, 0, none, 0, false, []⟩ }
  match s.waitsOn set with
  | some d => .next (s.holdFor (.g d))
  | none =>
    let s := set.foldl (fun (s : State) m => s.modCtx m fun x => { x with gWait := none }) s
    s.fetch fun p s => s.issuePacket exec set c p

/-! ## The in-core choice (R45, R52) -/

/-- A context that could be chosen: ready, and the one that issues for its set. -/
def Context.choosable (x : Context) : Bool := x.run == .ready && x.task.isSome && (x.leader || x.decoup)

/-- The place of a context in the order after the one that last ended a segment. -/
def turnAfter (last i : Fin 8) : Nat := (i.val + 7 - last.val) % 8

/-- The in-core choice: the lowest class, then the order after the last segment. -/
def Core.picks (k : Core) : Option (Fin 8) :=
  let xs := (List.finRange 8).filter fun i => (k.ctxs[i]).choosable
  (sortBy (fun (i j : Fin 8) =>
    decide ((k.ctxs[i]).cls < (k.ctxs[j]).cls) || (k.ctxs[i]).cls == (k.ctxs[j]).cls &&
      decide (turnAfter k.lastEnd i < turnAfter k.lastEnd j)) xs).head?

/-- The shadow context of a core handles a fault of one of its contexts, whichever has the segment: nothing issues there
until the task is retired (R394 to R396). -/
def State.shadowed (s : State) (k : Fin 64) : Bool :=
  (List.finRange 8).any fun i =>
    (s.ctx ⟨k, i⟩).run == .faulted && (s.fusedSet ⟨k, i⟩).any fun m => (s.ctx m).failed.isSome && !(s.ctx m).engineFaulted

/-- No core of a set is held so. -/
def State.unshadowed (s : State) (set : List CtxRef) : Bool := set.all fun m => !s.shadowed m.core

/-- The choice of a core that has no segment, with its set. -/
def State.wants (s : State) (k : Fin 64) : Option (List CtxRef) :=
  if (s.core k).current.isSome then none else ((s.core k).picks.map fun i => s.issueSet ⟨k, i⟩).filter s.unshadowed

/-- DESIGN CHOICE: where the cores of a fused set choose differently, a lower core's choice of a set claims the
set's other cores before their own choices (R45 states the choice of one core; log 38). -/
def State.claimed (s : State) (k : Fin 64) : Bool :=
  (List.range (k.val % 4)).any fun i =>
    match s.wants (Fin.ofNat 64 (k.val / 4 * 4 + i)) with
    | some set => set.any fun m => m.core == k
    | none => false

/-- The context that a core would issue from, if any: its segment's, or its choice where every core of the set
is free. -/
def State.turnOf (s : State) (k : Fin 64) : Option CtxRef :=
  match (s.core k).current with
  | some i =>
    let x := (s.core k).ctxs[i]
    if x.choosable && s.unshadowed (s.issueSet ⟨k, i⟩) then some ⟨k, i⟩ else none
  | none =>
    match s.wants k with
    | some (l :: ms) =>
      if s.claimed k then none
      else if ms.all fun m => (s.core m.core).current.isNone then some l
      else none
    | _ => none

/-- A context that is to be pre-empted, or that an ABORT stops, where it stands issues nothing (R381, R387). -/
def State.yieldsTo (s : State) (c : CtxRef) : Bool :=
  let x := s.ctx c
  s.tornDown c == some true && x.stopsAbort || (s.preemptFor c).isSome && x.atPoint && !x.uiact && !x.decoup && x.trap.isNone

/-- The cycle at which a context may issue. -/
def State.issueAt (s : State) (c : CtxRef) : Nat :=
  (s.issueSet c).foldl (fun n m => max n (s.core m.core).nextAt) s.cycle

/-- The contexts that may issue, each with its cycle. -/
def State.issuers (s : State) : List (CtxRef × Nat) :=
  if s.standby then []
  else (List.finRange 64).filterMap fun k =>
    match s.turnOf k with
    | some c => if s.yieldsTo c then none else some (c, s.issueAt c)
    | none => none

/-- Those that issue first. -/
def State.firstIssuers (s : State) : List (CtxRef × Nat) :=
  let xs := s.issuers
  match xs with
  | [] => []
  | x :: rest =>
    let t := rest.foldl (fun t y => min t y.2) x.2
    xs.filter fun y => y.2 == t

/-- gPTP time passes with the arithmetic clock's cycles (log 6). -/
def State.atCycle (s : State) (n : Nat) : State :=
  let n := max n s.cycle
  let mhz := max s.mhz 1
  { s with cycle := n, gptp := s.gptp + (n * 1000 / mhz - s.cycle * 1000 / mhz) }

/-- A segment starts: the set's cores have it, and acquire at DEV scope (R45, R162). -/
def State.startSegment (s : State) (c : CtxRef) : State :=
  if (s.core c.core).current = some c.ctx then s
  else
    (s.issueSet c).foldl (fun (s : State) m =>
      (s.modCore m.core fun k => { k with current := some m.ctx }).acquireNow m.core) s

/-- A context's turn: a waiting interrupt enters before its packet (R401); else the packet issues. -/
def State.takeTurn (exec : Instr → State → Out) (c : CtxRef) (n : Nat) (s : State) : Out :=
  let s := (s.atCycle n).startSegment c
  if s.uiReady c then
    exec (.uiEntry c) { s with agenda := s.agenda.erase (.uiEntry c) }
  else s.issue exec c

/-! ## A word placed for the next step -/

/-- The slot of a position. -/
def posIndex : Pos → Nat
  | .S => 0 | .X => 1 | .V => 2 | .L => 3 | .B => 4 | .M => 5 | .C => 6 | .Q => 7

/-- A packet whose one operation is a word, at the position where the decoder finds an operation (log 4). -/
def wordPacket (w : Nat) : BitVec 256 :=
  match tablePick w with
  | some (p, _) => BitVec.ofNat 256 (w % 2 ^ 32 * 2 ^ (32 * posIndex p))
  | none => BitVec.ofNat 256 (w % 2 ^ 32)

/-- A page of which every access is allowed, that maps addresses to themselves. -/
def openPage : TlbEntry := ⟨0, 0, 30, true, true, true⟩

/-- Context 0 of core 0 stands at packet 0 of a task, with the turn to issue; the packet lies in memory and
nothing is due (log 3). A word of no instruction's length is placed as an empty slot. -/
def State.placeWord (s : State) (nbits w : Nat) : State :=
  let p := if nbits = 32 then wordPacket w else 0#256
  let x : Context := { (s.ctx ⟨0, 0⟩) with
    pc := 0#43, loops := [], run := .ready, task := some ⟨0, 0#28, 16⟩, gWait := none, defer := false, trap := none
    uiQueue := [], decoup := false, leader := true, fusew := 0, spsize := 0x200000#22, orphan := false }
  let s := s.setCtx ⟨0, 0⟩ x
  { s with
    cores := s.cores.set 0 { s.core 0 with current := some 0, tlb := [openPage], icache := [], pstreams := []
                                           nextAt := s.cycle }
    dram := s.dram.setBytes 0 (leBytes 32 p.toNat)
    agenda := [], standby := false, powered := true, choices := [] }

end Sys2Proof.Machine
end

