-- ==== Sys2Proof/Machine/Step.lean ====
section
/-!
DEFINITION. One step of the module (log 6): a due event that may happen, a packet of a context whose turn it is,
or a cycle in which nothing happens. Which of several happens is an open choice (log 5).
-/
namespace Sys2Proof.Machine

/-- A step, over the operations and events. -/
def stepWith (run : Instr → State → Out) (s : State) : Out :=
  if !s.powered then
    if s.agenda.contains .deviceReset then run .deviceReset s else .fault .poweredDown
  else
    let ready := s.readyAt 0 s.agenda
    let firsts := s.firstIssuers
    let total := ready.length + (if firsts.isEmpty then 0 else 1)
    if total = 0 then .next (s.atCycle (s.cycle + 1))
    else
      let (n, s) := s.choose total
      match ready[n]? with
      | some i =>
        match s.agenda[i]? with
        | some e => keepMessage e (run e { s with agenda := s.agenda.eraseIdx i })
        | none => .next s
      | none =>
        let (k, s) := s.choose firsts.length
        match firsts[k]? with
        | some x => s.takeTurn run x.1 x.2
        | none => .next s

/-- One step of the module. -/
def step (s : State) : Host.Outcome State Fault Refusal := stepWith exec s

/-- The state with a packet whose one operation has this word stored where the next step fetches: context 0 of
core 0 is bound and in its segment, its packet's page is in the core's TLB, and nothing else is due. -/
def State.withFetchWord (s : State) (nbits w : Nat) : State := s.placeWord nbits w

end Sys2Proof.Machine
end

