-- ==== Sys2Proof/WellFormed.lean ====
section
/-!
DEFINITION. Which terms of Instr are instructions: what the operand types do not say. Every term that
the decoder gives is well-formed, and every well-formed term of an encoded row has an encoding. An
event has no encoding; its arguments are well-formed as they stand.
-/
namespace Sys2Proof

/-- Formats VCVT converts from and to (R226). -/
def Fmt.cvtOk (src dst : Fmt) : Bool :=
  dst != .tf32 && dst != .e8m0 && (src != .e8m0 || dst == .fp32)

/-- Formats of VQNT, and of VDQNT without MX (R228, R229). -/
def Fmt.qntOk (f : Fmt) : Bool := f != .tf32 && f.code < 12

/-- Formats that may be stored MX (R229, R251). -/
def Fmt.mxOk (f : Fmt) : Bool := 3 ≤ f.code && f.code ≤ 7

/-- Operand pairs of the array (R118). -/
def Fmt.pairOk (fa fb : Fmt) : Bool :=
  fa.code < 12 && fb.code < 12 && decide (fa.code < 8) == decide (fb.code < 8)

/-- Formats of MMAS (R254). -/
def Fmt.sparseOk (f : Fmt) : Bool := f == .e4m3 || f == .e5m2 || f == .int8 || f == .uint8

/-- Types of ATADD, and of ATMIN and ATMAX; FP32 only on four bytes (R272). -/
def AtArgs.ok (x : AtArgs) (ts : List AtT) : Bool := ts.contains x.t && (x.t != .f || x.w)

/-- The static conditions on an operation's operands. -/
def Instr.wellFormed : Instr → Bool
  | .mtsr sr _ => sr.writable
  | .chk f a b n => a.val + n.val < f.size && b.val + n.val < f.size
  | .vcvt _ _ _ _ src dst _ => src.cvtOk dst
  | .vqnt _ _ _ _ _ f _ => f.qntOk
  | .vdqnt _ mx _ _ _ f _ => if mx then f.mxOk else f.qntOk
  | .vrsum rm i32 _ _ _ _ => !i32 || rm == .rne
  | .vrmax _ u nan i32 _ _ _ _ => (!u || i32) && (!nan || !i32)
  | .vrmin _ u nan i32 _ _ _ _ => (!u || i32) && (!nan || !i32)
  | .vscan rm _ i32 _ _ _ _ => !i32 || rm == .rne
  | .vcmp48 _ _ _ f _ =>
    f == .bf16 || f == .fp16 || f == .e4m3 || f == .e5m2 || f == .int8 || f == .uint8
      || f == .fp32 || f == .int32
  | .mma mx _ _ fa fb => fa.pairOk fb && (!mx || 5 ≤ fb.code && fb.code ≤ 7)
  | .mmas _ _ fa fb => fa.pairOk fb && fa.sparseOk && fb.sparseOk
  | .acpy _ _ _ _ _ f => f != .tf32 && f != .e8m0
  | .ald _ _ f => f == .bf16 || f == .fp16 || f == .fp32 || f == .int32
  | .atadd x => x.ok [.s, .f]
  | .atmin x => x.ok [.s, .u, .f]
  | .atmax x => x.ok [.s, .u, .f]
  | .atand x => x.ok [.s]
  | .ator x => x.ok [.s]
  | .atxch x => x.ok [.s]
  | .atcas x _ => x.ok [.s]
  | _ => true

end Sys2Proof
end

