-- ==== Sys2Proof/Safety.lean ====
section
/-!
DEFINITION. The terms in which claims about the machine are stated: what a run must not lose (memories in their
canonical form), what an operation leaves alone (its frame), and the conditions, on the state and the operands
alone, under which an operation has its own effect. The machine does not use them.
-/
namespace Sys2Proof.Machine

/-! ## Encodings -/

/-- The opcodes that Tables 10 to 17 of R82 assign, slot by slot. -/
def assignedOpcodes : Pos → List Nat
  | .S => (List.range 0x28).drop 1
  | .B => (List.range 0x10).drop 1
  | .X => (List.range 0x17).drop 1
  | .V => (List.range 0x0D).drop 1 ++ (List.range 0x1B).drop 0x10 ++ [0x1C, 0x1D, 0x1E, 0x20, 0x21, 0x22] ++
      (List.range 0x2E).drop 0x24 ++ (List.range 0x36).drop 0x30 ++ (List.range 0x3C).drop 0x38
  | .L => (List.range 0x0F).drop 1
  | .M => (List.range 0x09).drop 1
  | .C => (List.range 0x08).drop 1
  | .Q => [0x01, 0x02] ++ (List.range 0x0F).drop 4 ++ [0x10, 0x12, 0x13, 0x14, 0x15, 0x16] ++
      (List.range 0x23).drop 0x18 ++ (List.range 0x2B).drop 0x24 ++ [0x2C, 0x2D]

/-- The opcode field of a slot: bits [27:22] of an S or B operation, bits [31:26] of another (R72, R73). -/
def opcodeOf (p : Pos) (w : Word) : Nat :=
  match p with
  | .S | .B => (w.extractLsb' 22 6).toNat
  | _ => (w.extractLsb' 26 6).toNat

/-! ## Memories -/

/-- Every memory of the machine is in its canonical form. -/
def State.memoriesWf (s : State) : Prop :=
  s.dram.wf = true ∧
    (∀ c : Fin 64, (s.core c).spad.wf = true ∧ (s.core c).canopy.wf = true) ∧
    (∀ i : Fin 2, (s.firmware[i]).wf = true) ∧
    ∀ d ∈ s.drives, d.data.wf = true

/-- Every byte of device memory, of every scratchpad and of every canopy reads as before. -/
def State.sameMemory (s t : State) : Prop :=
  (∀ a, t.dram.get a = s.dram.get a) ∧
    ∀ (c : Fin 64) (a : Nat),
      (t.core c).spad.get a = (s.core c).spad.get a ∧ (t.core c).canopy.get a = (s.core c).canopy.get a

/-! ## Frames of a context -/

/-- The register files that only results in flight write, and the g file. -/
def Context.sameFiles (x y : Context) : Prop :=
  y.s = x.s ∧ y.k = x.k ∧ y.x = x.x ∧ y.v = x.v ∧ y.p = x.p ∧ y.a = x.a ∧ y.b = x.b ∧ y.q = x.q ∧ y.z = x.z ∧
    y.m = x.m ∧ y.sa = x.sa ∧ y.sb = x.sb ∧ y.g = x.g ∧ y.sBank = x.sBank ∧ y.gBank = x.gBank

/-- The special registers that no fault writes. -/
def Context.sameSpecials (x y : Context) : Prop :=
  y.sticky = x.sticky ∧ y.uiact = x.uiact ∧ y.cls = x.cls ∧ y.fusew = x.fusew ∧ y.leader = x.leader ∧
    y.decoup = x.decoup ∧ y.control = x.control ∧ y.finfo = x.finfo ∧ y.gid = x.gid ∧ y.orphan = x.orphan ∧
    y.syncsel = x.syncsel ∧ y.splim = x.splim ∧ y.uivec = x.uivec ∧ y.uistat = x.uistat ∧ y.spbase = x.spbase ∧
    y.spsize = x.spsize ∧ y.dkey = x.dkey ∧ y.dctrh = x.dctrh ∧ y.dctrl = x.dctrl ∧ y.rpsel = x.rpsel ∧
    y.task = x.task

/-- The registers that taking a fault writes. -/
def Context.sameFaultRegs (x y : Context) : Prop := y.cause = x.cause ∧ y.epc = x.epc ∧ y.faddr = x.faddr

/-- A result in flight that an operation may add: of a register it names, or a sticky flag, a row of a tile or a
pending loop count. -/
def RegWrite.namedBy (i : Instr) (w : RegWrite) : Bool :=
  match w with
  | .sr r _ => (Instr.dsts i).contains (.sr r)
  | .g d _ => (Instr.dsts i).contains (.g d)
  | w => match w.reg with
    | some r => (Instr.dsts i).contains r
    | none => true

/-! ## Conditions of an operation's own effect -/

/-- No engine has an access waiting at the banks of the executing core. -/
def State.banksIdle (s : State) : Bool := s.mine.bankq.all (·.isEmpty)

/-- The executing context issues alone, and no engine has an access on its way to its core's banks. -/
def State.quiet (s : State) : Bool := s.me.fusew == 0 && s.banksIdle && s.mine.upstream.isEmpty

/-- No g register of a list waits for its result. -/
def State.gFree (s : State) (regs : List (Fin 16)) : Bool := (s.me.gBusy regs).isNone

/-- The physical address at which the executing packet may access bytes of a page: its TLBs hold the page, the
page allows the access, and no guard forbids it. -/
def State.pageFor (s : State) (va n : Nat) (access : Access) (t : Toucher) : Option Nat :=
  if s.inPipe va n then none
  else match s.tlbLookup s.focus.c.core va with
    | some e => if e.allows access && !s.guardsAgainst t va (e.phys va) n then some (e.phys va) else none
    | none => none

/-- Elements of `n` bytes at offsets, aligned, above the stack limit where it applies, and inside the window. -/
def State.windowOk (s : State) (align n : Nat) (limit : Bool) (os : List Int) : Bool :=
  os.all fun o =>
    o % align == 0 && decide (0 ≤ o) && decide (o + n ≤ s.me.spsize.toNat) &&
      (!limit || decide ((s.me.splim.toNat : Int) ≤ o))

/-- No uncorrectable error lies in elements of `n` bytes at offsets of the executing window. -/
def State.soundAt (s : State) (n : Nat) (os : List Int) : Bool :=
  os.all fun o => !s.isBad (.spad s.focus.c.core) (s.me.windowBase + o.toNat) n

/-- A byte of the executing context's window. -/
def State.windowByte (s : State) (o : Nat) : Byte := s.mine.spad.get (s.me.windowBase + o)

/-- Bytes of the window. -/
def State.windowBytes (s : State) (o n : Nat) : List Byte := (List.range n).map fun i => s.windowByte (o + i)

/-- The little-endian number of `n` bytes of the window. -/
def State.windowNum (s : State) (o n : Nat) : Nat := natOfBytes (fun i => s.windowByte (o + i)) n

/-- What a reader of the executing core's scratchpad sees at an address when the packet's stores have performed:
the last of them there, or what it held. -/
def State.spadAfter (s : State) (c : Fin 64) (a : Nat) : Byte :=
  ((s.focus.stores.reverse.find? fun x => x.1 == c && x.2.1 == a).map fun x => x.2.2).getD ((s.core c).spad.get a)

/-! ## Numbers (R103 to R113) -/

/-- An infinity. -/
def FVal.isInf : FVal → Bool
  | .inf _ => true
  | _ => false

/-- Two values are one number: infinities of one sign, or finite values of one sign and one magnitude. -/
def FVal.sameNumber : FVal → FVal → Bool
  | .inf a, .inf b => a == b
  | .fin a m e, .fin b n f => a == b && m * 2 ^ (e - min e f).toNat == n * 2 ^ (f - min e f).toNat
  | _, _ => false

/-- Table 4 of R111: for each format a magnitude m × 2^e that overflows under RNE, and the next below it, of one more
bit, that does not. -/
def overflowTable : List (Fmt × (Nat × Int) × (Nat × Int)) :=
  [(.fp32, (2 ^ 25 - 1, 103), (2 ^ 26 - 3, 102)), (.bf16, (2 ^ 9 - 1, 119), (2 ^ 10 - 3, 118)),
   (.tf32, (2 ^ 12 - 1, 116), (2 ^ 13 - 3, 115)), (.fp16, (65520, 0), (131039, -1)), (.e4m3, (929, -1), (464, 0)),
   (.e5m2, (61440, 0), (122879, -1)), (.e3m2, (30, 0), (59, -1)), (.e2m3, (31, -2), (61, -3)), (.e2m1, (7, 0), (13, -1))]

/-- Table 2 of R105 and R106: the codes of a format's infinity, largest finite value and canonical NaN, and of its sign
bit; E4M3 has no infinity. -/
def specialCodes : List (Fmt × Nat × Nat × Nat × Nat) :=
  [(.fp32, 0x7F800000, 0x7F7FFFFF, 0x7FC00000, 2 ^ 31), (.tf32, 0x7F800000, 0x7F7FE000, 0x7FC00000, 2 ^ 31),
   (.bf16, 0x7F80, 0x7F7F, 0x7FC0, 2 ^ 15), (.fp16, 0x7C00, 0x7BFF, 0x7E00, 2 ^ 15), (.e5m2, 0x7C, 0x7B, 0x7E, 2 ^ 7),
   (.e4m3, 0x7F, 0x7E, 0x7F, 2 ^ 7)]

/-- The magnitude of the FP32 word with these low 31 bits, in units of 2^-149 (R103, R105); for an infinity, 2^128. -/
def units32 (b : Nat) : Nat := if b < 2 ^ 23 then b else (2 ^ 23 + b % 2 ^ 23) * 2 ^ (b / 2 ^ 23 - 1)

/-- An FP32 word that is no NaN, in those units. -/
def signed32 (w : Word) : Int :=
  if w.msb then -(units32 (w.toNat % 2 ^ 31) : Int) else (units32 (w.toNat % 2 ^ 31) : Int)

/-- A result with its flags is the one correct rounding to FP32 (R108, R111, R113), under a sign, of a magnitude above 0
that is known by the multiples of 2^-150 below it and above it. -/
def correct32 (rm : RM) (neg : Bool) (below above : Nat → Prop) (r : Word × Flags) : Prop :=
  let b := r.1.toNat % 2 ^ 31
  let at_ (i : Nat) : Nat := 2 * units32 i
  let half (i : Nat) : Nat := units32 i + units32 (i + 1)
  let exact : Prop := b < 0x7F800000 ∧ ¬ below (at_ b) ∧ ¬ above (at_ b)
  r.1.msb = neg ∧ b ≤ 0x7F800000 ∧
    (if rm = .rne then
      (b < 0x7F800000 → ¬ below (half b) ∧ (¬ above (half b) → b % 2 = 0)) ∧
        (0 < b → ¬ above (half (b - 1)) ∧ (¬ below (half (b - 1)) → b % 2 = 0))
    else if rm = .rz ∨ rm = .rd ∧ neg = false ∨ rm = .ru ∧ neg = true then
      b < 0x7F800000 ∧ ¬ above (at_ b) ∧ (b < 0x7F7FFFFF → above (at_ (b + 1)))
    else (b < 0x7F800000 → ¬ below (at_ b)) ∧ (0 < b → below (at_ (b - 1)))) ∧
    r.2.iv = false ∧ (r.2.nx = true ↔ ¬ exact) ∧ (r.2.ovf = true ↔ b = 0x7F800000 ∨ ¬ above (at_ 0x7F800000)) ∧
    (r.2.uf = true ↔ ¬ exact ∧ 0 < b ∧ b < 2 ^ 23)

/-! ## Other terms of the statements -/

/-- The operation has as its whole effect a v result in the lanes of a guard, whose lanes are given (R76, R216). -/
def State.gives (s : State) (i : Instr) (lat : Nat) (d : Fin 32) (g : Guard) (f : Nat → Word) : Prop :=
  ∃ v, exec i s = .next (s.land lat (.v d v (s.me.mask g))) ∧ ∀ n < 128, lane v n = f n

/-- The same with the sticky flags that those lanes of the guard raise, which land with the result (R126). -/
def State.givesF (s : State) (i : Instr) (lat : Nat) (d : Fin 32) (g : Guard) (f : Nat → Word × Flags) : Prop :=
  ∃ v fl, exec i s = .next ((s.land lat (.v d v (s.me.mask g))).landFlags lat fl) ∧
    (∀ n < 128, lane v n = (f n).1) ∧
    ∀ get ∈ [Flags.iv, Flags.ovf, Flags.uf, Flags.nx],
      (get fl = true ↔ ∃ n < 128, s.me.active g n = true ∧ get (f n).2 = true)

/-- The operation has as its whole effect a v result in every lane, whatever its guard. -/
def State.givesAll (s : State) (i : Instr) (lat : Nat) (d : Fin 32) (f : Nat → Word) : Prop :=
  ∃ v, exec i s = .next (s.land lat (.v d v (BitVec.allOnes 128))) ∧ ∀ n < 128, lane v n = f n

/-- Node `i` at level `l` of the binary tree over leaves (R232). -/
def treeAt (op : Word → Word → Word) (leaf : Nat → Word) : Nat → Nat → Word
  | 0, i => leaf i
  | l + 1, i => op (treeAt op leaf l (2 * i)) (treeAt op leaf l (2 * i + 1))

/-- The running value before element `n` of those that begin at `first` (R234). -/
def runAt (op : Word → Word → Word) (id : Word) (leaf : Nat → Word) (first : Nat) : Nat → Word
  | 0 => id
  | n + 1 => op (runAt op id leaf first n) (leaf (first + n))

/-- The bytes that a store of elements of `n` bytes leaves at the executing core's scratchpad, in lane order. -/
def State.stored (s : State) (n : Nat) (on : List Nat) (o : Nat → Int) (val : Nat → Nat) :
    List (Fin 64 × Nat × Byte) :=
  on.flatMap fun l => (List.range n).map fun i =>
    (s.focus.c.core, s.me.windowBase + (o l).toNat + i, BitVec.ofNat 8 (val l / 256 ^ i))

/-- The state with bytes that wait for the end of the packet's issue (R135). -/
def State.storing (s : State) (cells : List (Fin 64 × Nat × Byte)) : State :=
  { s with focus := { s.focus with stores := s.focus.stores ++ cells } }

/-- No pending bit that the context checks covers the words that a load of `n` bytes at offsets reads (R137). -/
def State.unpended (s : State) (ma : Bool) (n : Nat) (os : List Int) : Prop :=
  s.me.pendchk = false ∨ ∀ o ∈ os, ∀ i < (n + 3) / 4,
    s.pendingTrap ma (((s.me.windowBase + o.toNat) / 4 + i) * 4) = false

/-- Whether a side array's sectors stand in the metadata cache of the executing core. -/
def State.sideCached (s : State) (va sectors : Nat) : Prop :=
  ∀ i < sectors, (lookupNat s.mine.metaCache ((va + 32 * i) % 2 ^ 48 / 32)).isSome = true

/-- The bytes of a side array as the metadata cache holds them. -/
def State.sideBytes (s : State) (va sectors : Nat) : List Byte :=
  (List.range sectors).flatMap fun i => (lookupNat s.mine.metaCache ((va + 32 * i) % 2 ^ 48 / 32)).getD []

/-- Element `e` of a row of the executing window that begins at an offset. -/
def State.windowElem (s : State) (o w e : Nat) : Nat := elemAt (fun i => s.windowByte (o + i)) w e

/-- Element `e` of the canopy bytes of the executing core from an address on. -/
def State.canopyElem (s : State) (a w e : Nat) : Nat := elemAt (fun i => s.mine.canopy.get (a + i)) w e

/-- The state in which the executing packet has failed a check at issue (R85). -/
def State.failing (s : State) (cause : Cause) (detail : BitVec 8) (faddr : DWord) : State :=
  s.takeFault s.focus.c s.focus.pos cause detail s.me.pc faddr

/-- The state in which a context's one packet is fetched: the choices of a step taken, the cycle reached, the
segment begun, and the packet's waits and focus set. -/
def State.atTurn (s : State) (c : CtxRef) (cyc : Nat) : State :=
  let s := (((s.choose 1).2.choose 1).2.atCycle cyc).startSegment c
  let s := { s with focus := ⟨c, (s.ctx c).pc, 0, none, 0, false, []⟩ }
  s.modCtx c fun x => { x with gWait := none }

/-- The context after `n` schedule cycles more than those at which an operation of latency `lat` issues. -/
def State.later (s : State) (lat : Nat) (w : RegWrite) (n : Nat) : Context :=
  ((s.land lat w).tick s.focus.c n).ctx s.focus.c

/-- The integer tests of R77. -/
def testHolds {n : Nat} (cc : ICc) (a b : BitVec n) : Prop :=
  match cc with
  | .eq => a = b
  | .ne => a ≠ b
  | .lt => a.toInt < b.toInt
  | .le => a.toInt ≤ b.toInt
  | .gt => a.toInt > b.toInt
  | .ge => a.toInt ≥ b.toInt
  | .ltu => a.toNat < b.toNat
  | .geu => a.toNat ≥ b.toNat

/-! ## Engines -/

/-- The accesses of an owner that wait at a core's banks, or on their way to them. -/
def Core.accesses (k : Core) (o : AccOwner) : List BankAcc :=
  (k.bankq.toList.flatten ++ k.upstream).filter fun x => x.owner == o

/-- The bytes that an owner has still to write at a core's banks: what is queued, and nothing more, writes them. -/
def Core.queuesWrites (k : Core) (o : AccOwner) (p : Nat → Byte → Prop) : Prop :=
  (∀ x ∈ k.accesses o, x.reads = []) ∧
    ∀ a b, (∃ x ∈ k.accesses o, ∃ ws, x.write = some ws ∧ (a, b) ∈ ws) ↔ p a b

/-- Bytes at the places of a span's physical pieces. -/
def spanCells : List (Nat × Nat) → List Byte → List (Nat × Byte)
  | [], _ => []
  | (pa, n) :: ps, bs => (bs.take n).mapIdx (fun i b => (pa + i, b)) ++ spanCells ps (bs.drop n)

/-- What element `j` of row `r` of a copy element becomes (R287, R288): its source element, converted where the record
asks for it; 0 beyond the valid rows and columns. -/
def CopyElem.result (e : CopyElem) (src : Nat → Byte) (r j : Nat) : Nat :=
  let sf := recSrcFmt e.words
  let df := recDstFmt e.words
  let x := elemAt src (fmtWidth sf) j
  if r < recVRows e.words ∧ j < recVCols e.words then
    if recFlag e.words 1 then
      (cvt (scaleF (fval sf x) (if recFlag e.words 2 then f32 e.words[10] else .fin false 1 0)).1 df
        (rmodeOf (recMode e.words)) (recFlag e.words 3)
        (if recMode e.words = 4 then
          (diceWord e.dice.1 e.dice.2.1 e.dice.2.2 (r * recCols e.words + j)).toNat else 0)).1
    else if df = .tf32 then x / 8192 * 8192 else x
  else 0

/-! ## Settings (R421) -/

/-- A setting of Tables 5 and 6: its code, least payload and assigned bits, what makes it malformed besides, and when it is
accepted. -/
structure Setting where
  code   : Nat
  need   : Nat
  fields : List (Nat × Nat)
  bad    : Bool
  ok     : Bool

/-- The settings in the order of Table 5, for a message that a state acts on. -/
def settings (u : State) (p : FltMsg) : List Setting :=
  let f := mgmtField p.payload
  let odd (n : Nat) : Bool := n % 65536 != 0
  let n := gateCount p.payload
  let pool := f 8 1 == 1
  let weak := u.launches.any fun l => l.2.admitted && l.2.pclass == 0
  [⟨1, 30, [(0, 32), (64, 48), (128, 48)], odd (f 64 48) || odd (f 128 48),
      (u.launchesOn (f 0 32)).isEmpty && !u.launches.any fun l => l.2.admitted && l.2.image == f 0 32⟩,
    ⟨2, 10, [(0, 10)], f 0 10 % 16 != 0 || decide (512 < f 0 10), u.noLaunch && u.noCanopyFill⟩,
    ⟨3, 22, [(0, 3), (8, 1), (64, 48)], f 8 1 == 1 && f 64 48 != 0,
      u.modelFree (f 0 3 % 8) && (u.resid.bases[Fin.ofNat 8 (f 0 3)]).isSome == (f 8 1 == 1)⟩,
    ⟨4, 40, [(0, 48), (64, 64), (128, 48), (192, 64)],
      odd (f 0 48) || odd (f 64 64) || odd (f 128 48) || odd (f 192 64), !u.resid.bases.any (·.isSome)⟩,
    ⟨5, 38, [(0, 48), (64, 48), (128, 48), (192, 21), (224, 3), (232, 1)],
      f 0 48 % 4096 != 0 || f 64 48 % 4096 != 0 || f 128 48 % 4096 != 0 || f 192 21 == 0 || decide (2 ^ 20 < f 192 21) ||
        decide (4 < f 224 3) || decide (2 ^ 32 < f 192 21 * (128 * 2 ^ f 224 3) * if f 232 1 = 1 then 4 else 2), u.pkIdle⟩,
    ⟨6, if pool then 32 else 10, [(0, 9), (64, 48), (128, 64)], pool && odd (f 64 48), !(pool && weak)⟩,
    ⟨7, 13, [(0, 38)], f 0 38 % 4096 != 0, u.noLaunch⟩,
    ⟨8, 22, [(0, 48), (64, 48)], false, true⟩,
    ⟨9, 13, [(0, 32), (32, 1)], false,
      u.walks.any fun w => w.fault == some (BitVec.ofNat 32 (f 0 32))⟩,
    ⟨0x0A, 16, [(0, 8), (32, 28)], false, (u.brokenAt (f 0 8) (f 32 28)).isSome⟩,
    ⟨0x0B, 258, peerFields, false, u.netIdle⟩,
    ⟨0x0C, 32 + 8 * n, linkFields p.payload,
      n == 0 || decide (256 < n) || decide (f 128 32 < 1000) || decide (1000000000 < f 128 32), true⟩,
    ⟨0x0D, 11, [(0, 9), (16, 2)],
      f 0 9 % 5 != 0 || decide (f 0 9 < 150) || decide (380 < f 0 9) || decide (1 < f 16 2),
      f 16 2 == 0 || u.noLaunch && u.noCanopyFill && u.gambits.isEmpty⟩,
    ⟨0x0E, 8, [], false, true⟩,
    ⟨0x0F, 40, [(0, 256)], false, true⟩,
    ⟨0x10, 24 + f 64 32, [(0, 1), (32, 32), (64, 32), (128, 8 * f 64 32)],
      f 64 32 == 0 || decide (8192 < f 64 32), u.fwSlot != some (Fin.ofNat 2 (f 0 1))⟩,
    ⟨0x11, 80, [(0, 2), (64, 512), (576, 32768)], leAt p.payload 40 16 != 0,
      !u.cores.any fun k => k.allElems.any fun e => e.2.onDrive (f 0 2)⟩]

/-! ## Safe runs -/

/-- A run of `n` steps that neither faults nor is refused. -/
def runsFor : Nat → State → Prop
  | 0, _ => True
  | n + 1, s => ∃ t, step s = .next t ∧ runsFor n t

end Sys2Proof.Machine
end

