-- ==== Sys2Proof/Certificates/Slice0/Obligations.lean ====
section
/-!
DEFINITION. The statements for the provers: what instructions and the machine do, from the spec's numbered rules.
-/

open Sys2Proof Sys2Proof.Machine

/-! ## Encoding -/

/-- R82 to R84: every well-formed operation of a packet that has an encoding is decoded from it, with every
operand. -/
def Obligations.DecodeUndoesEncode : Prop :=
  ∀ (i : Instr) (e : Slot), i.wellFormed = true → encode i = some e → decodeSlot e.pos e.word e.hdr = .ok i

/-- R82, R84: what a slot gives without an error is a well-formed operation. An opcode absent from its slot's
table is unassigned, and the slot is refused with detail 0x10. R83: a slot of positions 1 to 3 of zeros, and a
slot 0 whose bits [27:0] are zeros whatever its bits [30:28] hold, are NOPs, which change nothing; with opcode 0
and any other bit set they are refused with detail 0x12. -/
def Obligations.OpcodesOutsideTheTables : Prop :=
  (∀ (p : Pos) (w : Word) (h : Hdr) (i : Instr), decodeSlot p w h = .ok i → i.wellFormed = true) ∧
  (∀ (p : Pos) (w : Word) (h : Hdr), opcodeOf p w ≠ 0 → opcodeOf p w ∉ assignedOpcodes p →
     decodeSlot p w h = .error 0x10#8) ∧
  (∀ (p : Pos), p ≠ .S → p ≠ .B →
     decodeSlot p 0#32 Hdr.none = .ok .nop ∧
       ∀ (w : Word) (h : Hdr), opcodeOf p w = 0 → w ≠ 0#32 → decodeSlot p w h = .error 0x12#8) ∧
  (∀ (p : Pos) (w : Word), p = .S ∨ p = .B → opcodeOf p w = 0 → ∀ h : Hdr,
     (w.extractLsb' 0 22 = 0#22 → decodeSlot p w h = .ok .nopSlot0) ∧
       (w.extractLsb' 0 22 ≠ 0#22 → decodeSlot p w h = .error 0x12#8)) ∧
  ∀ (s : State), exec .nop s = .next s ∧ exec .nopSlot0 s = .next s

/-- Words written out bit by bit from the field layouts of R72 (slot 0) and R73 (slots 1 to 3, and 5 to 7) and the
opcodes of R82. -/
def Obligations.WordsOfTheTablesDecode : Prop :=
  decodeSlot .S 0b0_000_000001_00011_00001_00010_0000000#32 Hdr.none = .ok (.add 3 (.ss 1 2)) ∧
  decodeSlot .B 0b0_000_000011_101_000_0_000000000000000#32 Hdr.none = .ok (.jmp 5) ∧
  decodeSlot .X 0b000001_00111_01000_01001_0000000_0000#32 Hdr.none = .ok (.xadd 7 (.r 8) 9) ∧
  decodeSlot .V 0b010000_00001_00010_00011_0100000_0001#32 Hdr.none = .ok (.vfadd .rz 1 (.r 2) 3 (.pos 0)) ∧
  decodeSlot .L 0b001010_00100_000000000000000000001#32 Hdr.none = .ok (.ali 4 1#29) ∧
  decodeSlot .M 0b000011_0000_0000_0101_0000_0000_000000#32 Hdr.none = .ok (.azero 5) ∧
  decodeSlot .C 0b000111_00010_000000000000000000001#32 Hdr.none = .ok (.scli 2 0x100#29) ∧
  decodeSlot .Q 0b001110_00110_00000_00000_0000011_0000#32 Hdr.none = .ok (.drain .dev 6)

/-! ## A step -/

/-- R63 to R67, R84, R87: where nothing else is due and one context, alone in its set, is to issue, where its
packet is fetched (from its core's instruction cache or a prefetch stream, else from memory), passes every
check, and holds one operation i besides NOPs, at position n, a step is exec of i, followed by what ends a
packet (`issued`: its stores perform, its schedule cycles pass, its loop boundary is decided, its kind takes
effect), or, where i holds or stops the context, by the return of what the packet must not have done
(`unissued`). What i reads is sound (R146), and reading a result that is an acquire event is that acquire (R163). -/
def Obligations.StepRunsTheDecodedOperation : Prop :=
  ∀ (s : State) (c : CtxRef) (cyc n : Nat) (e : TlbEntry) (p : BitVec 256) (i : Instr),
    s.powered = true → s.readyAt 0 s.agenda = [] → s.firstIssuers = [(c, cyc)] →
    let s1 := s.atTurn c cyc
    let pa := e.phys ((s1.ctx c).pc.toNat * 32)
    let held := (s1.core c.core).cached (pa / 32)
    let s2 := (if held.isSome then s1 else (s1.readHome 0#8 pa 32).2).modCore c.core fun k => k.keepPacket (pa / 32) p
    (((((s.choose 1).2.choose 1).2.atCycle cyc).startSegment c).uiReady c = false) →
    (s1.ctx c).fusew = 0 → (s1.ctx c).run = .ready → (s1.ctx c).orphan = false → ((s.ctx c).gWait = none) →
    s1.tlbLookup c.core ((s1.ctx c).pc.toNat * 32) = some e → e.x = true → s1.isBad .dram pa 32 = false →
    p = held.getD (BitVec.ofNat 256 (leNat (s1.dram.bytes pa 32))) →
    (s2.ctx c).decodeFails p = none → s2.scoreFails [c] [(n, i)] = none → realOps (slotOps p) = [(n, i)] →
    (s2.aim c n).readsBad c i = false →
    step s =
      match exec i ((s2.aim c n).acquireFor c i) with
      | .next t =>
        if t.going c then t.issued exec [c] c p (Instr.commitsPending i) else .next (s2.unissued t [c] [c])
      | o => o

/-- An event that is due, and that alone may happen, happens in a step: exec of it, with the event no longer due,
unless it is a message that waits unacted, whose event stays (the model's form of the steps that
95_what_each_step_holds lists; logs 5 and 6). Where no event may happen and no context may issue, a step is a device
cycle: CYCLE counts it (R393), gPTP time goes on with it, and nothing else changes (log 6). -/
def Obligations.StepRunsADueEventOrIdles : Prop :=
  (∀ (s : State) (n : Nat) (e : Instr),
     s.powered = true → s.readyAt 0 s.agenda = [n] → s.firstIssuers = [] → s.agenda[n]? = some e →
     let o := exec e { (s.choose 1).2 with agenda := s.agenda.eraseIdx n }
     step s = keepMessage e o ∧ (Instr.message e = none → step s = o) ∧
       (∀ t m, o = .next t → Instr.message e = some m →
         step s = .next (if (t.parked m).isSome then t.due e else t))) ∧
  (∀ (s : State), s.powered = true → s.readyAt 0 s.agenda = [] → s.firstIssuers = [] →
     ∃ t, step s = .next t ∧ t.cycle = s.cycle + 1 ∧ s.gptp ≤ t.gptp ∧
       t = { s with cycle := t.cycle, gptp := t.gptp })

/-! ## Results in flight -/

/-- R87: an operation with latency L issued at schedule cycle t lands its result at the end of cycle t + L - 1:
a packet issued L cycles later or more reads the new value, and one issued before reads the old. The landing of
a result, of each file, changes the one register that it names: no other register of that file, no other file, no
special register, no other context and no memory. -/
def Obligations.ResultsLandAfterTheirLatency : Prop :=
  ∀ (s : State) (lat n : Nat), s.me.landings = [] → 0 < lat →
    let y (w : RegWrite) : Context := s.later lat w n
    let seen : Bool := decide (lat ≤ n)
    (∀ (d : Fin 32) w, (y (.s d w)).s = if seen then s.me.s.set d w else s.me.s) ∧
    (∀ (d : Fin 16) w, (y (.k d w)).k = if seen then s.me.k.set d w else s.me.k) ∧
    (∀ (d : Fin 8) w, (y (.q d w)).q = if seen then s.me.q.set d w else s.me.q) ∧
    (∀ (d : Fin 32) w, (y (.x d w)).x = if seen then s.me.x.set d w else s.me.x) ∧
    (∀ (d : Fin 16) w, (y (.a d w)).a = if seen then s.me.a.set d w else s.me.a) ∧
    (∀ (d : Fin 16) w, (y (.m d w)).m = if seen then s.me.m.set d w else s.me.m) ∧
    (∀ (d : Fin 8) w, (y (.z d w)).z = if seen then s.me.z.set d w else s.me.z) ∧
    (∀ (d : Fin 8) w, (y (.sb d w)).sb = if seen then s.me.sb.set d w else s.me.sb) ∧
    (∀ (d : Fin 8) w, (y (.sa d w)).sa = if seen then s.me.sa.set d w else s.me.sa) ∧
    (∀ (d : Fin 32) w mask, ∀ i < 128,
      lane (y (.v d w mask)).v[d] i = if seen && laneOn mask i then lane w i else lane s.me.v[d] i) ∧
    (∀ (d : Fin 8) (w mask : Pred), ∀ i < 128,
      laneOn (y (.p d w mask)).p[d] i = if seen && laneOn mask i then laneOn w i else laneOn s.me.p[d] i) ∧
    (∀ (b : BitVec 10), (y (.sticky b)).sticky = if seen then s.me.sticky ||| b else s.me.sticky) ∧
    (∀ (d : Fin 8) (t : PcWord), ((y (.b d t)).b[d].prepared = if seen then true else s.me.b[d].prepared) ∧
      ((y (.b d t)).b[d].target = if seen then t else s.me.b[d].target)) ∧
    (∀ (d i : Fin 32) w mask, i ≠ d → (y (.v d w mask)).v[i] = s.me.v[i]) ∧
    (∀ (d i : Fin 8) (w mask : Pred), i ≠ d → (y (.p d w mask)).p[i] = s.me.p[i]) ∧
    (∀ (d i : Fin 8) t, i ≠ d → (y (.b d t)).b[i] = s.me.b[i]) ∧
    (∀ w : RegWrite,
      let t := (s.land lat w).tick s.focus.c n
      s.sameMemory t ∧ ∀ c, c ≠ s.focus.c → t.ctx c = s.ctx c) ∧
    -- Nothing else of the context changes: with the register's file as it was, all but its clock and what is still
    -- in flight is.
    let bare (x : Context) : Context := { x with landings := [], clock := 0 }
    (∀ d w, bare { y (.s d w) with s := s.me.s } = bare s.me) ∧ (∀ d w, bare { y (.k d w) with k := s.me.k } = bare s.me) ∧
    (∀ d w, bare { y (.q d w) with q := s.me.q } = bare s.me) ∧ (∀ d w, bare { y (.x d w) with x := s.me.x } = bare s.me) ∧
    (∀ d w, bare { y (.a d w) with a := s.me.a } = bare s.me) ∧ (∀ d w, bare { y (.m d w) with m := s.me.m } = bare s.me) ∧
    (∀ d w, bare { y (.z d w) with z := s.me.z } = bare s.me) ∧ (∀ d w, bare { y (.b d w) with b := s.me.b } = bare s.me) ∧
    (∀ d w, bare { y (.sa d w) with sa := s.me.sa } = bare s.me) ∧
    (∀ d w, bare { y (.sb d w) with sb := s.me.sb } = bare s.me) ∧
    (∀ d w mask, bare { y (.v d w mask) with v := s.me.v } = bare s.me) ∧
    (∀ d w mask, bare { y (.p d w mask) with p := s.me.p } = bare s.me) ∧
    (∀ w, bare { y (.sticky w) with sticky := s.me.sticky } = bare s.me) ∧
    (∀ w, bare { y (.sr .status w) with sticky := s.me.sticky } = bare s.me) ∧
    (∀ w, bare { y (.sr .control w) with control := s.me.control } = bare s.me) ∧
    (∀ w, bare { y (.sr .syncsel w) with syncsel := s.me.syncsel } = bare s.me) ∧
    (∀ w, bare { y (.sr .splim w) with splim := s.me.splim } = bare s.me) ∧
    (∀ w, bare { y (.sr .finfo w) with finfo := s.me.finfo } = bare s.me) ∧
    (∀ w, bare { y (.sr .uivec w) with uivec := s.me.uivec } = bare s.me) ∧
    (∀ w, bare { y (.sr .uistat w) with uistat := s.me.uistat } = bare s.me) ∧
    (∀ w, bare { y (.sr .dkey w) with dkey := s.me.dkey } = bare s.me) ∧
    (∀ w, bare { y (.sr .dctrh w) with dctrh := s.me.dctrh } = bare s.me) ∧
    (∀ w, bare { y (.sr .dctrl w) with dctrl := s.me.dctrl } = bare s.me) ∧
    (∀ w, bare { y (.sr .routepol w) with rpsel := s.me.rpsel } = bare s.me)

/-- R90: of two results on one register, that of the later cycle remains; of two that land at the end of one cycle,
that of the later-issued packet, and within one packet that of the higher position, in whatever order they stand
in the model's list. Lanes that a guard left inactive are written by neither. -/
def Obligations.LandingsAreOrdered : Prop :=
  ∀ (x : Context) (k : Core) (i : Fin 8) (t1 t2 i1 i2 : Nat) (p1 p2 : Fin 8) (swapped : Bool),
    (t1 < t2 ∨ t1 = t2 ∧ (i1 < i2 ∨ i1 = i2 ∧ p1 < p2)) → t2 ≤ x.clock →
    let core (w1 w2 : RegWrite) : Core :=
      let ls := [Landing.mk t1 i1 p1 w1, Landing.mk t2 i2 p2 w2]
      (k.setCtx i { x with landings := if swapped then ls.reverse else ls }).landDue i
    let after (w1 w2 : RegWrite) : Context := (core w1 w2).ctxs[i]
    (∀ d v w, (after (.s d v) (.s d w)).s[d] = w) ∧ (∀ d v w, (after (.k d v) (.k d w)).k[d] = w) ∧
    (∀ d v w, (after (.q d v) (.q d w)).q[d] = w) ∧ (∀ d v w, (after (.x d v) (.x d w)).x[d] = w) ∧
    (∀ d v w, (after (.a d v) (.a d w)).a[d] = w) ∧ (∀ d v w, (after (.m d v) (.m d w)).m[d] = w) ∧
    (∀ d v w, (after (.z d v) (.z d w)).z[d] = w) ∧ (∀ d v w, (after (.g d v) (.g d w)).g[d] = w) ∧
    (∀ d v w, (after (.sa d v) (.sa d w)).sa[d] = w) ∧ (∀ d v w, (after (.sb d v) (.sb d w)).sb[d] = w) ∧
    (∀ d v w, (after (.b d v) (.b d w)).b[d].target = w ∧ (after (.b d v) (.b d w)).b[d].prepared = true) ∧
    (∀ d v, (after (.b d v) (.unprep d)).b[d].prepared = false ∧ (after (.unprep d) (.b d v)).b[d].prepared = true) ∧
    (∀ lev v w l, x.loops[lev.val]? = some l →
      ((after (.pend lev v) (.pend lev w)).loops[lev.val]?).map (·.pending) = some (some w)) ∧
    (∀ v w, (after (.sr .dctrl v) (.sr .dctrl w)).dctrl = w ∧ (after (.sr .dctrh v) (.sr .dctrh w)).dctrh = w ∧
      (after (.sr .dkey v) (.sr .dkey w)).dkey = w ∧
      (after (.sr .control v) (.sr .control w)).control = w.extractLsb' 0 4 ∧
      (after (.sr .syncsel v) (.sr .syncsel w)).syncsel = w.extractLsb' 0 8 ∧
      (after (.sr .splim v) (.sr .splim w)).splim = w.extractLsb' 0 22 ∧
      (after (.sr .finfo v) (.sr .finfo w)).finfo.extractLsb' 0 32 = w.extractLsb' 0 32 ∧
      (after (.sr .uivec v) (.sr .uivec w)).uiHandler = w.extractLsb' 5 43 ∧
      (after (.sr .uivec v) (.sr .uivec w)).uiValid = w.getLsbD 0) ∧
    (risingNat k.tiles = true → ∀ slot row v w, ∀ j < 128,
      lane (tileRow (core (.aldRow slot row v) (.aldRow slot row w)).tiles slot row) j = lane w j) ∧
    (∀ d v w mv mw, ∀ j < 128, lane (after (.v d v mv) (.v d w mw)).v[d] j =
      if laneOn mw j then lane w j else if laneOn mv j then lane v j else lane x.v[d] j) ∧
    ∀ d (v w mv mw : Pred), ∀ j < 128, laneOn (after (.p d v mv) (.p d w mw)).p[d] j =
      if laneOn mw j then laneOn w j else if laneOn mv j then laneOn v j else laneOn x.p[d] j

/-- R91: an operation that reads or writes a g register whose result has not landed holds its core, and does
nothing else; every operation of the Q slot that names a g register is one, and so are GET, PUT and CHK of g. The
landing of the result writes the register, of two results both registers, and ends the hold, and the operation then
reads the new value. -/
def Obligations.PendingGHoldsTheCore : Prop :=
  ∀ (s : State) (d : Fin 16),
    (∀ (regs : List (Fin 16)) (k : Out),
      (s.me.gBusy regs = some d →
        s.withG regs k = .next (s.holdFor (.g d)) ∧ s.me.gPending[d] = true ∧ d ∈ regs ∧
          s.sameMemory (s.holdFor (.g d)) ∧ s.me.sameFiles (s.holdFor (.g d)).me ∧
          (s.holdFor (.g d)).me.run = .held (.g d)) ∧
      ((∀ x ∈ regs, s.me.gPending[x] = false) → s.withG regs k = k)) ∧
    (s.me.gPending[d] = true →
      ∀ (a : RK 16) (b c : Fin 16) (t : AtArgs) (f1 f2 f3 : Bool) (sz q : Fin 4) (imm : BitVec 20) (mask : BitVec 4)
        (size : BitVec 2) (dp ep np : Fin 8) (n : Fin 13) (w : Fin 5) (scope : Scope),
      let holds (i : Instr) : Prop := ∃ x, s.me.gPending[x] = true ∧ exec i s = .next (s.holdFor (.g x))
      let one (op : Fin 16 → RK 16 → Instr) : Prop := holds (op d a) ∧ holds (op c (.r d))
      let two (op : Fin 16 → RK 16 → Fin 16 → Instr) : Prop :=
        holds (op d a b) ∧ holds (op c (.r d) b) ∧ holds (op c a d)
      let at_ (op : AtArgs → Instr) : Prop := two fun x y z => op { t with d := x, a := y, b := z }
      let half (p : Fin 8) : Prop := d.val / 2 = p.val
      one (.gld f1 sz · · imm) ∧ one (.gst sz · · imm) ∧
      at_ .atadd ∧ at_ .atmin ∧ at_ .atmax ∧ at_ .atand ∧ at_ .ator ∧ at_ .atxch ∧ at_ (.atcas · c) ∧
      holds (.atcas t d) ∧
      two (fun x y z => .amov f1 f2 x y z b) ∧ holds (.amov f1 f2 b a c d) ∧
      (half dp ∨ half ep ∨ half np ∨ a = .r d ∨ b = d → holds (.dcas f1 f2 dp a b ep np)) ∧
      one (fun x y => .tdec f1 x y (.reg b)) ∧ holds (.tdec f1 c a (.reg d)) ∧ (∀ k, one fun x y => .tdec f1 x y (.imm k)) ∧
      holds (.drain scope d) ∧ holds (.qfence d mask) ∧ holds (.gqry d none) ∧ holds (.tarmReg (.r d)) ∧
      one (.qcpy · · q) ∧ two (.qred f1 · · · size q) ∧ one (.qpoll f1) ∧ two .tspawn ∧
      two .xroute ∧ one .xlook ∧ two (.xfetch f1) ∧ one .xpin ∧ one .xunpin ∧ one .xhint ∧ two .xswap ∧
      one (.xstat f1 · · n) ∧ two (.pkq f1) ∧ two .pks ∧ two .pkk ∧
      one .gopen ∧ one .genter ∧ one .gresConfirm ∧ one .gresRefute ∧ one (fun x y => .gqry x (some y)) ∧
      two (.tkcmt dp f1 f2 f3) ∧ one (.seatr · · w) ∧ two (.seatw · · · w) ∧ two (.msg f1 size) ∧ one .a2a ∧
      (∀ r : Fin 32, holds (.get r (.g d))) ∧ (∀ r : RK 32, holds (.put (.g d r))) ∧
      ∀ (ra rb : Fin 32) (k : Fin 8), d ∈ chkG .g ra rb k → holds (.chk .g ra rb k)) ∧
    (∀ (id : Nat) (r : Req), s.req? id = some r → r.d = some d → r.d2 = none → r.orphaned = false →
      r.ui = (s.ctx r.c).uiact → r.state = .formed →
      ∃ t, exec (.gResultLand id) s = .next t ∧ (t.ctx r.c).g[d] = r.res ∧ (t.ctx r.c).gPending[d] = false ∧
        ((s.ctx r.c).run = .held (.g d) → Instr.holdEnd (s.leaderOf r.c) ∈ t.agenda)) ∧
    (∀ (id : Nat) (r : Req) (e : Fin 16), s.req? id = some r → r.d = some d → r.d2 = some e → d ≠ e →
      r.orphaned = false → r.ui = (s.ctx r.c).uiact → r.state = .formed →
      ∃ t, exec (.gResultLand id) s = .next t ∧ (t.ctx r.c).g = ((s.ctx r.c).g.set d r.res).set e r.res2 ∧
        (t.ctx r.c).gPending = ((s.ctx r.c).gPending.set d false).set e false ∧
        ∀ x ∈ [d, e], (s.ctx r.c).run = .held (.g x) → Instr.holdEnd (s.leaderOf r.c) ∈ t.agenda) ∧
    (s.me.gPending[d] = false → ∀ r : Fin 32, exec (.get r (.g d)) s = .next (s.land 3 (.s r s.me.g[d])))

/-! ## The S slot -/

/-- R168, Table 1, with R88's latencies: the two-source integer operations. The destination takes the value
given after 1 cycle, of a product after 3; by `land` nothing else changes. R168, R171: the immediate and one-
source operations and the constants, each after 1 cycle. R169, R170: a compare writes 1 to its q register if its
test holds, and 0 otherwise; SEL takes a where its q register is 1 on the issue cycle, and b otherwise. -/
def Obligations.ScalarResults : Prop :=
  (∀ (s : State) (d : Fin 32) (src : SArgs),
     let a := s.me.sA src
     let b := s.me.sB src
     let sh := b.toNat % 64
     exec (.add d src) s = .next (s.land 1 (.s d (BitVec.ofInt 64 (a.toInt + b.toInt)))) ∧
     exec (.sub d src) s = .next (s.land 1 (.s d (BitVec.ofInt 64 (a.toInt - b.toInt)))) ∧
     exec (.mul d src) s = .next (s.land 3 (.s d (BitVec.ofNat 64 (a.toNat * b.toNat)))) ∧
     exec (.mulhs d src) s = .next (s.land 3 (.s d (BitVec.ofInt 64 (a.toInt * b.toInt / 2 ^ 64)))) ∧
     exec (.mulhu d src) s = .next (s.land 3 (.s d (BitVec.ofNat 64 (a.toNat * b.toNat / 2 ^ 64)))) ∧
     exec (.and d src) s = .next (s.land 1 (.s d (a &&& b))) ∧
     exec (.or d src) s = .next (s.land 1 (.s d (a ||| b))) ∧
     exec (.xor d src) s = .next (s.land 1 (.s d (a ^^^ b))) ∧
     exec (.andn d src) s = .next (s.land 1 (.s d (a &&& ~~~b))) ∧
     exec (.shl d src) s = .next (s.land 1 (.s d (BitVec.ofNat 64 (a.toNat * 2 ^ sh)))) ∧
     exec (.shr d src) s = .next (s.land 1 (.s d (BitVec.ofNat 64 (a.toNat / 2 ^ sh)))) ∧
     exec (.sar d src) s = .next (s.land 1 (.s d (BitVec.ofInt 64 (a.toInt / 2 ^ sh)))) ∧
     exec (.min d src) s = .next (s.land 1 (.s d (BitVec.ofInt 64 (min a.toInt b.toInt)))) ∧
     exec (.max d src) s = .next (s.land 1 (.s d (BitVec.ofInt 64 (max a.toInt b.toInt)))) ∧
     exec (.minu d src) s = .next (s.land 1 (.s d (BitVec.ofNat 64 (min a.toNat b.toNat)))) ∧
     exec (.maxu d src) s = .next (s.land 1 (.s d (BitVec.ofNat 64 (max a.toNat b.toNat))))) ∧
  (∀ (s : State) (d a : Fin 32) (r : RK 32) (imm : BitVec 12) (sh : BitVec 6) (c : BitVec 17),
     let x := s.me.s[a]
     let y := s.me.sSrc r
     exec (.addi d a imm) s = .next (s.land 1 (.s d (BitVec.ofInt 64 (x.toInt + imm.toInt)))) ∧
     exec (.andi d a imm) s = .next (s.land 1 (.s d (x &&& BitVec.ofInt 64 imm.toInt))) ∧
     exec (.ori d a imm) s = .next (s.land 1 (.s d (x ||| BitVec.ofInt 64 imm.toInt))) ∧
     exec (.xori d a imm) s = .next (s.land 1 (.s d (x ^^^ BitVec.ofInt 64 imm.toInt))) ∧
     exec (.shli d a sh) s = .next (s.land 1 (.s d (BitVec.ofNat 64 (x.toNat * 2 ^ sh.toNat)))) ∧
     exec (.shri d a sh) s = .next (s.land 1 (.s d (BitVec.ofNat 64 (x.toNat / 2 ^ sh.toNat)))) ∧
     exec (.sari d a sh) s = .next (s.land 1 (.s d (BitVec.ofInt 64 (x.toInt / 2 ^ sh.toNat)))) ∧
     exec (.li d c) s = .next (s.land 1 (.s d (BitVec.ofInt 64 c.toInt))) ∧
     exec (.lis d c) s = .next (s.land 1 (.s d (BitVec.ofNat 64 (s.me.s[d].toNat * 2 ^ 17 + c.toNat)))) ∧
     (∃ n : Nat, exec (.clz d r) s = .next (s.land 1 (.s d (BitVec.ofNat 64 n))) ∧ n ≤ 64 ∧
       y.toNat < 2 ^ (64 - n) ∧ (n < 64 → 2 ^ (63 - n) ≤ y.toNat)) ∧
     exec (.popc d r) s = .next (s.land 1 (.s d (BitVec.ofNat 64 ((List.range 64).filter y.getLsbD).length)))) ∧
  (∀ (s : State) (cc : ICc) (q : Fin 8) (d a : Fin 32) (src : SArgs) (imm : BitVec 11),
     (∃ r : Bool, exec (.cmp cc q src) s = .next (s.land 1 (.q q r)) ∧
       (r = true ↔ testHolds cc (s.me.sA src) (s.me.sB src))) ∧
     (∃ r : Bool, exec (.cmpi cc q a imm) s = .next (s.land 1 (.q q r)) ∧
       (r = true ↔ testHolds cc s.me.s[a] (imm.signExtend 64))) ∧
     (s.me.q[q] = true → exec (.sel d q src) s = .next (s.land 1 (.s d (s.me.sA src)))) ∧
     (s.me.q[q] = false → exec (.sel d q src) s = .next (s.land 1 (.s d (s.me.sB src)))))

/-- R172, R174: MFSR and MTSR name one special register and KSET and KGET one common register; the value lands after 1
cycle. R61, R62, R173, R306, R392, R400: what a write of each writable special register leaves, once it has landed,
and MFSR's reading of it. STATUS only loses sticky bits; CONTROL keeps its four bits; FINFO takes its low 32 bits and
loses [35:32]; UISTAT takes COOKIE alone; ROUTEPOL takes the selector, and the policy it selects unless a reserved bit
is set or PREF is no copy format; the others take the bits that they hold. R175, Table 2: PUT writes the register its
file code names with s[a], a v register in one lane and a p register in one group of 32 bits; GET reads it. Both have
latency 3, and hold first for a pending g register (R91). -/
def Obligations.RegisterMoves : Prop :=
  (∀ (s : State) (d a : Fin 32) (k : Fin 16) (r : RK 32) (sr : SReg),
     exec (.mfsr d sr) s = .next (s.land 1 (.s d (s.readSr s.focus.c sr))) ∧
     exec (.mtsr sr a) s = .next (s.land 1 (.sr sr s.me.s[a])) ∧
     exec (.kset k r) s = .next (s.land 1 (.k k (s.me.sSrc r))) ∧
     exec (.kget d k) s = .next (s.land 1 (.s d s.me.k[k]))) ∧
  (∀ (s : State) (w : DWord) (n : Nat), s.me.landings = [] → 0 < n →
     let after (r : SReg) : Context := s.later 1 (.sr r w) n
     (after .status).sticky = s.me.sticky &&& w.extractLsb' 0 10 ∧
     (after .control).control = w.extractLsb' 0 4 ∧
     (after .syncsel).syncsel = w.extractLsb' 0 8 ∧
     (after .splim).splim = w.extractLsb' 0 22 ∧
     (after .finfo).finfo.extractLsb' 0 32 = w.extractLsb' 0 32 ∧
     (after .dkey).dkey = w ∧ (after .dctrh).dctrh = w ∧ (after .dctrl).dctrl = w ∧
     (after .uivec).uiHandler = w.extractLsb' 5 43 ∧ (after .uivec).uiValid = w.getLsbD 0 ∧
     (after .finfo).finfo.extractLsb' 32 4 = 0#4 ∧
     (after .uistat).uistat.extractLsb' 0 32 = w.extractLsb' 0 32 ∧
     (after .uistat).uistat.extractLsb' 32 32 = s.me.uistat.extractLsb' 32 32 ∧
     (after .routepol).rpsel.val = (w.extractLsb' 61 3).toNat ∧
     (let t (r : SReg) : State := (s.land 1 (.sr r w)).tick s.focus.c n
      let reads (r : SReg) : DWord := (t r).readSr s.focus.c r
      reads .control = (w.extractLsb' 0 4).setWidth 64 ∧ reads .syncsel = (w.extractLsb' 0 8).setWidth 64 ∧
        reads .splim = (w.extractLsb' 0 22).setWidth 64 ∧ reads .finfo = (w.extractLsb' 0 32).setWidth 64 ∧
        reads .dkey = w ∧ reads .dctrh = w ∧ reads .dctrl = w ∧
        reads .uivec = (w &&& 0x0000FFFFFFFFFFE1#64) ∧
        (reads .uistat).extractLsb' 0 32 = w.extractLsb' 0 32 ∧
        (reads .uistat).extractLsb' 32 32 = s.me.uistat.extractLsb' 32 32 ∧
        (reads .status).extractLsb' 0 10 = s.me.sticky &&& w.extractLsb' 0 10 ∧
        (reads .routepol).extractLsb' 61 3 = w.extractLsb' 61 3 ∧
        (w &&& 0x1FFFFFFF07030000#64 = 0#64 → (w.extractLsb' 28 4).toNat ∈ [3, 4, 5, 6, 7, 8, 10] →
          reads .routepol = w ∧ ∀ i : Fin 8, i ≠ (t .routepol).me.rpsel →
            (t .routepol).resid.policies[i] = s.resid.policies[i]) ∧
        ((w &&& 0x1FFFFFFF07030000#64 ≠ 0#64 ∨ (w.extractLsb' 28 4).toNat ∉ [3, 4, 5, 6, 7, 8, 10]) →
          (t .routepol).resid.policies = s.resid.policies)) ∧
     (∀ r : SReg, r.writable = false → after r = { s.me with clock := s.me.clock + n })) ∧
  (∀ (s : State) (d : Fin 32) (a : RK 32) (ab : SArgs),
     let w := s.me.sSrc a
     let lo := w.extractLsb' 0 32
     let wa := (s.me.sA ab).extractLsb' 0 32
     let b := s.me.sB ab
     (∀ x, exec (.put (.x x a)) s = .next (s.land 3 (.x x lo))) ∧
     (∀ x, exec (.put (.a x a)) s = .next (s.land 3 (.a x lo))) ∧
     (∀ x, exec (.put (.m x a)) s = .next (s.land 3 (.m x w))) ∧
     (∀ x, exec (.put (.sb x a)) s = .next (s.land 3 (.sb x lo))) ∧
     (∀ x, s.me.gPending[x] = false → exec (.put (.g x a)) s = .next (s.land 3 (.g x w))) ∧
     (∀ x, ∃ v mask, exec (.put (.v x ab)) s = .next (s.land 3 (.v x v mask)) ∧
       ∀ i < 128, laneOn mask i = decide (i = b.toNat % 128) ∧ (i = b.toNat % 128 → lane v i = wa)) ∧
     (∀ x, ∃ v, exec (.put (.vbc x a)) s = .next (s.land 3 (.v x v (BitVec.allOnes 128))) ∧
       ∀ i < 128, lane v i = lo) ∧
     (∀ x, ∃ v mask, exec (.put (.p x ab)) s = .next (s.land 3 (.p x v mask)) ∧
       ∀ i < 128, laneOn mask i = decide (i / 32 = b.toNat % 4) ∧
         (i / 32 = b.toNat % 4 → laneOn v i = wa.getLsbD (i % 32))) ∧
     (∀ x, exec (.get d (.x x)) s = .next (s.land 3 (.s d (s.me.x[x].setWidth 64)))) ∧
     (∀ x, exec (.get d (.a x)) s = .next (s.land 3 (.s d (s.me.a[x].setWidth 64)))) ∧
     (∀ x, exec (.get d (.m x)) s = .next (s.land 3 (.s d s.me.m[x]))) ∧
     (∀ x, exec (.get d (.sb x)) s = .next (s.land 3 (.s d (s.me.sb[x].setWidth 64)))) ∧
     (∀ x, s.me.gPending[x] = false → exec (.get d (.g x)) s = .next (s.land 3 (.s d s.me.g[x]))) ∧
     (∀ x, exec (.get d (.v x a)) s = .next (s.land 3 (.s d ((lane s.me.v[x] (w.toNat % 128)).setWidth 64)))) ∧
     (∀ x, exec (.get d (.p x a)) s =
       .next (s.land 3 (.s d ((s.me.p[x].extractLsb' (32 * (w.toNat % 4)) 32).setWidth 64)))))

/-- R176: CHK over equal registers does nothing; where a pair differs, DUPMISMATCH is taken, FADDR naming the
file and the lowest register of the a side that differs. A pending g register holds it first (R91). R83, R177,
R178: a NOP changes nothing; TRAPI leaves its trap to be entered after the packet; UIRET gives back the
interrupted point: its packet, its schedule clock, its results in flight and CAUSE, with the banks of s28 to s31
and g12 to g15 switched back and UIACT clear. (That the handler's own results still in flight at UIRET are lost, so that
those in flight are the interrupted point's alone, is the model's choice: log 16.) -/
def Obligations.ChecksTrapsAndReturns : Prop :=
  (∀ (s : State) (f : ChkFile) (a b : Fin 32) (n : Fin 8), s.gFree (chkG f a b n) = true →
     ((∀ i ≤ n.val, s.me.sameReg f (a.val + i) (b.val + i) = true) → exec (.chk f a b n) s = .next s) ∧
     (∀ i ≤ n.val, s.me.sameReg f (a.val + i) (b.val + i) = false →
       (∀ j < i, s.me.sameReg f (a.val + j) (b.val + j) = true) →
       exec (.chk f a b n) s =
         .next (s.takeFault s.focus.c s.focus.pos .dupmismatch 0x00#8 s.me.pc
           (BitVec.ofNat 64 (f.code * 256 + a.val + i))))) ∧
  (∀ (s : State) (imm : BitVec 17) (f : Frozen),
     exec .nop s = .next s ∧ exec .nopSlot0 s = .next s ∧
     exec (.trapi imm) s = .next ((s.setMe { s.me with trap := some imm }).due (.uiEntry s.focus.c)) ∧
     (s.me.frozen = some f →
       ∃ t, exec .uiret s = .next t ∧ t.me.uiact = false ∧ t.me.pc = f.pc ∧ t.me.clock = f.clock ∧
         t.me.landings = f.landings ∧ t.me.streams = f.streams ∧ t.me.cause = f.cause ∧ t.me.frozen = none ∧
         t.me.s[(28 : Fin 32)] = s.me.sBank[0] ∧ t.me.s[(31 : Fin 32)] = s.me.sBank[3] ∧
         t.me.g[(12 : Fin 16)] = s.me.gBank[0] ∧ t.me.g[(15 : Fin 16)] = s.me.gBank[3] ∧
         t.focus.transfer = some f.pc ∧ s.sameMemory t))

/-! ## The B slot -/

/-- R179 to R183: PREP, PREPK and UNPREP write a b register after 1 cycle; a transfer through a prepared
register goes to its target (BR and BRN if their q register says so), CALL writing b7 with the return address as
it goes; a register that is not prepared faults, whether or not the transfer would be taken. It has no fetch wait
(`ready`) if its register was prepared at least 16 cycles before and still owns its stream. R185: naming a register
that an IPURGE left prepared starts its prefetch again (`use`), which changes no context and no memory. R184: BRV,
after the prepared check: where the predicates of the set are all ones u = 1, where they are all zeros u = 0, and the
transfer is taken when u differs from neg; mixed bits raise NONUNIFORM. -/
def Obligations.Transfers : Prop :=
  (∀ (s : State) (b q : Fin 8) (off : BitVec 17) (k : Fin 16),
     let r := s.me.b[b]
     let ready := s.readyTarget b
     let use := s.useB b
     let unprepared := Host.Outcome.next
       (s.takeFault s.focus.c s.focus.pos .unprepared 0x00#8 s.me.pc (pcAddr s.me.pc))
     exec (.prep b off) s = .next (s.land 1 (.b b (s.me.pc + off.signExtend 43))) ∧
     exec (.prepk b k) s = .next (s.land 1 (.b b (s.me.k[k].extractLsb' 5 43))) ∧
     (∃ t, exec (.unprep b) s = .next t ∧ t.me = (s.land 1 (.unprep b)).me ∧ s.sameMemory t ∧
       t.mine.pstreams = s.mine.pstreams.filter fun p => !(p.ctx == s.focus.c.ctx && p.reg == b)) ∧
     (ready = true ↔ (∃ n, r.since = some n ∧ n + 16 ≤ s.me.clock) ∧
       ∃ p ∈ s.mine.pstreams, p.ctx = s.focus.c.ctx ∧ p.reg = b) ∧
     (r.since ≠ none → use = s) ∧ s.sameMemory use ∧ (∀ c, use.ctx c = s.ctx c) ∧
     (r.prepared = true →
       exec (.jmp b) s = .next (use.transferTo r.target ready) ∧
       exec (.call b) s = .next ((use.land 1 (.b 7 (s.me.pc + 1#43))).transferTo r.target ready) ∧
       exec (.br q b) s = .next (if s.me.q[q] then use.transferTo r.target ready else use) ∧
       exec (.brn q b) s = .next (if s.me.q[q] then use else use.transferTo r.target ready)) ∧
     (r.prepared = false →
       exec (.jmp b) s = unprepared ∧ exec (.call b) s = unprepared ∧ exec (.br q b) s = unprepared ∧
         exec (.brn q b) s = unprepared) ∧
     (s.me.b[(7 : Fin 8)].prepared = true →
       exec .ret s = .next ((s.useB 7).transferTo s.me.b[(7 : Fin 8)].target (s.readyTarget 7))) ∧
     (s.me.b[(7 : Fin 8)].prepared = false → exec .ret s = unprepared) ∧
     (r.prepared = false → ∀ (p : Fin 8) (z : Bool), exec (.brv p b z) s = unprepared)) ∧
  (∀ (s : State) (p b : Fin 8) (z : Bool), s.me.b[b].prepared = true →
     let ps := (s.issueSet s.focus.c).map fun m => (s.ctx m).p[p]
     let use := s.useB b
     let go := Host.Outcome.next (use.transferTo s.me.b[b].target (s.readyTarget b))
     ((∀ w ∈ ps, w = BitVec.allOnes 128) → exec (.brv p b z) s = if z then .next use else go) ∧
     ((∀ w ∈ ps, w = 0#128) → ps ≠ [] → exec (.brv p b z) s = if z then go else .next use) ∧
     ((∃ w ∈ ps, w ≠ BitVec.allOnes 128) → (∃ w ∈ ps, w ≠ 0#128) →
       exec (.brv p b z) s =
         .next (s.takeFault s.focus.c s.focus.pos .nonuniform 0x00#8 s.me.pc (pcAddr s.me.pc))))

/-- R185 to R187: IPURGE empties the instruction caches and the prefetch streams of the cores that issue it and
leaves every b register prepared as it was; ZSET takes 24 bits after 1 cycle; SKIPZ skips its packets when its
test holds, and without a fetch wait up to 16. -/
def Obligations.SkipsAndPurge : Prop :=
  ∀ (s : State) (z : Fin 8) (nz : Bool) (off : BitVec 15) (k : Fin 16),
    exec (.zset z k) s = .next (s.land 1 (.z z (s.me.k[k].extractLsb' 0 24))) ∧
    (∃ t, exec .ipurge s = .next t ∧ s.sameMemory t ∧
      (∀ m ∈ s.issueSet s.focus.c, (t.core m.core).icache = [] ∧ (t.core m.core).pstreams = []) ∧
      ∀ (m : CtxRef) (j : Fin 8), (t.ctx m).b[j].prepared = (s.ctx m).b[j].prepared ∧
        (t.ctx m).b[j].target = (s.ctx m).b[j].target) ∧
    (((s.me.z[z] = 0#24 ∧ nz = false) ∨ (s.me.z[z] ≠ 0#24 ∧ nz = true)) →
      exec (.skipz z nz off) s =
        .next (s.transferTo (s.me.pc + 1#43 + off.setWidth 43) (decide (off.toNat ≤ 16)))) ∧
    (((s.me.z[z] ≠ 0#24 ∧ nz = false) ∨ (s.me.z[z] = 0#24 ∧ nz = true)) → exec (.skipz z nz off) s = .next s)

/-- R188, R189: a loop entry with a count above 0 pushes a level that starts at the next packet, ends len12 + 1
packets on, and has count - 1 iterations to come; with count 0 the body is skipped and nothing is pushed; at depth 6
every entry faults LOOPDEPTH. The next packet may have a fetch wait only if it is not at hand (R183). R190: LSET and
LBRK give a level on the stack a pending count after 1 cycle, LBRK.NOW pops the level and those above it at once, and
a level that is not on the stack raises LOOPDEPTH. -/
def Obligations.LoopEntriesAndLevels : Prop :=
  (∀ (s : State) (len : BitVec 12) (np : Bool) (count : BitVec 9) (k : Fin 16),
     let p := s.me.pc
     let l := len.setWidth 43 + 1#43
     let hand (t : PcWord) : Bool := s.packetAtHand s.focus.c.core t
     let goes (s : State) (t : PcWord) : State := s.transferTo t (hand t)
     let enter (c : Nat) : State :=
       goes (s.setMe { s.me with loops := ⟨p + 1#43, p + l, BitVec.ofNat 24 (c - 1), none, np⟩ :: s.me.loops }) (p + 1#43)
     let skip : State := goes s (p + 1#43 + l)
     (∀ (u : State) t, (goes u t).focus.transfer = some t ∧ (goes u t).me = u.me ∧
       (hand t = true → goes u t = { u with focus := { u.focus with transfer := some t } })) ∧
     let deep := Host.Outcome.next (s.takeFault s.focus.c s.focus.pos .loopdepth 0x00#8 p 6#64)
     (s.me.loops.length ≠ 6 →
       exec (.loopi len np count) s = .next (if count = 0#9 then skip else enter count.toNat) ∧
       exec (.loopk len np k) s =
         .next (if s.me.k[k] = 0#64 then skip else enter (min s.me.k[k].toNat 16777215))) ∧
     (s.me.loops.length = 6 → exec (.loopi len np count) s = deep ∧ exec (.loopk len np k) s = deep)) ∧
  (∀ (s : State) (lev : Fin 8) (k : Fin 16) (now : Bool),
     let deep := Host.Outcome.next
       (s.takeFault s.focus.c s.focus.pos .loopdepth 0x00#8 s.me.pc (BitVec.ofNat 64 lev.val))
     (lev.val < s.me.loops.length →
       exec (.lset lev k) s = .next (s.land 1 (.pend lev (BitVec.ofNat 24 (min s.me.k[k].toNat 16777215)))) ∧
       exec (.lbrk lev false) s = .next (s.land 1 (.pend lev 0#24)) ∧
       exec (.lbrk lev true) s = .next (s.setMe { s.me with loops := s.me.loops.drop (lev.val + 1) })) ∧
     (s.me.loops.length ≤ lev.val → exec (.lset lev k) s = deep ∧ exec (.lbrk lev now) s = deep))

/-- R189: from the end packet of a level with `n` iterations to come, and no pending count, the body runs `n`
times more: the boundary goes back to its start `n` times, and then leaves the level. -/
def Obligations.LoopRunsItsCount : Prop :=
  ∀ (start last : PcWord) (np : Bool) (rest : List Loop) (n : Nat), n < 2 ^ 24 →
    let level (m : Nat) : Loop := ⟨start, last, BitVec.ofNat 24 m, none, np⟩
    let turn (x : List Loop × PcWord) : List Loop × PcWord := loopBoundary last x.1
    (∀ m, 0 < m → m ≤ n →
      (Nat.repeat turn m (level n :: rest, last)) = (level (n - m) :: rest, start)) ∧
    ((∀ l ∈ rest, l.last ≠ last) → Nat.repeat turn (n + 1) (level n :: rest, last) = (rest, last + 1#43))

/-! ## The X slot -/

/-- R196, R197, R199: the arithmetic of the X slot. The destination takes the value given after 1 cycle, of a
product after 3, of a merge cursor after 2; by `land` nothing else changes. -/
def Obligations.IndexResults : Prop :=
  ∀ (s : State) (u : Bool) (d b c : Fin 32) (a : RK 32) (imm : BitVec 20) (sh : BitVec 5) (li : BitVec 29),
    let x := s.me.xSrc a
    let y := s.me.x[b]
    let k := y.toNat % 32
    exec (.xadd d a b) s = .next (s.land 1 (.x d (BitVec.ofInt 32 (x.toInt + y.toInt)))) ∧
    exec (.xsub d a b) s = .next (s.land 1 (.x d (BitVec.ofInt 32 (x.toInt - y.toInt)))) ∧
    exec (.xmul d a b) s = .next (s.land 3 (.x d (BitVec.ofNat 32 (x.toNat * y.toNat)))) ∧
    exec (.xand d a b) s = .next (s.land 1 (.x d (x &&& y))) ∧
    exec (.xxor d a b) s = .next (s.land 1 (.x d (x ^^^ y))) ∧
    exec (.xshl d a b) s = .next (s.land 1 (.x d (BitVec.ofNat 32 (x.toNat * 2 ^ k)))) ∧
    exec (.xshr d a b) s = .next (s.land 1 (.x d (BitVec.ofNat 32 (x.toNat / 2 ^ k)))) ∧
    exec (.xmin u d a b) s = .next (s.land 1 (.x d
      (if u then BitVec.ofNat 32 (min x.toNat y.toNat) else BitVec.ofInt 32 (min x.toInt y.toInt)))) ∧
    exec (.xmax u d a b) s = .next (s.land 1 (.x d
      (if u then BitVec.ofNat 32 (max x.toNat y.toNat) else BitVec.ofInt 32 (max x.toInt y.toInt)))) ∧
    exec (.xaddi d a imm) s = .next (s.land 1 (.x d (BitVec.ofInt 32 (x.toInt + imm.toInt)))) ∧
    exec (.xshli d a sh) s = .next (s.land 1 (.x d (BitVec.ofNat 32 (x.toNat * 2 ^ sh.toNat)))) ∧
    exec (.xshri d a sh) s = .next (s.land 1 (.x d (BitVec.ofNat 32 (x.toNat / 2 ^ sh.toNat)))) ∧
    exec (.xli d li) s = .next (s.land 1 (.x d (BitVec.ofInt 32 li.toInt))) ∧
    exec (.xpopc d a) s = .next (s.land 1 (.x d (BitVec.ofNat 32 ((List.range 32).filter x.getLsbD).length))) ∧
    (∃ n : Nat, exec (.xclz d a) s = .next (s.land 1 (.x d (BitVec.ofNat 32 n))) ∧ n ≤ 32 ∧
      x.toNat < 2 ^ (32 - n) ∧ (n < 32 → 2 ^ (31 - n) ≤ x.toNat)) ∧
    exec (.xsel d c a b) s = .next (s.land 1 (.x d (if s.me.x[c] = 0#32 then y else x))) ∧
    (∃ w : Word, exec (.xadv d a b) s = .next (s.land 2 (.x d w)) ∧
      let i := (s.me.x[d].extractLsb' 16 15).toNat
      let j := (s.me.x[d].extractLsb' 0 15).toNat
      (w.extractLsb' 16 15).toNat = (if x.toNat ≤ y.toNat then min (i + 1) 32767 else i) ∧
      (w.extractLsb' 0 15).toNat = (if y.toNat ≤ x.toNat then min (j + 1) 32767 else j) ∧
      w.getLsbD 31 = (x == y))

/-- R198, R200 to R207: XLDW completes wherever its word lies in the window and is sound, and where no engine
has an access at the banks takes that word, after 4 cycles. A push whose condition fails does nothing; one that
finds 64 entries raises AQOVERFLOW; any other appends its entry. AQCNT gives the queues' counts. (That its bit 23 reads
0 while the fault's own event is still due is the model's choice: log 36.) -/
def Obligations.IndexLoadsAndPushes : Prop :=
  ∀ (s : State) (d : Fin 32) (a : RK 32) (imm : BitVec 20) (m : Bool) (p : PushArgs),
    let o := (s.me.xSrc a + BitVec.ofInt 32 (4 * imm.toInt)).toInt
    let row := ((s.me.x[p.b].toNat * 2 ^ 16 + (s.me.xSrc p.a).toNat * 2 ^ p.sh.toNat) % 2 ^ 48)
    let skipped : Prop := ∃ c, p.cond = some c ∧ s.me.x[c].getLsbD 31 = false
    let joins (i : Instr) (kind : AqKind) (pad : Bool) : Prop :=
      (skipped → exec i s = .next s) ∧
      (¬ skipped → 64 ≤ s.me.aq.length → exec i s = .next (s.failing .aqoverflow 0x00#8 0#64)) ∧
      (¬ skipped → s.me.aq.length < 64 →
        ∃ e : AqEntry,
          exec i s = .next ((s.setMe { s.me with aq := s.me.aq ++ [e], aqSeq := s.me.aqSeq + 1#32 }).due
            (.gatherEntryBegin s.focus.c)) ∧
          e.seq = s.me.aqSeq ∧ e.kind = kind ∧ e.spad = pad ∧ e.addr.toNat = row ∧
          e.size = 64 * 2 ^ p.size.toNat ∧ e.gid = s.me.gid ∧ e.data = none ∧ e.begun = false)
    (s.windowOk 4 4 false [o] = true → s.soundAt 4 [o] = true →
      (∃ (t : State) (w : Word), exec (.xldw d a imm) s = .next (t.land 4 (.x d w)) ∧ t.me = s.me) ∧
      (s.banksIdle = true →
        exec (.xldw d a imm) s = .next (s.land 4 (.x d (BitVec.ofNat 32 (s.windowNum o.toNat 4)))))) ∧
    joins (.aqg m p) .gather m ∧ joins (.aqs m p) .scatter m ∧
    joins (.aqsa m p) (if m then .addI else .addF) false ∧
    ∃ w : Word, exec (.aqcnt d) s = .next (s.land 1 (.x d w)) ∧
      w.extractLsb' 0 7 = BitVec.ofNat 7 s.me.aq.length ∧ w.extractLsb' 7 1 = 0#1 ∧
      w.extractLsb' 8 6 = BitVec.ofNat 6 s.me.poppable.length ∧ w.extractLsb' 14 2 = 0#2 ∧
      w.extractLsb' 16 7 = BitVec.ofNat 7 (s.me.aq.filter fun e => e.kind != .gather && e.data.isNone).length ∧
      w.getLsbD 23 = (s.me.aqFault.isSome && !s.faultDue (.address s.focus.c)) ∧ w.extractLsb' 24 8 = 0#8

/-! ## The V slot -/

/-- R222, R225: VFSGN gives each active lane bits [30:0] of a with the sign that its mode makes, and VSEL the word
of a or of b by its predicate's bit, after 2 cycles and with no flag. Mode 0b11 of VFSGN is refused with detail
0x11, and a function bit that must be zero and is not with 0x12. -/
def Obligations.SignsAndSelections : Prop :=
  (∀ (s : State) (d b : Fin 32) (c : Fin 8) (a : RK 32) (g : Guard) (m : SgnMode),
     let x (n : Nat) : Word := lane (s.me.vSrc a) n
     let y (n : Nat) : Word := lane s.me.v[b] n
     s.gives (.vfsgn m d a b g) 2 d g (fun n =>
       BitVec.ofBool (match m with
         | .copy => (y n).msb
         | .neg => !(y n).msb
         | .xor => xor (x n).msb (y n).msb) ++ (x n).extractLsb' 0 31) ∧
     s.gives (.vsel d c a b g) 2 d g (fun n => if laneOn s.me.p[c] n then x n else y n)) ∧
  ∀ (w : Word) (h : Hdr),
    (opcodeOf .V w = 0x16 →
      (w.extractLsb' 4 2 = 3#2 → decodeSlot .V w h = .error 0x11#8) ∧
      (w.extractLsb' 4 2 ≠ 3#2 → w.extractLsb' 6 5 ≠ 0#5 → decodeSlot .V w h = .error 0x12#8) ∧
      (∀ i, decodeSlot .V w h = .ok i → ∃ m d a b g, i = .vfsgn m d a b g ∧
        w.extractLsb' 4 2 = match m with | .copy => 0#2 | .neg => 1#2 | .xor => 2#2)) ∧
    (opcodeOf .V w = 0x1E →
      (w.extractLsb' 7 4 ≠ 0#4 → decodeSlot .V w h = .error 0x12#8) ∧
      (∀ i, decodeSlot .V w h = .ok i → ∃ d c a b g, i = .vsel d c a b g ∧ c.val = (w.extractLsb' 4 3).toNat))

/-- R216, R219: the integer operations lane by lane, in the lanes of the guard, after 2 cycles. R235:
permutes, moves and constants. -/
def Obligations.VectorWordResults : Prop :=
  (∀ (s : State) (d b : Fin 32) (a : RK 32) (g : Guard) (u sub : Bool),
     let x (n : Nat) : Word := lane (s.me.vSrc a) n
     let y (n : Nat) : Word := lane s.me.v[b] n
     let k (n : Nat) : Nat := (y n).toNat % 32
     let num (w : Word) : Int := if u then w.toNat else w.toInt
     (∀ n < 128, laneOn (s.me.mask g) n = s.me.active g n) ∧
     s.gives (.vadd d a b g) 2 d g (fun n => BitVec.ofInt 32 ((x n).toInt + (y n).toInt)) ∧
     s.gives (.vsub d a b g) 2 d g (fun n => BitVec.ofInt 32 ((x n).toInt - (y n).toInt)) ∧
     s.gives (.vmul .lo d a b g) 2 d g (fun n => BitVec.ofInt 32 ((x n).toInt * (y n).toInt)) ∧
     s.gives (.vmul .hs d a b g) 2 d g (fun n => BitVec.ofInt 32 ((x n).toInt * (y n).toInt / 2 ^ 32)) ∧
     s.gives (.vmul .hu d a b g) 2 d g (fun n => BitVec.ofNat 32 ((x n).toNat * (y n).toNat / 2 ^ 32)) ∧
     s.gives (.vmin u d a b g) 2 d g (fun n => BitVec.ofInt 32 (min (num (x n)) (num (y n)))) ∧
     s.gives (.vmax u d a b g) 2 d g (fun n => BitVec.ofInt 32 (max (num (x n)) (num (y n)))) ∧
     s.gives (.vand d a b g) 2 d g (fun n => x n &&& y n) ∧
     s.gives (.vor d a b g) 2 d g (fun n => x n ||| y n) ∧
     s.gives (.vxor d a b g) 2 d g (fun n => x n ^^^ y n) ∧
     s.gives (.vshl d a b g) 2 d g (fun n => BitVec.ofNat 32 ((x n).toNat * 2 ^ k n)) ∧
     s.gives (.vshr d a b g) 2 d g (fun n => BitVec.ofNat 32 ((x n).toNat / 2 ^ k n)) ∧
     s.gives (.vsar d a b g) 2 d g (fun n => BitVec.ofInt 32 ((x n).toInt / 2 ^ k n)) ∧
     s.gives (.vadds u sub d a b g) 2 d g (fun n =>
       let r := if sub then num (x n) - num (y n) else num (x n) + num (y n)
       BitVec.ofInt 32 (if u then max 0 (min r (2 ^ 32 - 1)) else max (-2 ^ 31) (min r (2 ^ 31 - 1))))) ∧
  (∀ (s : State) (d b : Fin 32) (c : Fin 8) (a : RK 32) (g : Guard) (z : Bool) (imm : BitVec 20) (j : BitVec 7)
     (li : BitVec 29),
     let x (n : Nat) : Word := lane (s.me.vSrc a) n
     let y (n : Nat) : Word := lane s.me.v[b] n
     s.gives (.vperm z d a b g) 3 d g (fun n =>
       if z = true ∧ (y n).getLsbD 7 = true then 0#32 else x ((y n).extractLsb' 0 7).toNat) ∧
     s.gives (.vrot d a imm g) 3 d g (fun n => x ((n + imm.toNat) % 128)) ∧
     s.gives (.vbcst d a j g) 3 d g (fun _ => x j.toNat) ∧
     s.gives (.vmov d a g) 2 d g x ∧
     s.gives (.viota none d g) 2 d g (fun n => BitVec.ofNat 32 n) ∧
     s.gives (.viota (some c) d g) 2 d g (fun n =>
       BitVec.ofNat 32 ((List.range n).filter (laneOn s.me.p[c])).length) ∧
     s.givesAll (.vli d li) 2 d (fun _ => BitVec.ofInt 32 li.toInt))

/-- R220, R221, R223, R226, R229: the floating-point operations and conversions lane by lane, with the flags of
their active lanes (what the conversions and the FP32 operations give, R108 to R113 and R220, is RoundingModes'). R227,
R228: VQNT packs its elements: element n of the row's string is the conversion of lane n by its scale, and the string is
zero beyond them. R221: the minimum and the maximum of a lane. R223: the reciprocal and the reciprocal square root are
correctly rounded, Table 2's special inputs and exact cases of all four functions, and some values of 2^a and log2(a) mode by
mode. R114, R117, R228, R229: what an element and its scale give; with MX the product is rounded to nearest (the model's
choice beside R229's mode field: log 43). -/
def Obligations.VectorFloatResults : Prop :=
  (∀ (s : State) (d b c : Fin 32) (a : RK 32) (g : Guard) (rm : RM) (q sat mx : Bool) (mode : RMode) (f1 f2 : Fmt),
     let x (n : Nat) : Word := lane (s.me.vSrc a) n
     let y (n : Nat) : Word := lane s.me.v[b] n
     let w (n : Nat) : Word := lane s.me.v[c] n
     s.givesF (.vfadd rm d a b g) 4 d g (fun n => fadd rm (x n) (y n)) ∧
     s.givesF (.vfsub rm d a b g) 4 d g (fun n => fsub rm (x n) (y n)) ∧
     s.givesF (.vfmul rm d a b g) 4 d g (fun n => fmul rm (x n) (y n)) ∧
     s.givesF (.vfma rm d a b c g) 4 d g (fun n => ffma rm (x n) (y n) (w n)) ∧
     s.givesF (.vfmin q d a b g) 2 d g (fun n =>
       (fminmax false q (x n) (y n), { iv := isSig32 (x n) || isSig32 (y n) })) ∧
     s.givesF (.vfmax q d a b g) 2 d g (fun n =>
       (fminmax true q (x n) (y n), { iv := isSig32 (x n) || isSig32 (y n) })) ∧
     s.givesF (.vfrcp rm d a g) 8 d g (fun n => frcp rm (x n)) ∧
     s.givesF (.vfrsq rm d a g) 8 d g (fun n => frsq rm (x n)) ∧
     s.givesF (.vfexp2 rm d a g) 8 d g (fun n => fexp2 rm (x n)) ∧
     s.givesF (.vflog2 rm d a g) 8 d g (fun n => flog2 rm (x n)) ∧
     s.givesF (.vcvt mode sat d a f1 f2 g) 4 d g (fun n =>
       let r := cvt (fval f1 ((x n).toNat % 2 ^ fmtWidth f1)) f2 mode sat (lane s.me.v[d] n).toNat
       (BitVec.ofNat 32 r.1, r.2)) ∧
     s.givesF (.vdqnt rm mx d a b f1 g) 4 d g (dequantElem (s.me.vSrc a) s.me.v[b] rm mx f1)) ∧
  (∀ (s : State) (d b : Fin 32) (a : RK 32) (g : Guard) (rm : RM) (sat : Bool) (f : Fmt), fmtWidth f ≤ 16 →
     let w := fmtWidth f
     let el (n : Nat) : Nat × Flags := quantElem (s.me.vSrc a) s.me.v[b] rm sat f n
     ∃ v fl, exec (.vqnt rm sat d a b f g) s = .next ((s.land 4 (.v d v (s.me.mask g))).landFlags 4 fl) ∧
       (∀ n < 128, elemAt (vbyte v) w n = (el n).1 % 2 ^ w) ∧
       (∀ n < 512, 16 * w ≤ n → vbyte v n = 0#8) ∧
       ∀ get ∈ [Flags.iv, Flags.ovf, Flags.uf, Flags.nx],
         (get fl = true ↔ ∃ n < 128,
           (s.me.active g (w * n / 32) = true ∨ s.me.active g ((w * n + w - 1) / 32) = true) ∧ get (el n).2 = true)) ∧
  (∀ (a b : Word) (most quiet : Bool),
     let r := fminmax most quiet a b
     let v (w : Word) : Int := signed32 w
     (isNan32 a = true → isNan32 b = true → r = nan32) ∧
     (isNan32 a = true → isNan32 b = false → r = (if quiet then nan32 else b) ∧
       fminmax most quiet b a = if quiet then nan32 else b) ∧
     (isNan32 a = false → isNan32 b = false → (r = a ∨ r = b) ∧ v r = (if most then max (v a) (v b) else min (v a) (v b)) ∧
       (v a = 0 → v b = 0 → r.msb = if most then a.msb && b.msb else a.msb || b.msb))) ∧
  (∀ (rm : RM) (a : Word) (neg : Bool) (m : Nat) (e : Int),
     let inf (n : Bool) : Word × Flags := (if n then 0xFF800000#32 else 0x7F800000#32, .none)
     let zero (n : Bool) : Word × Flags := (if n then 0x80000000#32 else 0#32, .none)
     let bad : Word × Flags := (nan32, .invalid)
     let all4 (f : RM → Word → Word × Flags) : Prop := f ∈ [frcp, frsq, fexp2, flog2]
     (∀ f, all4 f → isNan32 a = true → f rm a = (nan32, { iv := isSig32 a })) ∧
     (f32 a = .inf neg → frcp rm a = zero neg ∧ frsq rm a = (if neg then bad else zero false) ∧
       fexp2 rm a = (if neg then zero false else inf false) ∧ flog2 rm a = if neg then bad else inf false) ∧
     (f32 a = .fin neg 0 e → frcp rm a = inf neg ∧ frsq rm a = inf neg ∧ fexp2 rm a = (0x3F800000#32, .none) ∧
       flog2 rm a = inf true) ∧
     (f32 a = .fin neg m e → m ≠ 0 →
       let n := (e + 149).toNat
       correct32 rm neg (fun k => k * m * 2 ^ n < 2 ^ 299) (fun k => 2 ^ 299 < k * m * 2 ^ n) (frcp rm a) ∧
       (neg = true → frsq rm a = bad ∧ flog2 rm a = bad) ∧
       (neg = false → correct32 rm false (fun k => k * k * m * 2 ^ n < 2 ^ 449) (fun k => 2 ^ 449 < k * k * m * 2 ^ n)
         (frsq rm a)) ∧
       (∀ i : Nat, m * 2 ^ n = i * 2 ^ 149 → fexp2 rm a = to32 rm (.fin false 1 (if neg then -(i : Int) else i))) ∧
       (neg = false → ∀ i : Int, (m * 2 ^ n : Nat) = 2 ^ (i + 149).toNat → -149 ≤ i →
         flog2 rm a = to32 rm (.fin (decide (i < 0)) i.natAbs 0)))) ∧
  (∀ y ∈ [(fexp2, 0x3F000000#32, 0x3FB504F3#32, 0x3FB504F4#32, 0x3FB504F3#32),
      (fexp2, 0x3E800000#32, 0x3F9837F0#32, 0x3F9837F1#32, 0x3F9837F0#32),
      (fexp2, 0xBF000000#32, 0x3F3504F3#32, 0x3F3504F4#32, 0x3F3504F3#32),
      (flog2, 0x40400000#32, 0x3FCAE00D#32, 0x3FCAE00E#32, 0x3FCAE00D#32),
      (flog2, 0x41200000#32, 0x40549A78#32, 0x40549A79#32, 0x40549A78#32)],
     y.1 .rz y.2.1 = (y.2.2.1, { nx := true }) ∧ y.1 .rd y.2.1 = (y.2.2.1, { nx := true }) ∧
       y.1 .ru y.2.1 = (y.2.2.2.1, { nx := true }) ∧ y.1 .rne y.2.1 = (y.2.2.2.2, { nx := true })) ∧
  ∀ (va vb : VReg) (rm : RM) (sat : Bool) (f : Fmt) (n : Nat) (n1 n2 : Bool) (m1 m2 : Nat) (e1 e2 : Int),
    let a := lane va n
    let b := lane vb n
    let q := quantElem va vb rm sat f n
    let as (x : FVal) (iv : Bool) : Prop :=
      q = ((cvt x f (.det rm) sat 0).1, { (cvt x f (.det rm) sat 0).2 with iv := (cvt x f (.det rm) sat 0).2.iv || iv })
    (f32 a = .fin n1 m1 e1 → f32 b = .fin n2 m2 e2 → as (.fin (n1 != n2) (m1 * m2) (e1 + e2)) false) ∧
    (f32 a = .inf n1 → f32 b = .inf n2 → as (.inf (n1 != n2)) false) ∧
    (f32 a = .inf n1 → f32 b = .fin n2 m2 e2 → as (if m2 = 0 then .nan false false else .inf (n1 != n2)) (m2 == 0)) ∧
    (f32 a = .fin n1 m1 e1 → f32 b = .inf n2 → as (if m1 = 0 then .nan false false else .inf (n1 != n2)) (m1 == 0)) ∧
    (isNan32 b = true → as (.nan b.msb false) (isSig32 a || isSig32 b)) ∧
    (isNan32 b = false → isNan32 a = true → as (.nan a.msb false) (isSig32 a)) ∧
    (let x := fval f (elemAt (vbyte va) (fmtWidth f) n)
     let y := dequantElem va vb rm false f n
     let bad : Word × Flags := (nan32, .invalid)
     (x = .fin n1 m1 e1 → f32 b = .fin n2 m2 e2 → y = to32 rm (.fin (n1 != n2) (m1 * m2) (e1 + e2))) ∧
     (x = .fin n1 m1 e1 → f32 b = .inf n2 → y = if m1 = 0 then bad else to32 rm (.inf (n1 != n2))) ∧
     (x = .inf n1 → f32 b = .fin n2 m2 e2 → y = if m2 = 0 then bad else to32 rm (.inf (n1 != n2))) ∧
     (x = .inf n1 → f32 b = .inf n2 → y = to32 rm (.inf (n1 != n2))) ∧
     (x.isNan = true ∨ isNan32 b = true → y = (nan32, { iv := isSig32 b || x.isSig })) ∧
     let c := (vbyte vb (n / 32)).toNat
     let z := dequantElem va vb rm true f n
     (c = 255 → z = (nan32, .none)) ∧
     (c ≠ 255 → x = .fin n1 m1 e1 → z = to32 .rne (.fin n1 m1 (e1 + (c : Int) - 127))) ∧
     (c ≠ 255 → x = .inf n1 → z = to32 .rne (.inf n1)) ∧ (c ≠ 255 → x.isNan = true → z.1 = nan32))

/-- R108: the rounding of a magnitude m × 2^e to a multiple of 2^q, mode by mode; R109: stochastic rounding, which acts
as RNE on overflow; rounding the value of an FP32 word that is no NaN gives that word, with no flag. R110: the value of a narrower float format is its FP32 value. R111: a
finite value that does not overflow becomes the number that it rounds to, on the grid of R108; Table 4's thresholds and
Table 5's results. R112: a conversion to an integer format gives the nearer bound outside its range. R113: the flags.
R220: the FP32 operations round the exact sum or product, with the cases of zeros, infinities and NaNs. -/
def Obligations.RoundingModes : Prop :=
  (∀ (neg : Bool) (q e : Int) (m : Nat), e < q →
    let unit := 2 ^ (q - e).toNat
    let rounded (rm : RM) : Rounded := roundGrid (.det rm) neg q m e false 0
    let down (r : Rounded) : Prop := r.n * unit ≤ m ∧ m < (r.n + 1) * unit
    let up (r : Rounded) : Prop := m ≤ r.n * unit ∧ r.n * unit < m + unit
    (∀ rm, (rounded rm).q = q ∧ ((rounded rm).inexact = true ↔ m % unit ≠ 0)) ∧
    down (rounded .rz) ∧
    (if neg then up (rounded .rd) ∧ down (rounded .ru) else down (rounded .rd) ∧ up (rounded .ru)) ∧
    2 * ((rounded .rne).n * unit) ≤ 2 * m + unit ∧ 2 * m ≤ 2 * ((rounded .rne).n * unit) + unit ∧
    ((2 * ((rounded .rne).n * unit) = 2 * m + unit ∨ 2 * m = 2 * ((rounded .rne).n * unit) + unit) → (rounded .rne).n % 2 = 0) ∧
    ∀ rand : Nat,
      let r := roundGrid .sr neg q m e false rand
      r.q = q ∧ (r.inexact = true ↔ m % unit ≠ 0) ∧
        r.n = m / unit + if (2 ^ 24 - rand % 2 ^ 24) * unit ≤ m % unit * 2 ^ 24 then 1 else 0) ∧
  (∀ (f : Fmt) (sp : FSpec) (sat neg : Bool) (m rand : Nat) (e : Int), floatSpec f = some sp →
    let q := max ((bitLen m : Int) + e - (sp.mbits + 1 : Nat)) (1 - (sp.bias : Int) - (sp.mbits : Int))
    let r := roundGrid .sr neg q m e false rand
    let c := cvt (.fin neg m e) f .sr sat rand
    let near := cvt (.fin neg m e) f (.det .rne) sat 0
    let most := fval f (cvt (.inf neg) f (.det .rne) true 0).1
    (near.2.ovf = true → c = near) ∧
    (near.2.ovf = false → c.2.ovf = false ∧ c.2.iv = false ∧ c.2.nx = r.inexact ∧
      ((fval f c.1).sameNumber (.fin neg r.n r.q) = true ∨
        (fval f c.1).sameNumber most = true ∧ ∀ g, (fval f g).sameNumber (.fin neg r.n r.q) = false))) ∧
  (∀ (rm : RM) (w : Word), isNan32 w = false → to32 rm (f32 w) = (w, .none)) ∧
  (∀ f ∈ [Fmt.bf16, .fp16, .tf32, .e4m3, .e5m2, .e3m2, .e2m3, .e2m1, .int8, .uint8, .int4, .uint4, .e8m0],
    ∀ (x : Nat) (mode : RMode) (sat : Bool) (rand : Nat), (fval f x).isNan = false →
      let r := cvt (fval f x) .fp32 mode (sat && !(fval f x).isInf) rand
      (f32 (BitVec.ofNat 32 r.1)).sameNumber (fval f x) = true ∧ r.2 = .none) ∧
  (∀ (f : Fmt) (sp : FSpec) (mode : RMode) (sat neg : Bool) (m rand : Nat) (e : Int), floatSpec f = some sp →
    let q := max ((bitLen m : Int) + e - (sp.mbits + 1 : Nat)) (1 - (sp.bias : Int) - (sp.mbits : Int))
    let r := roundGrid mode neg q m e false rand
    let c := cvt (.fin neg m e) f mode sat rand
    c.2.ovf = false → mode ≠ .sr →
      (fval f c.1).sameNumber (.fin neg r.n r.q) = true ∧ c.2.nx = r.inexact ∧ c.2.iv = false ∧
        (c.2.uf = true ↔ r.inexact = true ∧ r.n ≠ 0 ∧ (bitLen r.n : Int) + r.q ≤ 1 - (sp.bias : Int))) ∧
  (∀ neg sat : Bool, ∀ y ∈ overflowTable,
    (cvt (.fin neg y.2.1.1 y.2.1.2) y.1 (.det .rne) sat 0).2.ovf = true ∧
      (cvt (.fin neg y.2.2.1 y.2.2.2) y.1 (.det .rne) sat 0).2.ovf = false) ∧
  (∀ (mode : RMode) (sat neg : Bool) (m rand : Nat) (e : Int), ∀ y ∈ specialCodes,
    let sign := if neg then y.2.2.2.2 else 0
    let c := cvt (.fin neg m e) y.1 mode sat rand
    (c.2.ovf = true → c.2 = { ovf := true, nx := true } ∧
      c.1 = if !sat && (mode = .det .rne ∨ mode = .sr ∨ mode = .det .rd ∧ neg ∨ mode = .det .ru ∧ !neg) then
          (if y.1 = .e4m3 then 0x7F else sign + y.2.1)
        else sign + y.2.2.1) ∧
    cvt (.inf neg) y.1 mode sat rand = (if sat then sign + y.2.2.1 else if y.1 = .e4m3 then 0x7F else sign + y.2.1,
      { iv := y.1 = .e4m3, nx := sat || y.1 = .e4m3 }) ∧
    ∀ sig, cvt (.nan neg sig) y.1 mode sat rand = (y.2.2.2.1, { iv := sig })) ∧
  (∀ (mode : RMode) (sat neg sig : Bool) (m rand : Nat) (e : Int),
    ∀ y ∈ [(Fmt.e3m2, 0x1F, 0x20), (.e2m3, 0x1F, 0x20), (.e2m1, 0x7, 0x8)],
    let top := (if neg then y.2.2 else 0) + y.2.1
    let c := cvt (.fin neg m e) y.1 mode sat rand
    (c.2.ovf = true → c = (top, { ovf := true, nx := true })) ∧
      cvt (.inf neg) y.1 mode sat rand = (top, { iv := true, nx := true }) ∧
      cvt (.nan neg sig) y.1 mode sat rand = (top, .invalid)) ∧
  (∀ (mode : RMode) (sat neg sig : Bool) (m rand : Nat) (e : Int),
    ∀ y ∈ [(Fmt.int8, 8, (-128 : Int), (127 : Int)), (.uint8, 8, 0, 255), (.int4, 4, -8, 7), (.uint4, 4, 0, 15),
      (.int32, 32, -2147483648, 2147483647)],
    let r := roundGrid mode neg 0 m e false rand
    let n : Int := if neg then -(r.n : Int) else r.n
    cvt (.nan neg sig) y.1 mode sat rand = (0, .invalid) ∧
    cvt (.inf neg) y.1 mode sat rand = (((if neg then y.2.2.1 else y.2.2.2) % 2 ^ y.2.1).toNat, { iv := true, nx := true }) ∧
    cvt (.fin neg m e) y.1 mode sat rand = ((max y.2.2.1 (min n y.2.2.2) % 2 ^ y.2.1).toNat,
      if n < y.2.2.1 ∨ y.2.2.2 < n then { iv := true, nx := true } else { nx := r.inexact })) ∧
  ∀ (rm : RM) (x y z : Word) (n1 n2 n3 : Bool) (m1 m2 m3 : Nat) (e1 e2 e3 : Int),
    let zero (neg : Bool) : Word := if neg then 0x80000000#32 else 0#32
    let inf (neg : Bool) : Word := if neg then 0xFF800000#32 else 0x7F800000#32
    let at_ (n : Bool) (m : Nat) (e e0 : Int) : Int := (if n then -1 else 1) * (m * 2 ^ (e - e0).toNat : Nat)
    let rounds (v e : Int) : Word × Flags := to32 rm (.fin (decide (v < 0)) v.natAbs e)
    let bad : Word × Flags := (nan32, .invalid)
    (f32 x = .fin n1 m1 e1 → f32 y = .fin n2 m2 e2 →
      let e := min e1 e2
      let sum := at_ n1 m1 e1 e + at_ n2 m2 e2 e
      let dif := at_ n1 m1 e1 e - at_ n2 m2 e2 e
      (sum ≠ 0 → fadd rm x y = rounds sum e) ∧ (dif ≠ 0 → fsub rm x y = rounds dif e) ∧
      (sum = 0 → fadd rm x y = (zero (if m1 = 0 ∧ n1 = n2 then n1 else decide (rm = .rd)), .none)) ∧
      (dif = 0 → fsub rm x y = (zero (if m1 = 0 ∧ n1 ≠ n2 then n1 else decide (rm = .rd)), .none)) ∧
      fmul rm x y = to32 rm (.fin (n1 != n2) (m1 * m2) (e1 + e2)) ∧
      (f32 z = .fin n3 m3 e3 →
        let e := min (e1 + e2) e3
        let all := at_ (n1 != n2) (m1 * m2) (e1 + e2) e + at_ n3 m3 e3 e
        (all ≠ 0 → ffma rm x y z = rounds all e) ∧
        (all = 0 → ffma rm x y z = (zero (if m3 = 0 ∧ n3 = (n1 != n2) then n3 else decide (rm = .rd)), .none))) ∧
      (f32 z = .inf n3 → ffma rm x y z = (inf n3, .none))) ∧
    (f32 x = .inf n1 → f32 y = .inf n2 →
      fadd rm x y = (if n1 = n2 then (inf n1, .none) else bad) ∧
      fsub rm x y = (if n1 = n2 then bad else (inf n1, .none)) ∧ fmul rm x y = (inf (n1 != n2), .none)) ∧
    (f32 x = .inf n1 → f32 y = .fin n2 m2 e2 →
      fadd rm x y = (inf n1, .none) ∧ fadd rm y x = (inf n1, .none) ∧
      fsub rm x y = (inf n1, .none) ∧ fsub rm y x = (inf (!n1), .none) ∧
      fmul rm x y = (if m2 = 0 then bad else (inf (n1 != n2), .none)) ∧ fmul rm y x = fmul rm x y ∧
      (m2 = 0 → ∀ w, isSig32 w = false → ffma rm x y w = bad ∧ ffma rm y x w = bad) ∧
      (m2 ≠ 0 → f32 z = .inf n3 →
        ffma rm x y z = (if n3 = (n1 != n2) then (inf n3, .none) else bad))) ∧
    (isNan32 x = true →
      let iv (w : Word) : Flags := { iv := isSig32 x || isSig32 w }
      fadd rm x y = (nan32, iv y) ∧ fadd rm y x = (nan32, iv y) ∧ fsub rm x y = (nan32, iv y) ∧
        fsub rm y x = (nan32, iv y) ∧ fmul rm x y = (nan32, iv y) ∧ fmul rm y x = (nan32, iv y) ∧
        (ffma rm x y z).1 = nan32 ∧ (ffma rm y x z).1 = nan32 ∧ (ffma rm y z x).1 = nan32)

/-- R217, R224, R236 to R238: compares, by the tests of R77, and predicate operations, after 2 cycles. -/
def Obligations.VectorPredicates : Prop :=
  ∀ (s : State) (d p q : Fin 8) (v b : Fin 32) (a : RK 32) (g : Guard) (cc : ICc) (fc : FCc) (tt : BitVec 4),
    let x (n : Nat) : Word := lane (s.me.vSrc a) n
    let y (n : Nat) : Word := lane s.me.v[b] n
    let hits := (List.range 128).filter fun n => laneOn s.me.p[p] n && s.me.active g n
    let word (j : Nat) : Word := (s.me.p[Fin.ofNat 8 (j / 4)]).extractLsb' (32 * (j % 4)) 32
    let unpacked (set : PGroup) (t : State) : Prop :=
      ∀ k : Fin 8, (t.tick s.focus.c 2).me.p[k] =
        if (pset set).contains k then x (4 * k + 3) ++ x (4 * k + 2) ++ x (4 * k + 1) ++ x (4 * k) else s.me.p[k]
    (∃ r, exec (.vcmp cc d a b g) s = .next (s.land 2 (.p d r (s.me.mask g))) ∧
      ∀ n < 128, (laneOn r n = true ↔ testHolds cc (x n) (y n))) ∧
    (∃ r fl, exec (.vfcmp fc d a b g) s = .next ((s.land 2 (.p d r (s.me.mask g))).landFlags 2 fl) ∧
      (∀ n < 128,
        let un := isNan32 (x n) || isNan32 (y n)
        let v := signed32 (x n)
        let w := signed32 (y n)
        laneOn r n = match fc with
          | .eq => !un && decide (v = w) | .ne => un || decide (v ≠ w) | .lt => !un && decide (v < w)
          | .le => !un && decide (v ≤ w) | .gt => !un && decide (v > w) | .ge => !un && decide (v ≥ w)
          | .un => un | .ord => !un) ∧
      fl.ovf = false ∧ fl.uf = false ∧ fl.nx = false ∧
      (fl.iv = true ↔ ∃ n < 128, s.me.active g n = true ∧ (isSig32 (x n) = true ∨ isSig32 (y n) = true))) ∧
    (∃ r, exec (.plog tt d p q g) s = .next (s.land 2 (.p d r (s.me.mask g))) ∧
      ∀ n < 128, laneOn r n =
        tt.getLsbD (2 * (laneOn s.me.p[p] n).toNat + (laneOn s.me.p[q] n).toNat)) ∧
    (∀ set, s.gives (.ppack set v g) 2 v g (fun n =>
      if n < 32 ∧ (pset set).contains (Fin.ofNat 8 (n / 4)) = true then word n else 0#32)) ∧
    (∀ set, s.me.landings = [] → ∃ t, exec (.punpk set a) s = .next t ∧ unpacked set t) ∧
    s.givesAll (.pcnt .count v p g) 2 v (fun _ => BitVec.ofNat 32 hits.length) ∧
    s.givesAll (.pcnt .first v p g) 2 v (fun _ => BitVec.ofNat 32 (hits.headD 128)) ∧
    s.givesAll (.pcnt .last v p g) 2 v (fun _ => BitVec.ofNat 32 (hits.getLastD 128))

/-- R232 to R234: the reductions are the binary trees of R232 over each segment, whose inactive lanes give the
identity; the argument forms give the lowest active lane that holds the result; scans run through each segment
in lane order. The result takes every lane. -/
def Obligations.ReductionsAndScans : Prop :=
  ∀ (s : State) (d : Fin 32) (a : RK 32) (g : Guard) (seg : Fin 8) (rm : RM) (u nan i32 excl : Bool),
    let leaf (id : Word) (n : Nat) : Word := if s.me.active g n then lane (s.me.vSrc a) n else id
    let sumOp (p q : Word) : Word × Flags := if i32 then (p + q, .none) else fadd rm p q
    let more (m : Bool) (p q : Word) : Word × Flags :=
      if i32 then (BitVec.ofInt 32 (let v (w : Word) : Int := if u then w.toNat else w.toInt
        if m then max (v p) (v q) else min (v p) (v q)), .none)
      else (fminmax m nan p q, { iv := isSig32 p || isSig32 q })
    let lowest : Word := if i32 then if u then 0#32 else 0x80000000#32 else 0xFF800000#32
    let highest : Word := if i32 then if u then 0xFFFFFFFF#32 else 0x7FFFFFFF#32 else 0x7F800000#32
    let node (op : Word → Word → Word × Flags) (id : Word) (l n : Nat) : Word :=
      treeAt (fun p q => (op p q).1) (leaf id) l n
    let raised (op : Word → Word → Word × Flags) (id : Word) (fl : Flags) : Prop :=
      ∀ get ∈ [Flags.iv, Flags.ovf, Flags.uf, Flags.nx],
        (get fl = true ↔ ∃ l < seg.val, ∃ n < 128 / 2 ^ (l + 1),
          get (op (node op id l (2 * n)) (node op id l (2 * n + 1))).2 = true)
    let reduces (i : Instr) (op : Word → Word → Word × Flags) (id : Word) : Prop :=
      ∃ v fl, exec i s = .next ((s.land 6 (.v d v (BitVec.allOnes 128))).landFlags 6 fl) ∧ raised op id fl ∧
        ∀ n < 128, lane v n = node op id seg.val (n / 2 ^ seg.val)
    let locates (i : Instr) (op : Word → Word → Word × Flags) (id : Word) : Prop :=
      ∃ v fl, exec i s = .next ((s.land 6 (.v d v (BitVec.allOnes 128))).landFlags 6 fl) ∧ raised op id fl ∧
        ∀ n < 128,
          let r := node op id seg.val (n / 2 ^ seg.val)
          let holds (j : Nat) : Prop := j / 2 ^ seg.val = n / 2 ^ seg.val ∧ s.me.active g j = true ∧
            (lane (s.me.vSrc a) j = r ∨
              i32 = false ∧ isNan32 r = true ∧ isNan32 (lane (s.me.vSrc a) j) = true)
          (∃ j < 128, holds j ∧ (∀ j' < j, ¬ holds j') ∧ lane v n = BitVec.ofNat 32 j) ∨
            (∀ j < 128, ¬ holds j) ∧ lane v n = 0xFFFFFFFF#32
    let sums (n : Nat) : Nat → Word := runAt (fun p q => (sumOp p q).1) 0#32 (leaf 0#32) (n / 2 ^ seg.val * 2 ^ seg.val)
    reduces (.vrsum rm i32 seg d a g) sumOp 0#32 ∧
    reduces (.vrmax false u nan i32 seg d a g) (more true) lowest ∧
    reduces (.vrmin false u nan i32 seg d a g) (more false) highest ∧
    locates (.vrmax true u nan i32 seg d a g) (more true) lowest ∧
    locates (.vrmin true u nan i32 seg d a g) (more false) highest ∧
    ∃ v fl, exec (.vscan rm excl i32 seg d a g) s =
        .next ((s.land 8 (.v d v (BitVec.allOnes 128))).landFlags 8 fl) ∧
      (∀ n < 128, lane v n = sums n (n % 2 ^ seg.val + if excl then 0 else 1)) ∧
      ∀ get ∈ [Flags.iv, Flags.ovf, Flags.uf, Flags.nx],
        (get fl = true ↔ ∃ n < 128, get (sumOp (sums n (n % 2 ^ seg.val)) (leaf 0#32 n)).2 = true)

/-- R241 to R246, R360, R361: GATE, DICE, VDESC and VCMP48. A first, not final GATE row keeps every active candidate
or k candidates that come before it; a final one has their weights. DICE gives the words of Philox4x32-10 and moves its
counter. VCMP48 keeps the four elements of greatest magnitude of each eight, the lower of equals. -/
def Obligations.SpecialVectorResults : Prop :=
  ∀ (s : State) (d b : Fin 32) (a : RK 32) (g : Guard) (k : Fin 8) (chunk : Fin 4) (fin first : Bool) (f : Fmt)
    (m : C48Mode),
    let x (n : Nat) : Word := lane (s.me.vSrc a) n
    let y (n : Nat) : Word := lane s.me.v[b] n
    let idOf (n : Nat) : Nat := bits (y 16).toNat 9 11 * 512 + chunk.val * 128 + n
    s.givesAll (.gate first fin d a b k chunk g) 12 d
      (gateRow (s.me.active g) (s.me.vSrc a) s.me.v[b] (k.val + 1) chunk.val first fin) ∧
    (∀ n < 128, s.me.active g n = true → isNan32 (x n) = false →
      let row := gateRow (s.me.active g) (s.me.vSrc a) s.me.v[b] (k.val + 1) chunk.val true false
      (∃ j ≤ k.val, row (8 + j) = BitVec.ofNat 32 (2 ^ 31 + idOf n) ∧ row j = x n) ∨
        ∀ j ≤ k.val, ∃ i < 128, row (8 + j) = BitVec.ofNat 32 (2 ^ 31 + idOf i) ∧ row j = x i ∧
          (ordKey (x n) < ordKey (x i) ∨ ordKey (x n) = ordKey (x i) ∧ i < n)) ∧
    (let plain := gateRow (s.me.active g) (s.me.vSrc a) s.me.v[b] (k.val + 1) chunk.val first false
     let wts := gateRow (s.me.active g) (s.me.vSrc a) s.me.v[b] (k.val + 1) chunk.val first true
     let n := ((List.range 8).filter fun j => (plain (8 + j)).msb).length
     let one : Word := 0x3F800000#32
     let share (m : Nat) : Word := div32 one (round32 (.fin false m 0))
     let inf : Word := 0x7F800000#32
     let e (j : Nat) : Word := (fexp2 .rne (mul32 (sub32 (plain j) (plain 0)) 0x3FB8AA3B#32)).1
     let total := (((List.range n).drop 1).map e).foldl add32 (e 0)
     (∀ j < 8, (plain (8 + j)).msb = decide (j < n) ∧ wts (8 + j) = plain (8 + j)) ∧
     (∀ j < 8, n ≤ j → wts j = 0#32) ∧
     (∀ j < n, wts j =
       if plain 0 = inf then
         if plain j = inf then share ((List.range n).filter fun i => plain i == inf).length else 0#32
       else if plain 0 = 0xFF800000#32 then share n
       else div32 (e j) total)) ∧
    (∀ i < 128, gt32 (x i) (y 0) = true → (∀ j < i, gt32 (x j) (y 0) = false) →
      ∃ v, exec (.vdesc false d a b) s = .next (s.land 6 (.v d v (BitVec.allOnes 128))) ∧
        lane v 0 = fminmax true false 0#32 (sub32 (y 0) (if i = 0 then 0#32 else x (i - 1))) ∧
        lane v 1 = BitVec.ofNat 32 ((y 1).toNat * 128 + i) ∧ lane v 2 = BitVec.ofNat 32 i ∧ lane v 3 = 0#32 ∧
        ∀ n < 128, 4 ≤ n → lane v n = 0#32) ∧
    s.givesAll (.vdesc fin d a b) 6 d (descend fin (s.me.vSrc a) s.me.v[b]) ∧
    s.gives (.vcmp48 m d a f g) 5 d g (lane (vOfBytes (cmp48Byte m (vbyte (s.me.vSrc a)) f))) ∧
    (f ∈ [Fmt.bf16, .fp16, .e4m3, .e5m2, .int8, .uint8, .fp32, .int32] →
      let w := fmtWidth f
      let el (n : Nat) : Nat := elemAt (vbyte (s.me.vSrc a)) w n
      let mag (n : Nat) : Nat :=
        if f = .uint8 then el n
        else if f = .int8 ∨ f = .int32 then min (el n) (2 ^ w - el n)
        else if (fval f (el n)).isNan then 2 ^ w else el n % 2 ^ (w - 1)
      let keeps (n : Nat) : Bool :=
        decide (((List.range 8).filter fun i =>
          let o := n / 8 * 8 + i
          decide (mag n < mag o) || mag o == mag n && decide (o < n)).length < 4)
      let got (c : C48Mode) (n : Nat) : Nat := elemAt (cmp48Byte c (vbyte (s.me.vSrc a)) f) w n
      (∀ n < 512 / w, ((List.range 8).filter fun j => keeps (8 * n + j)).length = 4 ∧
        (∀ j < 8, (cmp48Byte .mask (vbyte (s.me.vSrc a)) f n).getLsbD j = keeps (8 * n + j)) ∧
        (∀ j < 8, got .zero (8 * n + j) = if keeps (8 * n + j) then el (8 * n + j) else 0) ∧
        ∀ i < 4, ∀ j, ((List.range 8).filter fun j => keeps (8 * n + j))[i]? = some j → got .pack (4 * n + i) = el (8 * n + j)) ∧
      (∀ n < 512, 512 / w ≤ n → cmp48Byte .mask (vbyte (s.me.vSrc a)) f n = 0#8) ∧
      ∀ n < 512, 256 ≤ n → cmp48Byte .pack (vbyte (s.me.vSrc a)) f n = 0#8) ∧
    (∀ n < 128, ∃ c : Nat → Nat × Nat × Nat × Nat,
      let lo (w : DWord) : Nat := w.toNat % 2 ^ 32
      let hi (w : DWord) : Nat := w.toNat / 2 ^ 32
      c 0 = ((lo s.me.dctrl + n / 4) % 2 ^ 32, hi s.me.dctrl, lo s.me.dctrh, hi s.me.dctrh) ∧
      (∀ r < 10,
        let k0 := (lo s.me.dkey + r * 0x9E3779B9) % 2 ^ 32
        let k1 := (hi s.me.dkey + r * 0xBB67AE85) % 2 ^ 32
        let p := 0xD2511F53 * (c r).1
        let q := 0xCD9E8D57 * (c r).2.2.1
        c (r + 1) = (q / 2 ^ 32 ^^^ (c r).2.1 ^^^ k0, q % 2 ^ 32, p / 2 ^ 32 ^^^ (c r).2.2.2 ^^^ k1, p % 2 ^ 32)) ∧
      (diceWord s.me.dkey s.me.dctrh s.me.dctrl n).toNat =
        match n % 4 with
        | 0 => (c 10).1
        | 1 => (c 10).2.1
        | 2 => (c 10).2.2.1
        | _ => (c 10).2.2.2) ∧
    (let idx := (s.me.dctrl.extractLsb' 32 16).toNat
     let drawn (i : Instr) (v : VReg) (t : State) : Prop :=
       exec i s = .next t ∧ (∀ n < 128, lane v n = diceWord s.me.dkey s.me.dctrh s.me.dctrl n)
     let first := fun v =>
       let t := s.land 10 (.v d v (s.me.mask g))
       if idx = 65535 then t.land 1 (.sticky dsatBit) else t
     (idx = 65535 → s.me.dsattrap = true → ∀ p, exec (.dice p d g) s = .next (s.failing .dicesat 0x00#8 0#64)) ∧
     (idx ≠ 65535 ∨ s.me.dsattrap = false → ∃ v, drawn (.dice false d g) v
       ((first v).land 1 (.sr .dctrl (if idx = 65535 then s.me.dctrl else s.me.dctrl + 0x100000000#64)))) ∧
     (idx ≠ 65535 ∨ s.me.dsattrap = false → ∃ v hi lo t, drawn (.dice true d g) v t ∧
       let p : BitVec 32 := s.me.dctrh.extractLsb' 0 16 ++ s.me.dctrl.extractLsb' 48 16
       (hi.extractLsb' 0 16 ++ lo.extractLsb' 48 16 : BitVec 32) = p + 1#32 ∧
       hi.extractLsb' 16 48 = s.me.dctrh.extractLsb' 16 48 ∧
       lo.extractLsb' 0 32 = s.me.dctrl.extractLsb' 0 32 ∧ lo.extractLsb' 32 16 = 0#16 ∧
       let u := ((first v).land 1 (.sr .dctrh hi)).land 1 (.sr .dctrl lo)
       t = if p = 0xFFFFFFFF#32 then u.land 1 (.sticky pwrapBit) else u))

/-- R202 to R204, R239, R240: VPOP takes the row whose gather was pushed first, and VPUSHD gives its row to the
first entry that awaits data. With none to take, they raise DQUNDERFLOW: detail 1 where no gather has been pushed, 3
where every one stands behind an entry that awaits data, and 2 for VPUSHD. VPOP whose gather is under way holds. (That
neither sees a push of its own packet is the model's choice: log 28.) -/
def Obligations.QueueTransfers : Prop :=
  ∀ (s : State) (d : Fin 32) (a : RK 32) (g : Guard),
    let age (seq : Word) : Nat := (s.me.aqSeq - seq).toNat
    (∀ (i : Fin 32) (seq : Word) (v : VReg), s.me.dq[i] = some ⟨seq, some v⟩ →
      (∀ q ∈ s.me.gathersOut, age q < age seq) →
      (∀ (j : Fin 32) (q : Word) (w : VReg), j ≠ i → s.me.dq[j] = some ⟨q, some w⟩ → age q < age seq) →
      ∃ t v', exec (.vpop d g) s = .next (t.land 2 (.v d v' (s.me.mask g))) ∧ (∀ n < 128, lane v' n = lane v n) ∧
        let u := s.setMe { s.me with dq := s.me.dq.set i none }
        (t = u ∨ t = u.due (.gatherEntryBegin s.focus.c))) ∧
    ((∀ i : Fin 32, s.me.dq[i] = none) → (∀ e ∈ s.me.aq, e.kind ≠ .gather) →
      exec (.vpop d g) s = .next (s.failing .dqunderflow 0x01#8 0#64)) ∧
    (s.me.poppable = [] →
      let before := s.me.aq.filter fun e => e.data.isSome || e.at_ != s.cycle
      (∃ e ∈ before, e.kind = .gather) →
      let stuck : Prop := ∀ (xs ys : List AqEntry) (e : AqEntry), before = xs ++ e :: ys → e.kind = .gather →
        ∃ x ∈ xs, x.kind ≠ .gather ∧ x.data = none
      (stuck → exec (.vpop d g) s = .next (s.failing .dqunderflow 0x03#8 0#64)) ∧
      (¬ stuck → exec (.vpop d g) s = .next (s.holdFor .pop))) ∧
    (∀ (before after : List AqEntry) (e : AqEntry), s.me.aq = before ++ e :: after →
      e.kind ≠ .gather → e.data = none → e.at_ ≠ s.cycle →
      (∀ x ∈ before, x.kind = .gather ∨ x.data.isSome = true) → (∀ x ∈ before ++ after, x.seq ≠ e.seq) →
      exec (.vpushd a g) s =
        .next ((s.setMe { s.me with aq := before ++ { e with
          data := some (s.me.vSrc a, s.me.mask g), at_ := s.cycle,
          after := e.after ++ s.fencesOf s.focus.c } :: after }).due (.gatherEntryBegin s.focus.c))) ∧
    ((∀ x ∈ s.me.aq, x.kind = .gather ∨ x.data.isSome = true) →
      exec (.vpushd a g) s = .next (s.failing .dqunderflow 0x02#8 0#64))

/-! ## The L slot and the scratchpad -/

/-- R132, R208, R214: an access's checks go in the order alignment, stack limit, window, whatever lanes fail;
FADDR is the lowest offset that fails, and for the window its lowest byte outside. An access that passes them
goes on with the bytes' places in the scratchpad. So every load and store of the L slot fails, at the offsets of its active
lanes, R214's stores alone by the stack limit; and XLDW of the X slot. -/
def Obligations.AccessChecksInOrder : Prop :=
  ∀ (s : State) (align n : Nat) (limit : Bool) (os : List Int) (k : List Nat → Out), 0 < n →
    let fails (align n : Nat) (limit : Bool) (os : List Int) (got : Out) (passes : Prop) : Prop :=
      let low (bad : Int → Prop) (o : Int) : Prop := o ∈ os ∧ bad o ∧ ∀ x ∈ os, bad x → o ≤ x
      let askew (o : Int) : Prop := o % align ≠ 0
      let below (o : Int) : Prop := limit = true ∧ o < s.me.splim.toNat
      let out (o : Int) : Prop := o < 0 ∨ (s.me.spsize.toNat : Int) < o + n
      (∀ o, low askew o → got = .next (s.failing .align 0x00#8 (BitVec.ofInt 64 o))) ∧
      ((∀ o ∈ os, ¬ askew o) →
        (∀ o, low below o → got = .next (s.failing .stacklimit 0x00#8 (BitVec.ofInt 64 o))) ∧
        ((∀ o ∈ os, ¬ below o) →
          (∀ o, low out o → got = .next (s.failing .spadrange 0x00#8
            (BitVec.ofInt 64 (if o < 0 then o else max o s.me.spsize.toNat)))) ∧
          ((∀ o ∈ os, ¬ out o) → passes)))
    fails align n limit os (s.withSpad align n limit os k)
      (s.withSpad align n limit os k = k (os.map fun o => s.me.windowBase + o.toNat)) ∧
    ∀ (v d : Fin 32) (x b : Fin 16) (r : Fin 8) (a : RK 16) (c : RK 32) (ma : Bool) (off : BitVec 19) (imm : BitVec 20)
      (g : Guard),
      let o : Int := (s.me.aSrc a + BitVec.ofInt 32 (4 * off.toInt)).toInt
      let on := (List.range 128).filter (s.me.active g)
      let strided := on.map fun l => (s.me.aSrc a + BitVec.ofNat 32 (l * s.me.a[b].toNat)).toInt
      let stack : Bool := decide (a = .r 14) || decide (a = .r 15)
      let each (i : Instr) (n : Nat) (limit : Bool) (os : List Int) : Prop := fails n n limit os (exec i s) True
      each (.ldv d a ma off g) 4 false (on.map fun (l : Nat) => o + 4 * (l : Int)) ∧
      each (.ldvh d a ma off g) 2 false (on.map fun (l : Nat) => o + 2 * (l : Int)) ∧
      each (.ldve d a ma off g) 4 false (on.map fun _ => o) ∧ each (.ldvs d a b ma g) 4 false strided ∧
      each (.stv v a ma off g) 4 stack (on.map fun (l : Nat) => o + 4 * (l : Int)) ∧
      each (.stvh v a ma off g) 2 stack (on.map fun (l : Nat) => o + 2 * (l : Int)) ∧ each (.stvs v a b ma g) 4 stack strided ∧
      each (.xldw d c imm) 4 false [(s.me.xSrc c + BitVec.ofInt 32 (4 * imm.toInt)).toInt] ∧
      (s.me.active g 0 = true →
        each (.lda x a ma off g) 4 false [o] ∧ each (.ldb r a ma off g) 8 false [o] ∧
          each (.sta x a ma off g) 4 stack [o] ∧ each (.stb r a ma off g) 8 stack [o])

/-- R209, R210, R215: a load of v registers whose active lanes pass the checks takes each active lane's element
after 6 cycles (the effect on a lane that the packet's V operation writes too is `landLoad`'s: the load's value
stays, and WAW is set). -/
def Obligations.ScratchpadLoads : Prop :=
  ∀ (s : State) (d : Fin 32) (a : RK 16) (b : Fin 16) (ma : Bool) (off : BitVec 19) (g : Guard),
    let base := s.me.aSrc a
    let o0 : Int := (base + BitVec.ofInt 32 (4 * off.toInt)).toInt
    let on := (List.range 128).filter (s.me.active g)
    let loads (i : Instr) (n : Nat) (o : Nat → Int) : Prop :=
      s.windowOk n n false (on.map o) = true → s.soundAt n (on.map o) = true → s.unpended ma n (on.map o) →
        s.banksIdle = true →
        ∃ v, exec i s = .next (s.landLoad d v (s.me.mask g)) ∧
          ∀ l < 128, s.me.active g l = true → lane v l = BitVec.ofNat 32 (s.windowNum (o l).toNat n)
    loads (.ldv d a ma off g) 4 (fun l => o0 + 4 * l) ∧
    loads (.ldvh d a ma off g) 2 (fun l => o0 + 2 * l) ∧
    loads (.ldve d a ma off g) 4 (fun _ => o0) ∧
    loads (.ldvs d a b ma g) 4 (fun l => (base + BitVec.ofNat 32 (l * s.me.a[b].toNat)).toInt) ∧
    ∀ (w : VReg) (mask : Pred),
      (s.me.vWrites d &&& mask = 0#128 → s.landLoad d w mask = s.land 6 (.v d w mask)) ∧
      (s.me.vWrites d &&& mask ≠ 0#128 → ∃ t, s.landLoad d w mask = t.land 6 (.v d w mask) ∧
        t = (s.setMe (s.me.loseLanes d (s.me.vWrites d &&& mask))).land 6 (.sticky wawBit))

/-- R209, R211: the loads of one word act if lane 0 is active, and give a register after 6 cycles; LDB leaves
its b register prepared with the target of the 8 bytes. One that does not act changes no register, and counts as in
flight for the scoreboard all the same (R93). R212: address arithmetic acts if lane 0 is active, and
lands after 1 cycle. -/
def Obligations.AddressRegisterResults : Prop :=
  (∀ (s : State) (d : Fin 16) (b : Fin 8) (a : RK 16) (ma : Bool) (off : BitVec 19) (g : Guard),
     let o : Int := (s.me.aSrc a + BitVec.ofInt 32 (4 * off.toInt)).toInt
     let passes (n : Nat) : Prop := s.windowOk n n false [o] = true ∧ s.soundAt n [o] = true ∧
       s.unpended ma n [o] ∧ s.banksIdle = true
     (s.me.active g 0 = false →
       exec (.lda d a ma off g) s = .next (s.land 6 (.keepA d)) ∧ exec (.ldb b a ma off g) s = .next (s.land 6 (.keepB b)) ∧
       (s.me.landings = [] → ∀ n, (s.later 6 (.keepA d) n).a = s.me.a ∧ (s.later 6 (.keepB b) n).b = s.me.b ∧
         (s.me.sameFiles (s.later 6 (.keepA d) n)) ∧ s.me.sameFiles (s.later 6 (.keepB b) n)) ∧
       (s.land 6 (.keepA d)).me.inFlight (.a d) = true ∧ (s.land 6 (.keepB b)).me.inFlight (.b b) = true) ∧
     (s.me.active g 0 = true → passes 4 →
       exec (.lda d a ma off g) s = .next (s.land 6 (.a d (BitVec.ofNat 32 (s.windowNum o.toNat 4))))) ∧
     (s.me.active g 0 = true → passes 8 →
       exec (.ldb b a ma off g) s =
         .next (s.land 6 (.b b (BitVec.ofNat 43 (s.windowNum o.toNat 8 / 2 ^ 5)))))) ∧
  (∀ (s : State) (d b : Fin 16) (a : RK 16) (imm : BitVec 20) (li : BitVec 29) (g : Guard),
     let x := s.me.aSrc a
     (s.me.active g 0 = true →
       exec (.aadd d a b g) s = .next (s.land 1 (.a d (BitVec.ofNat 32 (x.toNat + s.me.a[b].toNat)))) ∧
       exec (.aaddi d a imm g) s = .next (s.land 1 (.a d (BitVec.ofInt 32 (x.toInt + imm.toInt))))) ∧
     (s.me.active g 0 = false → exec (.aadd d a b g) s = .next s ∧ exec (.aaddi d a imm g) s = .next s) ∧
     exec (.ali d li) s = .next (s.land 1 (.a d (BitVec.ofInt 32 li.toInt))))

/-- R135, R209 to R211: a store that passes its checks leaves the bytes of its active lanes, at the places that its
address operands give, for the end of the packet's issue; nothing else changes. R135: when a packet's stores perform,
the memories being in the form that every step keeps (EveryStepKeepsMemories), each byte of each scratchpad is the
last of them there, in position and lane order, or what it was; no register file, no canopy and no byte of device
memory changes. -/
def Obligations.ScratchpadStores : Prop :=
  (∀ (s : State) (v : Fin 32) (x b : Fin 16) (r : Fin 8) (a : RK 16) (ma : Bool) (off : BitVec 19) (g : Guard),
     let base := s.me.aSrc a
     let o0 : Int := (base + BitVec.ofInt 32 (4 * off.toInt)).toInt
     let limit : Bool := decide (a = .r 14) || decide (a = .r 15)
     let on := (List.range 128).filter (s.me.active g)
     let stores (i : Instr) (n : Nat) (o : Nat → Int) : Prop :=
       s.windowOk n n limit (on.map o) = true → s.banksIdle = true →
         exec i s = .next (s.storing (s.stored n on o fun l => (lane s.me.v[v] l).toNat))
     let one (i : Instr) (n w : Nat) : Prop :=
       (s.me.active g 0 = false → exec i s = .next s) ∧
       (s.me.active g 0 = true → s.windowOk n n limit [o0] = true → s.banksIdle = true →
         exec i s = .next (s.storing (s.stored n [0] (fun _ => o0) fun _ => w)))
     stores (.stv v a ma off g) 4 (fun l => o0 + 4 * l) ∧
     stores (.stvh v a ma off g) 2 (fun l => o0 + 2 * l) ∧
     stores (.stvs v a b ma g) 4 (fun l => (base + BitVec.ofNat 32 (l * s.me.a[b].toNat)).toInt) ∧
     one (.sta x a ma off g) 4 s.me.a[x].toNat ∧
     one (.stb r a ma off g) 8 (s.me.b[r].target.toNat * 32 + s.me.b[r].prepared.toNat)) ∧
  (∀ (s : State), s.memoriesWf →
     (∀ (c : Fin 64) (a : Nat), (s.performStores.core c).spad.get a = s.spadAfter c a) ∧
     (∀ r : CtxRef, s.performStores.ctx r = s.ctx r) ∧
     (∀ (c : Fin 64) (a : Nat), (s.performStores.core c).canopy.get a = (s.core c).canopy.get a) ∧
     s.performStores.dram = s.dram ∧ s.performStores.focus.stores = [])

/-! ## The M and C slots -/

/-- R249, R256, R257: matrix descriptors and scale registers. -/
def Obligations.DescriptorsAndScales : Prop :=
  ∀ (s : State) (d : Fin 16) (e : Fin 8) (a : RK 16) (base : Option (Fin 16)) (imm : BitVec 20) (aux e8 : Bool)
    (li : BitVec 29),
    let x := s.me.mSrc a
    let o : Int := ((match base with | some k => s.me.k[k].extractLsb' 0 32 | none => 0#32) +
      BitVec.ofInt 32 (4 * imm.toInt)).toInt
    let n := if e8 then 1 else 4
    let field (lo w : Nat) (y : DWord) : Prop :=
      (∀ i < 64, i < lo ∨ lo + w ≤ i → y.getLsbD i = x.getLsbD i)
    exec (.mset false d a) s = .next (s.land 1 (.m d x)) ∧
    (∃ t, exec (.mset true d a) s = .next t ∧ t.me = (s.land 1 (.m d x)).me ∧ s.sameMemory t) ∧
    (∃ y, exec (.madd aux d a imm) s = .next (s.land 1 (.m d y)) ∧
      (x.extractLsb' 62 2 = 0#2 → aux = false → field 0 21 y ∧
        y.extractLsb' 0 21 = x.extractLsb' 0 21 + BitVec.ofInt 21 (32 * imm.toInt)) ∧
      (x.extractLsb' 62 2 = 0#2 → aux = true → field 44 7 y ∧
        y.extractLsb' 44 7 = x.extractLsb' 44 7 + BitVec.ofInt 7 imm.toInt) ∧
      (x.extractLsb' 62 2 = 1#2 → aux = false → field 0 10 y ∧
        y.extractLsb' 0 10 = x.extractLsb' 0 10 + BitVec.ofInt 10 imm.toInt) ∧
      (x.extractLsb' 62 2 = 1#2 → aux = true → field 12 48 y ∧
        y.extractLsb' 12 48 = x.extractLsb' 12 48 + BitVec.ofInt 48 (32 * imm.toInt)) ∧
      (x.getLsbD 63 = true → y = x)) ∧
    exec (.scli e li) s = .next (s.land 1 (.sb e (BitVec.ofNat 32 (li.toNat * 8)))) ∧
    (s.banksIdle = true → s.windowOk n n false [o] = true → s.soundAt n [o] = true →
      exec (.sclb e8 e base imm) s = .next (s.land 6 (.sb e (BitVec.ofNat 32 (s.windowNum o.toNat n))))) ∧
    (s.banksIdle = true → s.windowOk n (128 * n) false [o] = true → s.soundAt (128 * n) [o] = true →
      ∃ v, exec (.scla e8 e base imm) s = .next (s.land 6 (.sa e v)) ∧
        ∀ l < 128, lane v l = BitVec.ofNat 32 (s.windowNum (o.toNat + n * l) n))

/-- R138, R139, R262: AZERO zeroes the slot of a handle after 1 cycle, and takes the lowest free slot for a
handle that has none (which of the free slots is the model's choice: log 45); AREL gives the slot back at once. A handle
beyond those that the task reserves raises ACCRANGE. R263, R264: ACPY leaves a tile's rows, converted and packed, for the end of the packet's issue; ALD
brings a tile's rows from the window after 8 cycles. -/
def Obligations.TilesAndHandles : Prop :=
  (∀ (s : State) (h : Fin 16),
     let n := ((s.me.task.map fun t => t.h).getD 0)
     let held := (s.me.acc.toList.filter (·.isSome)).length
     let bad := Host.Outcome.next (s.failing .accrange 0x00#8 (BitVec.ofNat 64 h.val))
     (n ≤ h.val → exec (.azero h) s = bad ∧ exec (.arel h) s = bad) ∧
     (h.val < n →
       (∀ slot, s.me.acc[h] = some slot →
         exec (.azero h) s = .next (s.land 1 (.zeroTile slot)) ∧
         ∃ t, exec (.arel h) s = .next t ∧ t.me.acc = s.me.acc.set h none ∧ t.mine.slotTaken[slot] = false ∧
           (∀ row < 128, tileRow t.mine.tiles slot row = splat 0#32) ∧
           (∀ j : Fin 8, j ≠ slot → ∀ row < 128, tileRow t.mine.tiles j row = tileRow s.mine.tiles j row)) ∧
       (s.me.acc[h] = none → exec (.arel h) s = .next s) ∧
       (s.me.acc[h] = none → min n 8 ≤ held → exec (.azero h) s = bad) ∧
       (s.me.acc[h] = none → held < min n 8 →
         ∀ slot : Fin 8, s.mine.slotTaken[slot] = false → (∀ j < slot, s.mine.slotTaken[j] = true) →
         ∃ t : State, exec (.azero h) s = .next (t.land 1 (.zeroTile slot)) ∧ t.me = { s.me with acc := s.me.acc.set h (some slot) } ∧
           t.mine.slotTaken = s.mine.slotTaken.set slot true ∧
           (∀ row < 128, tileRow t.mine.tiles slot row = splat 0#32) ∧
           (∀ j : Fin 8, j ≠ slot → ∀ row < 128, tileRow t.mine.tiles j row = tileRow s.mine.tiles j row)))) ∧
  (∀ (s : State) (h : Fin 16) (a : RK 16) (f : Fmt) (rm : RM) (sat i : Bool) (r : RowDesc) (slot : Fin 8),
     tileDesc (s.me.mSrc a) = some r → s.me.acc[h] = some slot → h.val < (s.me.task.map fun t => t.h).getD 0 →
     let w := fmtWidth f
     let os := (List.range r.n).map fun n => ((r.base + n * r.stride : Nat) : Int)
     r.base % 32 = 0 → r.stride % 32 = 0 → s.windowOk 1 (16 * w) false os = true → s.banksIdle = true →
     (∃ cells, exec (.acpy rm sat i h a f) s = .next (s.storing cells) ∧
       cells.map (fun x => (x.1, x.2.1)) = (List.range r.n).flatMap (fun n => (List.range (16 * w)).map fun b =>
         (s.focus.c.core, s.me.windowBase + r.base + n * r.stride + b)) ∧
       ∀ n < r.n, ∀ j < 128, elemAt (fun b => (cells.map fun x => x.2.2).getD (16 * w * n + b) 0#8) w j =
         acpyElem rm sat i f (lane (tileRow s.mine.tiles slot (r.row0 + n)) j) % 2 ^ w) ∧
     (s.soundAt (16 * w) os = true →
       ∃ t : State, exec (.ald h a f) s = .next t ∧ s.sameMemory t ∧ t.me = { s.me with landings := t.me.landings } ∧
         ∃ rows : List VReg, rows.length = r.n ∧
           t.me.landings = s.me.landings ++ rows.zipIdx.map (fun x =>
             ⟨s.me.clock + 8, s.me.clock, s.focus.pos, .aldRow slot (Fin.ofNat 128 (r.row0 + x.2)) x.1⟩) ∧
           ∀ n < r.n, ∀ j < 128, lane (rows.getD n (splat 0#32)) j =
             (let e := s.windowElem (r.base + n * r.stride) w j
              if f = .bf16 ∨ f = .fp16 then round32 (fval f e) else BitVec.ofNat 32 e)))

/-- R250 to R255, R267: an MMA or MMAS whose descriptors, window, frames, side array and stream pass begins a
stream of partial sums, with the times of R252, and changes nothing else. Integer sums are modulo 2^32. R119, R120: a float
partial sum is the exact sum of the products, the groups of 32 by their sub-scales, rounded once, with the cases of NaNs and
infinities (an exact zero sum is +0, the model's choice: log 43). R254: the A element that a kept element meets. -/
def Obligations.MatrixStreams : Prop :=
  (∀ (t : Nat → FVal × FVal) (scale : Nat → Nat) (k : Nat),
    let one (i : Nat) : Word := round32 (dotF t i).val
    let nan (i : Nat) : Prop := (t i).1.isNan = true ∨ (t i).2.isNan = true ∨
      (t i).1.isInf = true ∧ (t i).2.isZero = true ∨ (t i).1.isZero = true ∧ (t i).2.isInf = true
    let inf (i : Nat) (neg : Bool) : Prop := ¬ nan i ∧ ((t i).1.isInf = true ∨ (t i).2.isInf = true) ∧
      neg = ((t i).1.neg != (t i).2.neg)
    ((∃ i < k, nan i) ∨ (∃ i < k, ∃ j < k, inf i true ∧ inf j false) → one k = nan32) ∧
    (∀ neg, (∃ i < k, inf i neg) → (∀ i < k, ¬ nan i ∧ ¬ inf i (!neg)) →
      one k = if neg then 0xFF800000#32 else 0x7F800000#32) ∧
    (∀ (n : Nat → Bool) (m : Nat → Nat) (e : Nat → Int) (n' : Nat → Bool) (m' : Nat → Nat) (e' : Nat → Int) (lo : Int),
      (∀ i < k, t i = (.fin (n i) (m i) (e i), .fin (n' i) (m' i) (e' i)) ∧ lo ≤ e i + e' i) →
      let term (i : Nat) (x : Int) : Int := (if n i = n' i then 1 else -1) * (m i * m' i * 2 ^ (x - lo).toNat : Nat)
      let rounded (v : Int) : Word := round32 (.fin (decide (v < 0)) v.natAbs lo)
      one k = rounded ((List.range k).map fun i => term i (e i + e' i)).sum ∧
      (k % 32 = 0 → (∀ g < k / 32, scale g ≠ 255 ∧ ∀ i < k, i / 32 = g → lo ≤ e i + e' i + scale g - 127) →
        psumMx t scale k = rounded ((List.range k).map fun i => term i (e i + e' i + scale (i / 32) - 127)).sum)) ∧
    ((∃ g < k / 32, scale g = 255) ∨ k % 32 = 0 ∧ (∃ i < k, nan i) → psumMx t scale k = nan32)) ∧
  (∀ (side : List Byte) (j n : Nat),
    let mask := side.getD (32 * j + n / 4) 0#8
    ((List.range 8).filter mask.getLsbD).length = 4 →
    ∃ p < 8, sparseIndex side j n = 8 * (n / 4) + p ∧ mask.getLsbD p = true ∧
      ((List.range p).filter mask.getLsbD).length = n % 4) ∧
  ∀ (s : State) (mx : Bool) (mA mB : Fin 16) (fa fb : Fmt) (a : RowDesc) (b : BlockDesc),
    rowDesc s.me.m[mA] = some a → blockDesc s.me.m[mB] = some b → s.banksIdle = true →
    s.mine.canopyIn.all (·.isEmpty) = true → a.base % 32 = 0 → a.stride % 32 = 0 →
    let passes (rowBytes blockBytes f lb dw sectors : Nat) (side : Bool) : Prop :=
      (side = true → b.side % 32 = 0 ∧ s.sideCached b.side sectors) ∧
      s.me.streamFits a.n lb dw = true ∧
      s.blockFrame b ((blockBytes + 16383) / 16384) = some f ∧
      (let os := (List.range a.n).map fun n => ((a.base + n * a.stride : Nat) : Int)
       s.windowOk 1 rowBytes false os = true ∧ s.soundAt rowBytes os = true) ∧
      s.isBad (.canopy s.focus.c.core) (f * 16384) blockBytes = false
    let begins (i : Instr) (lb dw : Nat) (el : Nat → Nat → Word) : Prop :=
      ∃ y : Stream, exec i s = .next (s.setMe (s.me.addStream y)) ∧ y.issued = s.me.clock ∧
        y.free = s.me.clock + max a.n lb ∧ y.port = s.me.clock + 20 + dw + (if 8 < lb then lb - 8 else 0) ∧ y.taken = false ∧
        y.ints = (intSpec fa).isSome ∧ y.rows.length = a.n ∧
        ∀ i < a.n, ∀ j < 128, lane (y.rows.getD i (splat 0#32)) j = el i j
    (let k := (kBlock fa fb).1
     let dw := (kBlock fa fb).2
     let cb := k * fmtWidth fb / 8
     let lb := (cb + 15) / 16
     let side := s.sideBytes b.side (128 * (k / 32) / 32)
     ∀ f, passes (k * fmtWidth fa / 8) (128 * cb) f lb dw (128 * (k / 32) / 32) mx →
       begins (.mma mx mA mB fa fb) lb dw fun i j =>
         let x (e : Nat) : FVal := fval fa (s.windowElem (a.base + i * a.stride) (fmtWidth fa) e)
         let y (e : Nat) : FVal := fval fb (s.canopyElem (f * 16384 + j * cb) (fmtWidth fb) e)
         if mx then psumMx (fun e => (x e, y e)) (fun g => (side.getD (j * (k / 32) + g) 0#8).toNat) k
         else if (intSpec fa).isSome then
           BitVec.ofInt 32 ((List.range k).map fun e => intOf (x e) * intOf (y e)).sum
         else round32 (dotF (fun e => (x e, y e)) k).val) ∧
    (let side := s.sideBytes b.side 128
     ∀ f, passes 256 16384 f 8 0 128 true → (∀ i < 4096, (maskPlaces (side.getD i 0#8)).length = 4) →
       begins (.mmas mA mB fa fb) 8 0 fun i j =>
         let x (e : Nat) : FVal := fval fa (s.windowElem (a.base + i * a.stride) 8 (sparseIndex side j e))
         let y (e : Nat) : FVal := fval fb (s.canopyElem (f * 16384 + j * 128) 8 e)
         if (intSpec fa).isSome then
           BitVec.ofInt 32 ((List.range 128).map fun e => intOf (x e) * intOf (y e)).sum
         else round32 (dotF (fun e => (x e, y e)) 128).val)

/-- R122 to R124, R258 to R260: a promote at the cycle on which a stream reaches the port takes it, and adds
(PROMZ writes) its rows, scaled, to the rows of its slot, row i after 7 + i cycles. The scale of PROM and PROMZ is the
product of the two scales, rounded; PROMX multiplies by the power of two of its two codes; NEG negates the partial sums,
exactly (and so gives -0 in rows past the stream's N, the model's choice: log 27). A handle without a slot takes a free one,
of zeros (which one is the model's choice: log 45), and one that may not raises ACCRANGE. PROMI saturates its sum, and sets
ISAT where it does. -/
def Obligations.PromotedRows : Prop :=
  ∀ (s : State) (h : Fin 16) (sa sb : Fin 8) (neg : Bool) (rows : BitVec 7) (slot : Fin 8) (st : Stream),
    let most := (s.me.task.map fun t => t.h).getD 0
    let held := (s.me.acc.toList.filter fun x => x.isSome).length
    let promotes (i : Instr) (ints : Bool) (kind : PromKind) (x : VReg) (y : Word) : Prop :=
      s.me.streamNow ints = some st →
        let lands (t : State) (acc : Vector (Option (Fin 8)) 16) : Prop :=
          exec i s = .next t ∧ s.sameMemory t ∧
            t.me = { s.me with acc := acc, landings := t.me.landings, streams := t.me.streams } ∧
            t.me.streams = s.me.streams.map (fun z => if z.port = st.port then { z with taken := true } else z) ∧
            t.me.landings = s.me.landings ++ (List.range (rows.toNat + 1)).map (fun n =>
              ⟨s.me.clock + (7 + n), s.me.clock, s.focus.pos,
                .promRow slot (Fin.ofNat 128 n) kind (promPsum st kind neg n) (splat (scaleWord kind x y n))⟩)
        (s.me.acc[h] = some slot → h.val < most →
          ∃ t, lands t s.me.acc ∧ t.mine.slotTaken = s.mine.slotTaken ∧ t.mine.tiles = s.mine.tiles) ∧
        (s.me.acc[h] = none → h.val < most → held < min most 8 → s.mine.slotTaken[slot] = false →
          (∀ i : Fin 8, i < slot → s.mine.slotTaken[i] = true) →
          ∃ t, lands t (s.me.acc.set h (some slot)) ∧ t.mine.slotTaken = s.mine.slotTaken.set slot true ∧
            (∀ n : Fin 128, tileRow t.mine.tiles slot n = splat 0#32) ∧
            ∀ (z : Fin 8) (n : Fin 128), z ≠ slot → tileRow t.mine.tiles z n = tileRow s.mine.tiles z n) ∧
        (most ≤ h.val ∨ s.me.acc[h] = none ∧ min most 8 ≤ held →
          exec i s = .next (s.failing .accrange 0x00#8 (BitVec.ofNat 64 h.val)))
    let scaled (kind : PromKind) (acc p sc : Word) : Word := (promElem kind acc p sc).1
    promotes (.prom neg h sa sb rows) false .prom s.me.sa[sa] s.me.sb[sb] ∧
    promotes (.promz neg h sa sb rows) false .promz s.me.sa[sa] s.me.sb[sb] ∧
    promotes (.promx neg h sa sb rows) false .promx s.me.sa[sa] s.me.sb[sb] ∧
    promotes (.promi neg h rows) true (if neg then .promiNeg else .promi) (splat 0#32) 0#32 ∧
    (s.me.streamNow false = none →
      exec (.prom neg h sa sb rows) s = .next (s.failing .illegal 0x18#8 (pcAddr s.me.pc))) ∧
    (∀ acc p sc, scaled .prom acc p sc = add32 acc (mul32 p sc) ∧ scaled .promz acc p sc = mul32 p sc ∧
      scaled .promi acc p sc =
        BitVec.ofInt 32 (max (-2147483648) (min 2147483647 (acc.toInt + p.toInt))) ∧
      scaled .promiNeg acc p sc =
        BitVec.ofInt 32 (max (-2147483648) (min 2147483647 (acc.toInt - p.toInt)))) ∧
    (∀ (x : VReg) (y acc p : Word) (n : Nat),
      let a := (lane x n).toNat % 256
      let b := y.toNat % 256
      (∀ kind ∈ [PromKind.prom, .promz], scaleWord kind x y n = mul32 (lane x n) y) ∧
      (a = 255 ∨ b = 255 →
        scaled .promx acc p (scaleWord .promx x y n) = add32 acc 0x7FC00000#32) ∧
      (a ≠ 255 → b ≠ 255 → ∀ neg m e, f32 p = .fin neg m e →
        scaled .promx acc p (scaleWord .promx x y n) =
          add32 acc (to32 .rne (.fin neg m (e + (a : Int) + (b : Int) - 254))).1) ∧
      (a ≠ 255 → b ≠ 255 → ∀ neg, f32 p = .inf neg → scaled .promx acc p (scaleWord .promx x y n) = add32 acc p) ∧
      (a ≠ 255 → b ≠ 255 → isNan32 p = true →
        scaled .promx acc p (scaleWord .promx x y n) = add32 acc 0x7FC00000#32)) ∧
    (∀ (kind : PromKind) (n j : Nat), j < 128 →
      let p := if n < st.rows.length then lane (st.rows.getD n (splat 0#32)) j else 0#32
      lane (promPsum st kind neg n) j =
        if neg = true ∧ kind ∈ [PromKind.prom, .promz, .promx] then p ^^^ 0x80000000#32 else p) ∧
    ∀ (k pre : Core) (i : Fin 8) (cyc : Nat) (row : Fin 128) (kind : PromKind) (p sc : VReg),
      risingNat k.tiles = true →
      let k' := k.apply pre i cyc (.promRow slot row kind p sc)
      (∀ j < 128, lane (tileRow k'.tiles slot row) j =
        scaled kind (lane (tileRow pre.tiles slot row) j) (lane p j) (lane sc j)) ∧
      (let sum (j : Nat) : Int :=
         let old := (lane (tileRow pre.tiles slot row) j).toInt
         if kind = .promi then old + (lane p j).toInt else old - (lane p j).toInt
       let saturates := kind ∈ [PromKind.promi, .promiNeg] ∧ ∃ j < 128, sum j < -2147483648 ∨ 2147483647 < sum j
       (saturates → k'.ctxs = (k.setCtx i { k.ctxs[i] with sticky := k.ctxs[i].sticky ||| 0x010#10 }).ctxs) ∧
         (¬ saturates → k'.ctxs = k.ctxs)) ∧
      ∀ (z : Fin 8) (n : Fin 128), (z, n) ≠ (slot, row) → tileRow k'.tiles z n = tileRow k.tiles z n

/-! ## The Q slot: issue -/

/-- R91, R149, R269: an operation that posts a request leaves one at the end of those under way, with its
operands, its task, gambit and cycle; its g registers are pending until its results land; the event that
performs it is due; and nothing else changes. -/
def Obligations.PostedRequests : Prop :=
  ∀ (s : State) (kind : ReqKind) (d : Fin 16) (d2 : Option (Fin 16)) (acq rel : Bool) (e : Nat → Instr),
    let t := s.post kind (some d) d2 acq rel e
    (∃ r : Req, t.reqs = s.reqs ++ [r] ∧ r.id = s.nextId ∧ r.c = s.focus.c ∧ r.task = s.me.task ∧ r.kind = kind ∧
      r.d = some d ∧ r.d2 = d2 ∧ r.acq = acq ∧ r.rel = rel ∧ r.gid = s.me.gid ∧ r.cycle = s.cycle ∧
      r.state = .waiting ∧ r.orphaned = false ∧ r.voided = false ∧ r.ui = s.me.uiact) ∧
    t.agenda = s.agenda ++ [e s.nextId] ∧ t.nextId = s.nextId + 1 ∧
    (∀ i : Fin 16, t.me.gPending[i] = (decide (i = d) || decide (d2 = some i) || s.me.gPending[i])) ∧
    t.me = { s.me with gPending := t.me.gPending } ∧ (∀ r, r ≠ s.focus.c → t.ctx r = s.ctx r) ∧ s.sameMemory t

/-- R269 to R271, R406: GLD and GST, once their g registers are free: a misaligned address raises ALIGN, a page
that does not allow the access PROTECTION, a page in neither TLB holds the core for a walk, and any other
address posts the access. -/
def Obligations.LoadsAndStoresIssue : Prop :=
  ∀ (s : State) (sx : Bool) (sz : Fin 4) (d : Fin 16) (a : RK 16) (imm : BitVec 20),
    let n := 2 ^ sz.val
    let va := ((((s.me.gSrc a).toNat % 2 ^ 48 : Nat) + imm.toInt) % 2 ^ 48).toNat
    let both (p : Instr → Access → Prop) : Prop := p (.gld sx sz d a imm) .read ∧
      (s.oddKeyWrite va n = false → p (.gst sz d a imm) .write)
    s.gFree (d :: RK.gReg a) = true →
    (va % n ≠ 0 → both fun i _ => exec i s = .next (s.failing .align 0x00#8 (BitVec.ofNat 64 va))) ∧
    (va % n = 0 →
      (∀ pa, s.pageFor va n .read .load = some pa →
        exec (.gld sx sz d a imm) s =
          .next (s.post (.load va pa n sx) (some d) none false false .gResultLand)) ∧
      (∀ pa, s.oddKeyWrite va n = false → s.pageFor va n .write .store = some pa →
        exec (.gst sz d a imm) s =
          .next (s.post (.store va pa n s.me.g[d]) none none false false
            (if s.me.gid = 0#8 then .storePerform else .taggedWriteAtHome))) ∧
      (s.inPipe va n = false →
        (∀ e, s.tlbLookup s.focus.c.core va = some e → both fun i x => e.allows x = false →
          exec i s = .next (s.failing .protection 0x01#8 (BitVec.ofNat 64 va))) ∧
        (s.tlbLookup s.focus.c.core va = none → both fun i x => ∃ t, exec i s = .next t ∧
          t.me.run = .held (.walk s.nextId) ∧ t.agenda = s.agenda ++ [.walkComplete s.nextId] ∧
          (∃ w : Walk, t.walks = s.walks ++ [w] ∧ w.id = s.nextId ∧ w.va = va ∧ w.access = x) ∧ s.sameMemory t)))

/-- R154 to R156, R272, R274: the atomics, once their g registers are free and their pages found: each posts its
access with both results' registers, and one with .acq empties the metadata cache. -/
def Obligations.AtomicsIssue : Prop :=
  ∀ (s : State) (x : AtArgs) (c : Fin 16) (acq rel : Bool) (dp ep np : Fin 8) (d : Fin 16) (a : RK 16) (b : Fin 16),
    let va := (s.me.gSrc x.a).toNat % 2 ^ 48
    let n := if x.w then 4 else 8
    let posted (op : AtOp) (cmp : DWord) (pa : Nat) : Out :=
      .next ((s.post (.atomic op va pa x.w x.t s.me.g[x.b] cmp) (some x.d) none x.acq x.rel .atomicPerform).modCore
        s.focus.c.core fun k => if x.acq then k.dropMeta else k)
    let lo (i : Fin 8) : Fin 16 := Fin.ofNat 16 (2 * i.val)
    let hi (i : Fin 8) : Fin 16 := Fin.ofNat 16 (2 * i.val + 1)
    let va1 := (s.me.gSrc a).toNat % 2 ^ 48
    let va2 := (s.me.g[b]).toNat % 2 ^ 48
    (s.gFree (x.d :: x.b :: RK.gReg x.a) = true → va % n = 0 →
      ∀ pa, s.pageFor va n .readWrite .atomic = some pa →
        exec (.atadd x) s = posted .add 0#64 pa ∧ exec (.atmin x) s = posted .min 0#64 pa ∧
        exec (.atmax x) s = posted .max 0#64 pa ∧ exec (.atand x) s = posted .and 0#64 pa ∧
        exec (.ator x) s = posted .or 0#64 pa ∧ exec (.atxch x) s = posted .xch 0#64 pa ∧
        (s.gFree [c] = true → exec (.atcas x c) s = posted .cas s.me.g[c] pa)) ∧
    (s.gFree (x.d :: x.b :: RK.gReg x.a) = true → va % n ≠ 0 →
      exec (.atadd x) s = .next (s.failing .align 0x00#8 (BitVec.ofNat 64 va))) ∧
    (∀ pa pb, va1 % 8 = 0 → va2 % 8 = 0 → s.pageFor va1 8 .readWrite .atomic = some pa →
      s.pageFor va2 8 .readWrite .atomic = some pb →
      (s.gFree ([lo dp, hi dp, b, lo ep, hi ep, lo np, hi np] ++ RK.gReg a) = true →
        exec (.dcas acq rel dp a b ep np) s =
          .next ((s.post (.dcas va1 pa va2 pb s.me.g[lo ep] s.me.g[hi ep] s.me.g[lo np] s.me.g[hi np])
            (some (lo dp)) (some (hi dp)) acq rel .dcasPerform).modCore s.focus.c.core fun k =>
              if acq then k.dropMeta else k)) ∧
      (s.gFree ([d, b, c] ++ RK.gReg a) = true →
        exec (.amov acq rel d a b c) s =
          .next ((s.post (.amov va1 pa va2 pb s.me.g[c]) (some d) none acq rel .dcasPerform).modCore s.focus.c.core fun k =>
              if acq then k.dropMeta else k)))

/-- R275 to R278, R281, R282: DRAIN, the task-counter operations, QFENCE and QPOLL, once their g registers are
free. TDEC sends its decrement and faults on an operand with reserved bits; TARM sets its task's arm value at once, which
the cores of a decoupled set share. -/
def Obligations.DrainsAndCounters : Prop :=
  ∀ (s : State) (scope : Scope) (d b : Fin 16) (a : RK 16) (rel acq : Bool) (amt : DecAmt) (imm : BitVec 20)
    (mask : BitVec 4),
    let w := s.me.gSrc a
    (s.gFree [d] = true →
      (∃ t, exec (.drain scope d) s = .next t ∧
        t = (s.post (.drain scope) (some d) none false false .drainComplete).modCore s.focus.c.core fun k =>
          if scope = .camp ∨ scope = .dev ∨ scope = .sys then { k with metaCache := [] } else k) ∧
      exec (.qfence d mask) s = .next
        (s.post (.qfence mask ((s.mine.allElems.filter fun x => mask.getLsbD x.1.val).map fun x => (x.1, x.2.seq)))
          (some d) none false false .qfenceComplete)) ∧
    (let arms (v : Word) (t : State) : Prop :=
       (s.me.decoup = false → t = s.setMe { s.me with arm := v }) ∧
       (s.me.decoup = true → s.sameMemory t ∧ ∀ m : CtxRef,
         t.ctx m = if m ∈ s.fusedSet s.focus.c then { s.ctx m with arm := v } else s.ctx m)
     (∃ t, exec (.tarm imm) s = .next t ∧ arms (BitVec.ofInt 32 imm.toInt) t) ∧
     (s.gFree (RK.gReg a) = true → ∃ t, exec (.tarmReg a) s = .next t ∧ arms (w.extractLsb' 0 32) t)) ∧
    (s.gFree (d :: b :: RK.gReg a) = true →
      exec (.tspawn d a b) s =
        .next (s.post (.tspawn w s.me.g[b]) (some d) none false true .tspawnRecordWritten)) ∧
    (s.gFree (d :: RK.gReg a ++ decG amt) = true →
      (2 ^ 28 ≤ w.toNat → exec (.tdec rel d a amt) s = .next (s.failing .illegal 0x20#8 0#64)) ∧
      (w.toNat < 2 ^ 28 →
        let n : Word := match amt with
          | .imm k => BitVec.ofNat 32 (k.val + 1)
          | .reg r => s.me.g[r].extractLsb' 0 32
        let u := s.post (.tdec w.toNat n) (some d) none false rel .gResultLand
        ∃ t, exec (.tdec rel d a amt) s = .next t ∧ t.reqs = u.reqs ∧ t.me = u.me ∧ s.sameMemory t ∧
          t.decs = s.decs ++ [⟨s.nextId + 1, (s.me.task.map fun x => x.launch).getD 0, w.toNat, n,
            some (campOf s.focus.c.core), some s.nextId⟩] ∧
          t.agenda = s.agenda ++ [.decrementApply (s.nextId + 1)])) ∧
    (s.gFree (d :: RK.gReg a) = true →
      let q := s.mine.copyq[Fin.ofNat 4 (w.extractLsb' 38 2).toNat]
      ∃ y : DWord, exec (.qpoll false d a) s = .next (s.land 1 (.g d y)) ∧
        exec (.qpoll true d a) s = .next ((s.land 1 (.g d y)).acquireNow s.focus.c.core) ∧
        y.extractLsb' 0 32 = q.comp ∧ y.extractLsb' 32 16 = 0#16 ∧
        y.extractLsb' 48 8 = BitVec.ofNat 8 (32 - q.elems.length) ∧
        (y.getLsbD 63 = true ↔ (w.extractLsb' 32 6).toNat ≠ s.focus.c.core.val ∨
          (q.comp - w.extractLsb' 0 32).toNat < 2 ^ 31))

/-- R59, R159, R279, R280, R283 to R288: QCPY submits a well-formed record read from the window, and QRED the
record that it stands for, to their queue: its ticket lands after 1 cycle, and the element's start is due where
the queue was empty. A full queue raises QFULL, and a malformed record ILLEGAL with detail 0x20. -/
def Obligations.CopySubmissions : Prop :=
  ∀ (s : State) (d b : Fin 16) (a : RK 16) (q : Fin 4) (i32 : Bool) (size : BitVec 2),
    let queue := s.mine.copyq[q]
    let joined (e : CopyElem) (t : State) : Prop :=
      (t.mine.copyq[q]).elems = queue.elems ++ [{ e with id := s.nextId, seq := queue.sub + 1#32 }] ∧
      (t.mine.copyq[q]).sub = queue.sub + 1#32 ∧ (t.mine.copyq[q]).comp = queue.comp ∧
      (queue.elems = [] → Instr.copyElementStart s.focus.c.core q ∈ t.agenda) ∧
      t.me.landings.getLast? = some ⟨s.me.clock + 1, s.me.clock, s.focus.pos,
        .g d (BitVec.ofNat 64 (q.val * 2 ^ 38 + s.focus.c.core.val * 2 ^ 32 + (queue.sub + 1#32).toNat))⟩ ∧
      s.sameMemory t
    let full := Host.Outcome.next (s.failing .qfull 0x00#8 (BitVec.ofNat 64 q.val))
    (s.gFree (d :: RK.gReg a) = true → s.banksIdle = true →
      let o : Nat := (s.me.gSrc a).toNat % 2 ^ 32
      s.windowOk 64 64 false [(o : Int)] = true → s.soundAt 64 [(o : Int)] = true →
      let w := recOf (s.windowBytes o 64)
      (∀ i, recBad w = some i →
        exec (.qcpy d a q) s = .next (s.failing .illegal 0x20#8 (BitVec.ofNat 64 (o + 4 * i)))) ∧
      (recBad w = none → recMisaligned w = none →
        (s.recPipe w = none ∨ s.pipeForm (s.newElem w false q) = true) →
        (recDst w = 4 → s.me.gid = 0#8) → (recMode w = 4 → drawIndex s.me.dctrl ≠ 0xFFFF ∨ s.me.dsattrap = false) →
        (32 ≤ queue.elems.length → exec (.qcpy d a q) s = full) ∧
        (queue.elems.length < 32 → ∃ t, exec (.qcpy d a q) s = .next t ∧ joined (s.newElem w false q) t))) ∧
    (s.gFree (d :: b :: RK.gReg a) = true →
      let n := 64 * 2 ^ size.toNat
      let va := (s.me.gSrc a).toNat % 2 ^ 48
      let o : Nat := s.me.g[b].toNat % 2 ^ 32
      s.windowOk 64 n false [(o : Int)] = true → va % n = 0 →
      (32 ≤ queue.elems.length → exec (.qred i32 d a b size q) s = full) ∧
      (queue.elems.length < 32 → ∃ t, exec (.qred i32 d a b size q) s = .next t ∧
        joined (s.newElem (redRecord i32 va o n) true q) t))

/-- R308, R320 to R326, R334 to R339, R350, R364 to R366, R296, R297: the operations of the units, once their g
registers are free and their operands pass their checks, post their request with the operands and the bytes of
the window that they read at issue; those of R351, R353 and R370 make the next packet wait for the result. -/
def Obligations.UnitOperationsIssue : Prop :=
  ∀ (s : State) (d b : Fin 16) (a : RK 16) (l z : Bool) (n : Fin 13) (w : Fin 5) (lev : Fin 8) (pw zw : Bool)
    (size : BitVec 2),
    let x := s.me.gSrc a
    let y := s.me.g[b]
    let ask (op : UnitOp) (y : DWord) (bs : List Byte) (rel : Bool) (e : Nat → Instr) : State :=
      s.post (.unit op x y bs) (some d) none false rel e
    let gives (i : Instr) (t : State) : Prop := exec i s = .next t
    let record (n o : Nat) : Prop :=
      s.windowOk 64 n false [(o : Int)] = true ∧ s.soundAt n [(o : Int)] = true ∧ s.banksIdle = true
    let id := x.toNat / 2 ^ 28 = 0 ∧ bits x.toNat 20 4 = 0
    (s.gFree (d :: RK.gReg a) = true →
      gives (.gopen d a) ((ask .gopen 0#64 [] false .gResultLand).waitG d) ∧
      gives (.genter d a) ((ask .genter 0#64 [] false .gResultLand).waitG d) ∧
      gives (.gresConfirm d a) ((ask (.gres false) 0#64 [] true .gresComplete).waitG d) ∧
      gives (.gresRefute d a) ((ask (.gres true) 0#64 [] true .gresComplete).waitG d) ∧
      gives (.gqry d (some a)) (ask (.gqry false) 0#64 [] false .gResultLand) ∧
      (seatOperandBad x.toNat w.val = false →
        gives (.seatr d a w) (ask (.seatr w) 0#64 [] false .gResultLand)) ∧
      (id →
        gives (.xlook d a) (ask .xlook 0#64 [] false .gResultLand) ∧
        gives (.xpin d a) (ask .xpin 0#64 [] false .gResultLand) ∧
        gives (.xunpin d a) (ask .xunpin 0#64 [] false .gResultLand)) ∧
      (¬ id → gives (.xlook d a) (s.failing .illegal 0x20#8 0#64)) ∧
      (x.toNat < 8 → gives (.xstat z d a n) (ask (.xstat z n) 0#64 [] false .gResultLand)) ∧
      (let o := bits x.toNat 0 22
       let rows := bits x.toNat 24 8 + 1
       let bs := s.windowBytes o (512 * rows)
       s.windowOk 512 (512 * rows) false [(o : Int)] = true → s.soundAt (512 * rows) [(o : Int)] = true →
         s.banksIdle = true → bits x.toNat 22 2 = 0 → rows ≤ 128 → (∀ r < rows, rowBad bs r = false) →
         gives (.xhint d a) (ask .xhint 0#64 (leBytes 4 (s.policyFor (rowLane bs 0 16)).toNat ++ bs) false
           .gResultLand)) ∧
      (let o := x.toNat % 2 ^ 32
       record 64 o → a2aBad (recOf (s.windowBytes o 64)) = none →
         gives (.a2a d a) (s.post (.unit .a2a 0#64 0#64 (s.windowBytes o 64)) (some d) none false false
           (.a2aDelivered · 0#4 0#8)))) ∧
    (s.gFree [d] = true →
      gives (.gqry d none) (s.post (.unit (.gqry true) 0#64 0#64 []) (some d) none false false .gResultLand)) ∧
    (s.gFree (d :: b :: RK.gReg a) = true →
      (seatOperandBad x.toNat w.val = false → seatValueBad x.toNat y.toNat w.val = false →
        gives (.seatw d a b w) (ask (.seatw w) y [] false .gResultLand)) ∧
      (id → bits y.toNat 28 35 = 0 → gives (.xfetch l d a b) (ask (.xfetch l) y [] false .gResultLand)) ∧
      (x.toNat < 2 ^ 20 → y.toNat % 32 = 0 → gives (.xswap d a b) (ask .xswap y [] true .gResultLand)) ∧
      (let o := bits x.toNat 0 22
       let rows := bits x.toNat 24 8 + 1
       let bs := s.windowBytes o (512 * rows)
       s.windowOk 512 (512 * rows) false [(o : Int)] = true → s.soundAt (512 * rows) [(o : Int)] = true →
         s.banksIdle = true → bits x.toNat 22 2 = 0 → rows ≤ 128 → y.toNat < 2 ^ 48 → y.toNat % 32 = 0 →
         (∀ r < rows, rowBad bs r = false) →
         gives (.xroute d a b) (ask .xroute y (leBytes 4 (s.policyFor (rowLane bs 0 16)).toNat ++ bs) true
           .xrouteServe)) ∧
      (let o := y.toNat % 2 ^ 32
       let n := 64 * 2 ^ size.toNat
       x.toNat % 64 = 0 → record n o →
         gives (.msg z size d a b) (s.post (.unit (.msg z n) x y (s.windowBytes o n)) (some d) none false false
           (.msgDelivered · 0#4))) ∧
      (let o := bits x.toNat 0 22
       let leads := s.leaderOf s.focus.c = s.focus.c ∨ s.me.decoup = true
       (leads → record 2048 o → strayBits x.toNat [(0, 22), (32, 3)] = false →
         tableBad y.toNat (s.windowBytes o 2048) = false → (pw = true → lev.val < s.me.loops.length) →
         gives (.tkcmt lev pw zw z d a b)
           ((ask (.tkcmt lev pw zw z (!s.me.decoup)) y (s.windowBytes o 2048) false .gResultLand).waitG d)) ∧
       (¬ leads → ∃ t, gives (.tkcmt lev pw zw z d a b) t ∧
         t.me = { s.me with gPending := s.me.gPending.set d true, gWait := some d } ∧ t.reqs = s.reqs)) ∧
      (s.pk.isSome = true → s.banksIdle = true →
        let inside (os : List (Nat × Nat)) : Prop :=
          ∀ o ∈ os, o.1 % 64 = 0 ∧ o.1 + o.2 ≤ s.me.spsize.toNat
        let sound (os : List (Nat × Nat)) : Prop :=
          ∀ o ∈ os, s.isBad (.spad s.focus.c.core) (s.me.windowBase + o.1) o.2 = false
        let at_ (os : List (Nat × Nat)) := os.map fun o => (s.me.windowBase + o.1, o.2)
        let xo := bits x.toNat 0 22
        let yo := bits y.toNat 0 22
        (let outs := [(bits x.toNat 32 22, 1024), (yo, s.pkWidth * (if l then 2 else 4))]
         inside ((xo, 512) :: outs) → sound [(xo, 512)] → strayBits x.toNat [(0, 22), (32, 22)] = false →
           strayBits y.toNat [(0, 22), (32, 28), (63, 1)] = false →
           gives (.pkq l d a b) ((ask (.pkq l) y (s.windowBytes xo 512) true .gResultLand).withOuts (at_ outs))) ∧
        (let rs := [(xo, 1024), (yo, 4 * s.pkWidth)]
         let bs := s.windowBytes xo 1024 ++ s.windowBytes yo (4 * s.pkWidth)
         inside rs → sound rs → strayBits x.toNat [(0, 22)] = false → strayBits y.toNat [(0, 22)] = false →
           selBad (bs.take 1024) false = false →
           gives (.pks d a b) ((ask .pks y bs true .gResultLand).withOuts
             (at_ [(xo, 4), (xo + 272, 4 * (selRec bs).n)]))) ∧
        (let rs := [(xo, 1024), (yo, 512)]
         let out := (bits y.toNat 32 22, 1280)
         let bs := s.windowBytes xo 1024 ++ s.windowBytes yo 512
         inside (rs ++ [out]) → sound rs → strayBits x.toNat [(0, 22)] = false →
           strayBits y.toNat [(0, 22), (32, 22)] = false → selBad (bs.take 1024) true = false →
           gives (.pkk d a b) ((ask .pkk y bs true .gResultLand).withOuts (at_ [out])))))

/-! ## The Q slot: events -/

/-- R144, R149, R153: a load that may perform, of a context that is not under a gambit, with no sector of its
line in the L1 and no store of its core under way, lands the little-endian number at its address, and its g
register is no longer pending. A result that stands formed lands in the same way. -/
def Obligations.LoadsLand : Prop :=
  ∀ (s : State) (id : Nat) (r : Req) (d : Fin 16), s.req? id = some r → r.d = some d → r.d2 = none →
    r.orphaned = false → r.ui = (s.ctx r.c).uiact →
    let landed (w : DWord) : Prop :=
      ∃ t, exec (.gResultLand id) s = .next t ∧ (t.ctx r.c).g = (s.ctx r.c).g.set d w ∧
        (t.ctx r.c).gPending = (s.ctx r.c).gPending.set d false ∧ t.reqs = s.reqs.filter (fun q => q.id != id) ∧
        s.sameMemory t
    (∀ va pa n sx, r.kind = .load va pa n sx → r.state = .waiting → n ∈ [1, 2, 4, 8] → pa % n = 0 → r.gid = 0#8 →
      s.mayPerform r = true → s.isBad .dram pa n = false → (∀ q ∈ s.reqs, q.kind.isStore = false) →
      (s.core r.c.core).l1Sector 0#8 pa r.cycle = none →
      landed (if sx then BitVec.ofInt 64 (toSigned (8 * n) (s.dram.num pa n)) else BitVec.ofNat 64 (s.dram.num pa n))) ∧
    (r.state = .formed → landed r.res)

/-- R144, R345, R347, R348: a store that may perform writes its bytes, lowest first, and no other byte of device
memory; one under a gambit leaves committed memory alone, and its view sees what it wrote: in the gambit's version of
the sector, or in a new one, made of the sector as its view read it, where its line has a way or can take one of four.
With no way it is not performed, and GCAP is due. -/
def Obligations.StoresReachMemory : Prop :=
  ∀ (s : State) (id : Nat) (r : Req) (va pa n : Nat) (w : DWord), s.dram.wf = true → s.req? id = some r →
    r.kind = .store va pa n w → r.voided = false → s.mayPerform r = true → n ≤ 8 →
    (r.gid = 0#8 → ∃ t, exec (.storePerform id) s = .next t ∧ t.dram.wf = true ∧
      (∀ i < n, t.dram.get (pa + i) = BitVec.ofNat 8 (w.toNat / 256 ^ i)) ∧
      (∀ a, a < pa ∨ pa + n ≤ a → t.dram.get a = s.dram.get a) ∧
      (∀ (c : Fin 64), (t.core c).spad = (s.core c).spad ∧ (t.core c).canopy = (s.core c).canopy) ∧
      t.reqs = s.reqs.filter fun q => q.id != id) ∧
    (r.gid ≠ 0#8 → pa % 32 + n ≤ 32 → 0 < n → ∀ (v : Version) (x : Gambit), v.data.length = 32 →
      lookupNat s.gambits r.gid.toNat = some x →
      s.versions.find? (fun v => v.gid == r.gid && v.sector == pa / 32) = some v →
      ∃ t, exec (.taggedWriteAtHome id) s = .next t ∧ s.sameMemory t ∧ t.gambits = s.gambits ∧
        (∀ i < n, t.viewByte (viewPath t.gambits 16 r.gid) (pa + i) = BitVec.ofNat 8 (w.toNat / 256 ^ i)) ∧
        (∀ i < 32, (i < pa % 32 ∨ pa % 32 + n ≤ i) →
          t.viewByte (viewPath t.gambits 16 r.gid) (pa / 32 * 32 + i) =
            s.viewByte (viewPath s.gambits 16 r.gid) (pa / 32 * 32 + i)) ∧
        t.reqs = s.reqs.filter fun q => q.id != id) ∧
    (r.gid ≠ 0#8 → pa % 32 + n ≤ 32 → 0 < n → ∀ x : Gambit, lookupNat s.gambits r.gid.toNat = some x →
      (∀ v ∈ s.versions, ¬ (v.gid = r.gid ∧ v.sector = pa / 32)) → s.uncached pa n = false →
      let ways := s.taggedLines (l2Key pa)
      ((r.gid, pa / 256) ∈ ways ∨ ways.length < 4 →
        ∃ t v, exec (.taggedWriteAtHome id) s = .next t ∧ s.sameMemory t ∧ t.gambits = s.gambits ∧
          t.versions = s.versions ++ [v] ∧ v.gid = r.gid ∧ v.sector = pa / 32 ∧
          (∀ i < 32, v.data.getD i 0#8 =
            if pa % 32 ≤ i ∧ i < pa % 32 + n then BitVec.ofNat 8 (w.toNat / 256 ^ (i - pa % 32))
            else s.viewByte (viewPath s.gambits 16 r.gid) (pa / 32 * 32 + i)) ∧
          (∀ i < 32, t.viewByte (viewPath t.gambits 16 r.gid) (pa / 32 * 32 + i) = v.data.getD i 0#8) ∧
          t.reqs = s.reqs.filter fun q => q.id != id) ∧
      ((r.gid, pa / 256) ∉ ways → 4 ≤ ways.length →
        exec (.taggedWriteAtHome id) s = .next (s.due (.gcap id))))

/-- R155, R156, R272 to R274, Table 3: an atomic whose turn it is replaces the number at its address by the new
value of Table 3, leaves every other byte, and forms the old value as its result. DCAS writes both numbers or
neither, and AMOV both. R272, Table 3: the new values of the atomics of 64 and of 32 bits. -/
def Obligations.AtomicsPerform : Prop :=
  (∀ (s : State) (id : Nat) (r : Req), s.dram.wf = true → s.req? id = some r → s.atomicReady r = true →
     s.reqBad r = none →
     let formed (t : State) (res res2 : DWord) : Prop :=
       t.agenda.getLast? = some (.gResultLand id) ∧
         ∃ q ∈ t.reqs, q.id = id ∧ q.state = .formed ∧ q.res = res ∧ q.res2 = res2 ∧ q.d = r.d
     let old (pa : Nat) : DWord := BitVec.ofNat 64 (s.dram.num pa 8)
     (∀ op va pa w t v c, r.kind = .atomic op va pa w t v c →
       let n := if w then 4 else 8
       let new := atomicNew op w t (s.dram.num pa n) (v.toNat % 2 ^ (8 * n)) (c.toNat % 2 ^ (8 * n))
       ∃ u, exec (.atomicPerform id) s = .next u ∧ u.dram.wf = true ∧ u.dram.num pa n = new % 2 ^ (8 * n) ∧
         (∀ a, a < pa ∨ pa + n ≤ a → u.dram.get a = s.dram.get a) ∧
         formed u (BitVec.ofNat 64 (s.dram.num pa n)) 0#64) ∧
     (∀ v1 p1 v2 p2 e1 e2 n1 n2, r.kind = .dcas v1 p1 v2 p2 e1 e2 n1 n2 → (p1 + 8 ≤ p2 ∨ p2 + 8 ≤ p1) →
       ∃ u, exec (.dcasPerform id) s = .next u ∧ formed u (old p1) (old p2) ∧
         (old p1 = e1 ∧ old p2 = e2 → u.dram.num p1 8 = n1.toNat ∧ u.dram.num p2 8 = n2.toNat) ∧
         (¬ (old p1 = e1 ∧ old p2 = e2) → u.dram = s.dram) ∧
         ∀ a, (a < p1 ∨ p1 + 8 ≤ a) → (a < p2 ∨ p2 + 8 ≤ a) → u.dram.get a = s.dram.get a) ∧
     (∀ v1 p1 v2 p2 c, r.kind = .amov v1 p1 v2 p2 c → (p1 + 8 ≤ p2 ∨ p2 + 8 ≤ p1) →
       ∃ u, exec (.dcasPerform id) s = .next u ∧ formed u (old p1) 0#64 ∧ u.dram.num p1 8 = c.toNat ∧
         u.dram.num p2 8 = s.dram.num p1 8 ∧
         ∀ a, (a < p1 ∨ p1 + 8 ≤ a) → (a < p2 ∨ p2 + 8 ≤ a) → u.dram.get a = s.dram.get a)) ∧
  (∀ (a b c : DWord) (x y z : Word) (t : AtT),
     let new (op : AtOp) (t : AtT) : DWord := BitVec.ofNat 64 (atomicNew op false t a.toNat b.toNat c.toNat)
     let newW (op : AtOp) (t : AtT) : Word := BitVec.ofNat 32 (atomicNew op true t x.toNat y.toNat z.toNat)
     (t ≠ .f → new .add t = a + b ∧ newW .add t = x + y) ∧ newW .add .f = add32 x y ∧
     new .min .s = BitVec.ofInt 64 (min a.toInt b.toInt) ∧ new .max .s = BitVec.ofInt 64 (max a.toInt b.toInt) ∧
     new .min .u = BitVec.ofNat 64 (min a.toNat b.toNat) ∧ new .max .u = BitVec.ofNat 64 (max a.toNat b.toNat) ∧
     newW .min .s = BitVec.ofInt 32 (min x.toInt y.toInt) ∧ newW .max .s = BitVec.ofInt 32 (max x.toInt y.toInt) ∧
     newW .min .u = BitVec.ofNat 32 (min x.toNat y.toNat) ∧ newW .max .u = BitVec.ofNat 32 (max x.toNat y.toNat) ∧
     newW .min .f = fminmax false false x y ∧ newW .max .f = fminmax true false x y ∧
     new .and t = a &&& b ∧ new .or t = a ||| b ∧ new .xch t = b ∧ new .cas t = (if a = b then c else a) ∧
     newW .and t = x &&& y ∧ newW .or t = x ||| y ∧ newW .xch t = y ∧ newW .cas t = if x = y then z else x)

/-- R151, R275, R282: a DRAIN completes when its release is done, with the acquire half of its scope, and a
QFENCE when the elements that it marked have completed; each forms 0. R146, R349, R389, R395: an access that meets an
uncorrectable error or finds no way for its tagged version stops its context with MEMECC or GCAP, at position 7,
with its virtual address, for a DCAS or an AMOV that of the first bad location. What the context issued after it and has
not performed is discarded: requests, their decrements, elements of the copy queues and entries of the address queue;
what it issued before, and what is another's, stays; memory and registers do not change. -/
def Obligations.RequestsComplete : Prop :=
  (∀ (s : State) (id : Nat) (r : Req), s.req? id = some r → r.state = .waiting →
     let formed (t : State) : Prop := ∃ u, t = u.form r 0#64 0#64 ∧ u.reqs = s.reqs ∧ u.agenda = s.agenda ∧
       s.sameMemory u ∧ ∀ c, u.ctx c = s.ctx c
     (∀ scope, r.kind = .drain scope →
       (s.released r scope = true → ∃ t, exec (.drainComplete id) s = .next t ∧ formed t ∧
         (scope = .camp ∨ scope = .dev ∨ scope = .sys →
           ∀ x ∈ (t.core r.c.core).l1, r.cycle ≤ x.filled)) ∧
       (s.released r scope = false → exec (.drainComplete id) s = .next s)) ∧
     (∀ mask ms, r.kind = .qfence mask ms →
       ((∀ x ∈ (s.core r.c.core).allElems, (x.1, x.2.seq) ∉ ms) →
         ∃ t, exec (.qfenceComplete id) s = .next t ∧ formed t) ∧
       ((∃ x ∈ (s.core r.c.core).allElems, (x.1, x.2.seq) ∈ ms) → exec (.qfenceComplete id) s = .next s))) ∧
  (∀ (s : State) (id : Nat) (r : Req), s.req? id = some r → r.orphaned = false →
     let u := s.discardLater r
     let stops (i : Instr) (cause : Cause) (va : Nat) : Prop :=
       exec i s = .next (u.takeFault r.c 7 cause 0x00#8 (s.ctx r.c).pc (BitVec.ofNat 64 va))
     let bad (va pa n : Nat) : Option Nat := if s.isBad .dram pa n = true then some va else none
     (∀ va, s.reqBad r = some va → stops (.memeccLoadFault id) .memecc va) ∧
     (∀ va pa n w, r.kind = .store va pa n w → stops (.gcap id) .gcap va ∧ s.reqBad r = bad va pa n) ∧
     (∀ op va pa w t v c, r.kind = .atomic op va pa w t v c → s.reqBad r = bad va pa (if w then 4 else 8)) ∧
     (∀ va pa n sx, r.kind = .load va pa n sx → s.isBad .dram pa n = true → s.reqBad r = some va) ∧
     (∀ va pa vb pb, (∃ e1 e2 n1 n2, r.kind = .dcas va pa vb pb e1 e2 n1 n2) ∨ (∃ c, r.kind = .amov va pa vb pb c) →
       s.reqBad r = if s.isBad .dram pa 8 = true then some va else bad vb pb 8) ∧
     (∀ xs ys, s.reqs = xs ++ r :: ys → ((s.reqs.map fun q => q.id).Nodup) →
       let gone (q : Req) : Bool := q.c == r.c && !q.orphaned && q.state == .waiting
       u.reqs = xs ++ ys.filter (fun q => !gone q) ∧
       ∀ d, d ∈ u.decs ↔ d ∈ s.decs ∧ ∀ q ∈ ys, gone q = true → d.req ≠ some q.id) ∧
     (∀ (k : Fin 64) (q : Fin 4) (e : CopyElem), e ∈ ((u.core k).copyq[q]).elems ↔ e ∈ ((s.core k).copyq[q]).elems ∧
       ¬ (k = r.c.core ∧ e.owner = r.c ∧ e.silent = false ∧ r.id < e.id ∧ e.phase ≠ .finished)) ∧
     (∀ c : CtxRef, (u.ctx c).aq = (s.ctx c).aq.filter fun e => decide (c ≠ r.c) || decide (e.at_ ≤ r.cycle)) ∧
     (∀ c : CtxRef, (s.ctx c).sameFiles (u.ctx c) ∧ (u.ctx c).pc = (s.ctx c).pc ∧ (u.ctx c).run = (s.ctx c).run) ∧
     (∀ a, u.dram.get a = s.dram.get a) ∧ ∀ (c : Fin 64) (a : Nat), (u.core c).spad.get a = (s.core c).spad.get a)

/-- R40, R276, R278: a decrement is applied to its task's counter; the counter that falls to 0 or below makes a
pending task ready; a retired task's state is the result. A TSPAWN that may be done appends its task, whose
number is the result. R146, R395: a TDEC whose task's record holds an uncorrectable error is stopped by MEMECC, with the
record's address; that another decrement of such a record is lost is the model's choice (log 40). -/
def Obligations.CountersAndSpawns : Prop :=
  (∀ (s : State) (d : Dec) (t : Task), s.task? d.launch d.task = some t →
    let v := t.counter - d.amt
    (t.state.retired = true →
      s.applyDec d = (s, 0x8000000000000000#64 ||| BitVec.ofNat 64 t.state.code)) ∧
    (t.state.retired = false → (s.applyDec d).2 = v.signExtend 64 ∧
      (t.num = d.task → ∃ y, ((s.applyDec d).1.task? d.launch d.task) = some y ∧ y.counter = v ∧
        (t.state = .pending → 0 < t.counter.toInt → v.toInt ≤ 0 → y.state = .ready) ∧
        (t.state = .parked → 0 < t.counter.toInt → v.toInt ≤ 0 → y.state = .running)))) ∧
  (∀ (s : State) (id : Nat) (d : Dec), (s.decs.find? fun d => d.id == id) = some d → s.decReady d = true →
    let v : State := { s with decs := s.decs.filter fun x => x.id != id }
    let u := v.applyDec d
    let bad := s.isBad .task (d.launch.val * 2 ^ 28 + d.task) 1
    (d.req = none → exec (.decrementApply id) s = if bad = true then .next v else .next u.1.dispatch) ∧
    (∀ n r m k, d.req = some n → bad = false → u.1.req? n = some r → r.kind = .tdec m k →
      exec (.decrementApply id) s = .next (u.1.form r u.2 0#64).dispatch) ∧
    (∀ n r m k l, d.req = some n → bad = true → s.req? n = some r → r.kind = .tdec m k → r.orphaned = false →
      s.launch? d.launch = some l →
      exec (.decrementApply id) s = .next ((v.discardLater r).takeFault r.c 7 .memecc 0x00#8 (s.ctx r.c).pc
        (BitVec.ofNat 64 (l.area.toNat + 64 * d.task))))) ∧
  (∀ (s : State) (id : Nat) (r : Req) (l : Launch) (a b : DWord), s.req? id = some r → r.kind = .tspawn a b →
    r.state = .waiting → s.released r .dev = true → s.unfenced r = true →
    (∃ y, r.task = some y ∧ s.launch? y.launch = some l) →
    (l.spawnErrs a = [] → 0 < (b.extractLsb' 0 32).toInt → l.teardown = none →
      ∃ u, exec (.tspawnRecordWritten id) s = .next (u.form r (BitVec.ofNat 64 l.tasks.length) 0#64).dispatch ∧
        u = ((s.setLaunch l.num { l with tasks := l.tasks ++ [l.spawned a b] }).putTask l.num (l.spawned a b))) ∧
    (∀ e, l.spawnErrs a = [e] → ∃ t : State, exec (.tspawnRecordWritten id) s =
      .next (t.form r (0x8000000000000000#64 ||| BitVec.ofNat 64 e) 0#64) ∧ t = { s with choices := t.choices }))

/-! ## Packet kinds, faults, interrupts and tasks -/

/-- R44 to R46, R49, R53, R54, R398: what a packet's kind does when its operations have issued. R44, R49, R50,
R54, R387, R46, R31: what ends a YIELD, a SYNC, a REJOIN, an END and a hold. An episode completes with its last arrival,
an arrival that waited for the line counting from when it was freed, and the sets of a camp have its fuse line one after
another (log 39). R387: in a launch's teardown a SYNC member's, a REJOIN's, a BREAK's and a hold's context stops its task there: at
once, or once the entries that have begun are complete. -/
def Obligations.PacketKinds : Prop :=
  (∀ (s : State),
     let c := s.focus.c
     let x := s.ctx c
     let alone : Prop := x.fusew = 0
     (∃ t, exec .yieldK s = .next t ∧ (∀ m ∈ s.issueSet c, (t.ctx m).run = .draining .yield) ∧
       t.agenda = s.agenda ++ [.yieldComplete c] ∧ s.sameMemory t) ∧
     (s.groupOf c = none → ∃ t, exec .syncK s = .next t ∧
       (∀ m ∈ s.issueSet c, t.ctx m = { s.ctx m with sticky := (s.ctx m).sticky ||| 0x200#10 }) ∧ s.sameMemory t) ∧
     (∀ n g y, s.groupOf c = some (n, g, y) → s.tornDown c = none → ∃ t, exec .syncK s = .next t ∧
       (∀ m ∈ s.issueSet c, (t.ctx m).run = .syncWait g false ∧ (t.ctx m).landings = []) ∧
       t.agenda.getLast? = some (.syncArrive c)) ∧
     (alone ∨ x.decoup = true → exec .decoupleK s = .next s) ∧
     (¬ alone → x.decoup = false → ∃ t, exec .decoupleK s = .next t ∧ s.sameMemory t ∧
       ∀ m ∈ s.fusedSet c, t.ctx m = { s.ctx m with pc := x.pc, loops := x.loops, b := x.b, decoup := true }) ∧
     (alone ∨ x.decoup = false → exec .rejoinK s = .next s) ∧
     (¬ alone → x.decoup = true → s.tornDown c = none → ∃ t, exec .rejoinK s = .next t ∧ (t.ctx c).run = .rejoinWait s.focus.at_ ∧
       (t.ctx c).landings = [] ∧ s.sameMemory t) ∧
     (s.tornDown c = none → ∃ t, exec .endK s = .next t ∧ t.agenda.getLast? = some (.endRetire c) ∧ ∀ m ∈ s.issueSet c,
       (t.ctx m).run = .endWait ∧ (t.ctx m).landings = [] ∧ (t.ctx m).dq = Vector.replicate 32 none ∧
         (t.ctx m).aq = (s.ctx m).aq.filter fun e => e.kind != .gather) ∧
     (s.tornDown c = none →
       ∃ t, exec .breakK s = .next t ∧ (∀ m ∈ s.issueSet c, (t.ctx m).run = .held .brk) ∧ s.sameMemory t) ∧
     ((s.tornDown c).isSome = true →
       let stops (i : Instr) (run : State → CtxRef → Prop) : Prop :=
         ∃ u, exec i s = .next (u.stopNow (u.leaderOf c)) ∧ ∀ m ∈ s.issueSet c, run u m
       ((s.groupOf c).isSome = true → stops .syncK fun u m => ∃ g, (u.ctx m).run = .syncWait g false) ∧
       (¬ alone → x.decoup = true → stops .rejoinK fun u m => (u.ctx m).run = .rejoinWait s.focus.at_) ∧
       stops .breakK fun u m => (u.ctx m).run = .held .brk)) ∧
  (∀ (s : State) (c : CtxRef) (line : LineRef),
     (∀ n t, (s.ctx c).run = .draining .yield → s.taskOf c = some (n, t) → s.tornDown c = none →
       let v := t.counter + (s.ctx c).arm
       ∃ u, exec (.yieldComplete c) s = .next u ∧
         (∀ m ∈ s.issueSet c, (u.ctx m).run = if 0 < v.toInt then .parked else .ready) ∧
         (∀ m ∈ s.fusedSet c, (u.ctx m).arm = 0#32 ∧ (u.ctx m).atPoint = true) ∧
         ∃ y, u.task? n t.num = some y ∧ y.counter = v ∧ y.state = if 0 < v.toInt then .parked else .running) ∧
     (∀ g n z y, (s.ctx c).run = .syncWait g false → s.groupOf c = some (n, z, y) →
       exec (.syncArrive c) s = .next ((s.setRun c (.syncWait g true)).driveLine
         { s.lineAt y.line with
           arrivals := (s.lineAt y.line).arrivals ++ [⟨n, g, c, (s.core c.core).nextAt⟩] })) ∧
     (∀ n g y, s.episode (s.lineAt line) = some (n, g, y) →
       let as := (s.lineAt line).arrivals.filter fun a => a.launch == n && a.group == g
       (∀ m ∈ y.members, ∃ a ∈ as, CtxRef.num a.c = m) →
       let free := (s.lineAt line).free
       ∃ u last, exec (.syncEpisodeComplete line) s = .next u ∧ (∀ a ∈ as, a.cycle ≤ last) ∧ free ≤ last ∧
         (last = free ∨ ∃ a ∈ as, a.cycle = last) ∧
         ∀ a ∈ as, (u.ctx a.c).run = .ready ∧
           (u.core a.c.core).nextAt = last + if line.camp.isSome then 4 else 8) ∧
     ((∀ m ∈ s.fusedSet c, ∃ p, (s.ctx m).run = .rejoinWait p) →
       ∃ u, exec (.rejoinComplete c) s = .next u ∧ s.sameMemory u ∧ ∀ m ∈ s.fusedSet c,
         (u.ctx m).decoup = false ∧ (u.ctx m).run = .ready ∧ (u.ctx m).pc = (s.ctx c).pc ∧
         (u.ctx m).loops = (s.ctx c).loops ∧ (u.ctx m).b = (s.ctx c).b ∧
         (u.ctx m).sticky = (if (s.ctx m).run = (s.ctx c).run then (s.ctx m).sticky
           else (s.ctx m).sticky ||| 0x100#10) ∧
         (∀ n ∈ s.fusedSet c, (s.core n.core).nextAt + 2 ≤ (u.core m.core).nextAt) ∧
         (u.core m.core).nextAt = u.fuse[campOf c.core] ∧ u.fuse[campOf c.core] =
           max ((s.fusedSet c).foldl (fun t n => max t (s.core n.core).nextAt) 0) s.fuse[campOf c.core] + 2) ∧
     ((s.ctx c).run = .endWait → s.endBusy c = false →
       ∃ u, exec (.endRetire c) s = .next u ∧ (∀ m ∈ s.fusedSet c, u.ctx m = Context.reset) ∧
         ∀ n t, s.taskOf c = some (n, t) → ∃ y, u.task? n t.num = some y ∧ y.state = .done) ∧
     (s.stopsHere c = false →
       ∃ u, exec (.holdEnd c) s = .next u ∧ s.sameMemory u ∧ ∀ m ∈ s.issueSet c, u.ctx m = { s.ctx m with run :=
         match (s.ctx m).run with
         | .held (.g _) => .ready
         | .held .pop => .ready
         | .held (.ui n) => if n ≤ s.cycle then .ready else .held (.ui n)
         | r => r }) ∧
     (s.stopsHere c = true → exec (.holdEnd c) s = .next (s.stopNow (s.leaderOf c))) ∧
     (s.entriesBusy c = true → ∀ m ∈ s.fusedSet c, ((s.stopNow c).ctx m).run = .draining .endTask) ∧
     (∀ n t, s.entriesBusy c = false → s.taskOf c = some (n, t) →
       (∀ m ∈ s.fusedSet c, (s.stopNow c).ctx m = Context.reset) ∧
         ∃ y, (s.stopNow c).task? n t.num = some y ∧ y.state = .cancelled))

/-- R85, R389 to R396: taking a fault. Every context of the set that issues together has its CAUSE, EPC and
FADDR written and stops; the rest of a fused set stops; the task's retirement is due; and nothing else changes. -/
def Obligations.TakingAFault : Prop :=
  ∀ (s : State) (r : CtxRef) (pos : Fin 8) (cause : Cause) (detail : BitVec 8) (pc : PcWord) (faddr : DWord),
    (s.ctx r).run ≠ .faulted →
    let t := s.takeFault r pos cause detail pc faddr
    (∀ m ∈ s.issueSet r,
      let x := t.ctx m
      x.run = .faulted ∧ x.faddr = faddr ∧
      x.cause.extractLsb' 0 8 = cause.code ∧ x.cause.extractLsb' 8 8 = detail ∧
      x.cause.extractLsb' 16 3 = BitVec.ofNat 3 pos.val ∧ x.cause.extractLsb' 19 45 = 0#45 ∧
      x.epc.extractLsb' 0 48 = (pc ++ 0#5 : BitVec 48) ∧ x.epc.extractLsb' 48 10 = 0#10 ∧
      x.epc.extractLsb' 58 3 = BitVec.ofNat 3 (s.ctx m).loops.length ∧
      x.epc.extractLsb' 61 3 = BitVec.ofNat 3 pos.val) ∧
    (∀ m ∈ s.fusedSet r, (t.ctx m).run = .faulted) ∧
    (∀ m : CtxRef, (s.ctx m).sameFiles (t.ctx m) ∧ (s.ctx m).sameSpecials (t.ctx m) ∧ (t.ctx m).pc = (s.ctx m).pc ∧
      (t.ctx m).loops = (s.ctx m).loops ∧ (t.ctx m).acc = (s.ctx m).acc ∧
      (m ∉ s.issueSet r → (s.ctx m).sameFaultRegs (t.ctx m)) ∧
      (m ∉ s.issueSet r → m ∉ s.fusedSet r → t.ctx m = s.ctx m)) ∧
    t.agenda = s.agenda ++ [.faultRetire (s.leaderOf r)] ∧ s.sameMemory t

/-- R394, R396, R399, R405, R424: what follows a miss, a fault or an engine's fault: the walk's leaf in the TLBs, or
TRANSLATION with its detail; the held packet ready again; the retirement of the whole set's task. An engine's fault is
recorded in the context that submitted the work, the address queue's with the entry's number and a copy queue's with the
row, and stops its set unless the host resolves it; a copy queue's element that is not resumed is discarded, and one whose
task has been retired tells nobody. R146: an uncorrectable error in a table entry is MEMECC (that FADDR holds the entry's
physical address is the model's choice: log 40). -/
def Obligations.WalksAndRetirement : Prop :=
  ∀ (s : State) (c : CtxRef),
    (∀ id w, s.walks.find? (fun w => w.id == id && w.fault.isNone) = some w → w.who = .packet c →
      (∀ e, s.walk w.va = .leaf e → ∃ t, exec (.walkComplete id) s = .next t ∧ e ∈ (t.core c.core).tlb ∧
        e ∈ t.campTlb[campOf c.core] ∧ t.agenda = s.agenda ++ [.shadowReturn c] ∧
        t.walks = s.walks.filter fun x => x.id != id) ∧
      (let fails (cause : Cause) (detail : BitVec 8) (faddr : Nat) : Prop :=
         exec (.walkComplete id) s = .next ({ s.walked w.va with walks := s.walks.filter fun x => x.id != id }.takeFault
           c w.pos cause detail (s.ctx c).pc (BitVec.ofNat 64 faddr))
       (s.walk w.va = .invalid → fails .translation 0x01#8 w.va) ∧
         (s.walk w.va = .malformed → fails .translation 0x02#8 w.va) ∧
         ∀ pa, s.walk w.va = .ecc pa → fails .memecc 0x00#8 pa) ∧
      (s.walk w.va = .hostFault → ∃ t y, exec (.walkComplete id) s = .next t ∧ y ∈ t.walks ∧ y.id = id ∧
        y.fault = some s.pfNext ∧ t.pfNext = s.pfNext + 1#32)) ∧
    (∀ id, (s.ctx c).run = .held (.walk id) → (∀ w ∈ s.walks, w.id ≠ id) →
      exec (.shadowReturn c) s = .next (s.setRun c .ready)) ∧
    (∀ a e, (s.ctx c).run = .held (.side a) → s.tlbLookup c.core a.toNat = some e → s.isBad .dram (e.phys a.toNat) 32 = false →
      ∃ t, exec (.shadowReturn c) s = .next t ∧ (t.ctx c).run = .ready ∧
        lookupNat (t.core c.core).metaCache (a.toNat / 32) = some (s.dram.bytes (e.phys a.toNat) 32)) ∧
    ((s.ctx c).run = .faulted → s.entriesBusy c = false →
      ∃ t, exec (.faultRetire c) s = .next t ∧ (∀ m ∈ s.fusedSet c, t.ctx m = Context.reset) ∧
        ∀ n y, s.taskOf c = some (n, y) → ∃ z, t.task? n y.num = some z ∧
          z.state = if (s.ctx (s.failedOf c)).cause.extractLsb' 0 8 = 0x13#8 then .orphan else .faulted) ∧
    (∀ seq f, (s.ctx c).aqFault = some (seq, f) → (s.ctx c).run ≠ .faulted →
      ∃ t, exec (.engineFault (.address c)) s = .next t ∧ (t.ctx c).faddr = f.faddr ∧
        (t.ctx c).cause.extractLsb' 0 8 = f.code ∧ (t.ctx c).cause.extractLsb' 8 8 = f.detail ∧
        (t.ctx c).cause.extractLsb' 19 5 = 0b00011#5 ∧ (t.ctx c).finfo = (1#4 ++ seq : BitVec 36) ∧
        (f.waits = false → ∀ m ∈ s.fusedSet c, (t.ctx m).run = .faulted)) ∧
    ∀ (k : Fin 64) (q : Fin 4) (e : CopyElem) (f : EngFault), s.firstElem k q = some e → e.susp = .fault f →
      ∃ t, exec (.engineFault (.copy k q)) s = .next t ∧
        (e.silent = true → ∀ m : CtxRef, t.ctx m = s.ctx m) ∧
        (e.silent = false → (s.ctx e.owner).run ≠ .faulted →
          let y := t.ctx e.owner
          y.faddr = f.faddr ∧ y.cause.extractLsb' 0 8 = f.code ∧ y.cause.extractLsb' 8 8 = f.detail ∧
          y.cause.extractLsb' 19 5 = (BitVec.ofNat 4 (2 + q.val) ++ 1#1 : BitVec 5) ∧
          y.finfo = (BitVec.ofNat 4 (2 + q.val) ++ BitVec.ofNat 32 e.row : BitVec 36) ∧
          (f.waits = false → ∀ m ∈ s.fusedSet e.owner, (t.ctx m).run = .faulted) ∧
          (f.waits = true → y.run = (s.ctx e.owner).run)) ∧
        (f.waits = false → (e.silent = true ∨ (s.ctx e.owner).run ≠ .faulted) →
          ∀ x ∈ ((t.core k).copyq[q]).elems, x.id ≠ e.id) ∧
        (f.waits = true → f.code ≠ 0x12#8 → (e.silent = true ∨ (s.ctx e.owner).run ≠ .faulted) →
          (∀ w ∈ s.walks, w.id ≠ s.nextId) → ∃ w ∈ t.walks, w.who = .engine (.copy k q) ∧ w.va = f.faddr.toNat ∧
            w.access = f.access ∧ w.fault = some s.pfNext ∧ t.firstElem k q = some e)

/-- R400 to R403: a deliverable interrupt enters its handler: CAUSE and the interrupted point are put aside, the
banks of s28 to s31 and g12 to g15 switch, UISTAT takes the cookie and the pending count, and the core is held
for four cycles. Leaving the handler gives everything but UISTAT back. -/
def Obligations.InterruptEntryAndReturn : Prop :=
  (∀ (s : State) (c : CtxRef) (w : Word) (ws : List Word), (s.ctx c).fusew = 0 → s.uiReady c = true →
    (s.ctx c).trap = none → (s.ctx c).uiQueue = w :: ws → (s.ctx c).uien = true → (s.ctx c).uiValid = true →
    (s.ctx c).uiact = false →
    ∃ t, exec (.uiEntry c) s = .next t ∧
      let x := s.ctx c
      let y := t.ctx c
      y.run = .held (.ui (s.cycle + 4)) ∧ Instr.holdEnd c ∈ t.agenda ∧ y.pc = x.uiHandler ∧ y.uiact = true ∧
      y.uiQueue = ws ∧ y.cause = 0#64 ∧ y.landings = [] ∧ y.streams = [] ∧
      y.frozen = some ⟨x.pc, x.clock, x.landings, x.streams, x.cause⟩ ∧
      y.uistat.extractLsb' 0 32 = w ∧ y.uistat.extractLsb' 32 5 = BitVec.ofNat 5 ws.length ∧
      y.uistat.extractLsb' 37 27 = 0#27 ∧
      (∀ i : Fin 32, y.s[i] = if h : 28 ≤ i.val then x.sBank[i.val - 28]'(by omega) else x.s[i]) ∧
      (∀ i : Fin 16, y.g[i] = if h : 12 ≤ i.val then x.gBank[i.val - 12]'(by omega) else x.g[i]) ∧
      y.k = x.k ∧ y.q = x.q ∧ y.v = x.v ∧ y.b = x.b ∧ y.loops = x.loops ∧ s.sameMemory t) ∧
  (∀ (s : State) (c : CtxRef) (imm : BitVec 17), (s.ctx c).fusew = 0 → s.uiReady c = true →
    (s.ctx c).trap = some imm → ((s.ctx c).uiValid = false ∨ (s.ctx c).uiact = true) →
    exec (.uiEntry c) s =
      .next (s.takeFault c 0 .trapi 0x00#8 (s.ctx c).pc (imm.setWidth 64))) ∧
  ∀ (x : Context) (noneBit trap : Bool) (cookie : Word) (n : Nat), x.uiact = false → x.frozen = none →
    (x.enterUi noneBit trap cookie n).leaveUi = { x with uistat := uistatWord noneBit trap n cookie }

/-- R43, R375 to R388: the dispatcher's acts on tasks, and what the contexts that a task is bound to find in their
registers. (That a task bound with its counter above 0, as one of a CONCURRENT launch may be, and its contexts are PARKED
until the counter falls is the model's choice: log 26.) -/
def Obligations.DispatcherActs : Prop :=
  (∀ (l : Launch) (p : Template) (t : Task) (i base : Nat),
    let x := boundContext l p t i base
    x.s[(0 : Fin 32)] = t.arg.setWidth 64 ∧ x.s[(1 : Fin 32)] = BitVec.ofNat 64 t.num ∧
    x.s[(2 : Fin 32)] = BitVec.ofNat 64 l.count ∧ (∀ j : Fin 32, 5 ≤ j.val → x.s[j] = 0#64) ∧
    x.a[(14 : Fin 16)] = BitVec.ofNat 32 p.spsize ∧ x.a[(15 : Fin 16)] = BitVec.ofNat 32 p.spsize ∧
    x.control = p.control ∧ x.cls = t.cls ∧ x.spsize = BitVec.ofNat 22 p.spsize ∧ x.gid = 0#8 ∧
    x.pc = BitVec.ofNat 43 (l.code / 32 + p.entry) ∧ x.run = .ready ∧ x.loops = [] ∧ x.acc = Vector.replicate 16 none) ∧
  ∀ (s : State) (c : CtxRef) (n : Fin 256) (l : Launch),
    (∀ q x l' p t, s.pickTask c = some (q, x, l', p, t) →
      let lead : CtxRef := ⟨Fin.ofNat 64 (c.core.val / p.cores * p.cores), c.ctx⟩
      (t.state ≠ .saved → exec (.bindTask c) s = .next ((s.take q x).bind lead x.launch l' p t).dispatch) ∧
      (t.state = .saved → exec (.restoreTask c) s = .next ((s.take q x).restore lead x.launch l' p t).dispatch) ∧
      (p.width ≤ 2 →
        let u := ((s.take q x).bind lead x.launch l' p t).dispatch
        let waits := decide (0 < t.counter.toInt)
        (∀ k m, (setFrom lead p.cores)[k]? = some m → ∃ base,
          ((s.core m.core).windows p.spsize = [] ∨ base ∈ (s.core m.core).windows p.spsize) ∧
          u.ctx m = { boundContext l' p t k base with run := if waits then .parked else .ready }) ∧
        ∃ y, u.task? x.launch t.num = some y ∧ y.ctx = some lead ∧ y.state = if waits then .parked else .running)) ∧
    (∀ t, s.preemptReady c = true → s.taskOf c = some (n, t) → s.launch? n = some l →
      ∃ u, exec (.preempt c) s = .next u ∧ (∀ m ∈ s.fusedSet c, (u.ctx m).run = .free) ∧
        ∃ y, u.task? n t.num = some y ∧ y.state = .saved ∧ y.ctx = none) ∧
    (s.launch? n = some l → (s.admissionQueue.find? fun x => s.plans x.num x).map Launch.num = some n → ∀ area : BitVec 48,
      ∃ u y, exec (.admitLaunch n area) s = .next u ∧ u.launch? n = some y ∧ y.state = .admitted ∧ y.area = area ∧
        u.agenda.getLast? = some (.launchDispatchStart n)) ∧
    (s.launch? n = some l → l.state = .admitted → s.mayDispatch n = true →
      ∃ u y, exec (.launchDispatchStart n) s = .next u ∧ u.launch? n = some y ∧ y.state = .running) ∧
    (∀ start, s.launch? n = some l → l.timer = some start → l.state ≠ .over →
      start + l.watchdog.toNat * 1000 ≤ s.gptp →
      ∃ u y, exec (.watchdogExpiry n) s = .next u ∧ u.launch? n = some y ∧ y.timer = none) ∧
    ((s.tornDown c).isSome = true → s.stopReady c = true → s.entriesBusy c = false →
      ∃ u, exec (.teardownStop c) s = .next u ∧ ∀ m ∈ s.fusedSet c, u.ctx m = Context.reset) ∧
    (s.tornDown c = some true → s.abortDue c = true → (s.ctx c).run ≠ .faulted → s.entriesBusy c = false →
      ∃ u, exec (.abortTimeout c) s = .next u ∧ ∀ m ∈ s.fusedSet c, u.ctx m = Context.reset) ∧
    (∀ joules, s.launch? n = some l → l.state ≠ .queued → l.state ≠ .over → (l.budget = 0#32 ∨ joules < l.remain) →
      exec (.energyUpdate n joules) s =
        .next (s.setLaunch n { l with used := l.used + joules, remain := l.remain - joules }))

/-! ## Engines, gambits and units -/

/-- R129, R133, R136, R147, R200 to R206, R294: the address queue's and the bank queues' events. A gather's row lands
in its reserved slot, zeros above it; a scatter writes the lanes that its data left enabled, and nothing else, or adds
to their words; a scatter into the scratchpad leaves those lanes' bytes to the banks. What R147 lets device memory do
unit by unit is an open choice (log 5): with none taken, the whole row at once. -/
def Obligations.GatherAndScatter : Prop :=
  ∀ (s : State) (c : CtxRef) (seq : Word) (e : AqEntry),
    let x := s.ctx c
    let named := x.entry? seq = some e
    let base := x.spbase.toNat * 4096 + e.addr.toNat
    let gone := x.aq.filter fun f => f.seq != seq
    (∀ pa s1, s.entryReady c = true → (x.aq.find? fun e => !e.begun) = some e → s.checkEntry c e = (.ok pa, s1) →
      ∃ t, exec (.gatherEntryBegin c) s = .next t ∧
        (t.ctx c).aq = x.aq.map (fun f => if f.seq = e.seq then
          { f with begun := true, slot := if e.kind = .gather then x.freeSlot else none, pa := pa } else f) ∧
        (∀ i, e.kind = .gather → x.freeSlot = some i → (t.ctx c).dq = x.dq.set i (some ⟨e.seq, none⟩)) ∧
        (∀ v m, e.spad = true → e.kind ≠ .gather → e.data = some (v, m) →
          (s.core c.core).accesses (.entry c e.seq) = [] →
          (t.core c.core).queuesWrites (.entry c e.seq) fun a b =>
            ∃ i < e.size, laneOn m (i / 4) = true ∧ a = base + i ∧ b = vbyte v i) ∧
        (if e.kind = .gather then Instr.gatherDataLand c e.seq else .scatterEntryPerform c e.seq) ∈ t.agenda) ∧
    (∀ i, named → e.kind = .gather → s.entryMay c seq = true → e.slot = some i → e.size ≤ 512 →
      let lands (t : State) (f : Nat → Byte) : Prop :=
        exec (.gatherDataLand c seq) s = .next t ∧ s.sameMemory t ∧ (t.ctx c).aq = gone ∧
          ∃ v, (t.ctx c).dq = x.dq.set i (some ⟨seq, some v⟩) ∧ ∀ n < 512, vbyte v n = if n < e.size then f n else 0#8
      let got (a : Nat) : Byte := ((e.got.find? fun y => y.1 == a).map (·.2)).getD 0#8
      (e.spad = true → ∃ t, lands t fun n => got (base + n)) ∧
      (e.spad = false → e.gid = 0#8 →
        (e.got = [] → (s.choices = [] ∨ e.unread.length ≤ 1) → ∃ t, lands t fun n => s.dram.get (e.pa + n)) ∧
        (e.got ≠ [] → e.unread = [] → ∃ t, lands t fun n => got (e.pa + n)) ∧
        ((e.got ≠ [] ∧ e.unread ≠ [] ∨ e.got = [] ∧ 1 < e.unread.length ∧ (s.choose (e.unread.length + 1)).1 ≠ 0) →
          ∃ t, exec (.gatherDataLand c seq) s = .next t ∧ s.sameMemory t ∧ (t.ctx c).dq = x.dq ∧
            Instr.gatherDataLand c seq ∈ t.agenda ∧ ∃ u ∈ e.unread, (t.ctx c).aq = x.aq.map fun f =>
              if f.seq = seq then { f with got := f.got ++ (List.range u.2).map fun j =>
                (e.pa + u.1 + j, s.dram.get (e.pa + u.1 + j)) } else f))) ∧
    (∀ v m, named → s.entryMay c seq = true → e.data = some (v, m) → e.spad = true →
      ∃ t, exec (.scatterEntryPerform c seq) s = .next t ∧ (t.ctx c).aq = gone ∧ s.sameMemory t) ∧
    (∀ v m, named → s.entryMay c seq = true → e.data = some (v, m) → e.spad = false → e.kind ≠ .gather →
      (e.kind = .scatter → e.gid = 0#8 ∧ e.voided = false) → e.size ≤ 512 → s.dram.wf = true →
      let all := (List.range (e.size / 4)).filter (laneOn m)
      let on := (s.chooseLanes e all).1
      (s.choices = [] → on = all) ∧ (∀ i ∈ on, i ∈ all) ∧ (all ≠ [] → on ≠ []) ∧
      ∃ t, exec (.scatterEntryPerform c seq) s = .next t ∧
        (t.ctx c).aq = (if all.all (on.contains ·) then gone
          else x.aq.map fun f => if f.seq = seq then { f with data := some (v, dropLanes m on) } else f) ∧
        (e.kind = .scatter → ∀ a, t.dram.get a =
          if e.pa ≤ a ∧ (a - e.pa) / 4 ∈ on then vbyte v (a - e.pa) else s.dram.get a) ∧
        (e.kind ≠ .scatter →
          (∀ i ∈ on, let old := BitVec.ofNat 32 (s.dram.num (e.pa + 4 * i) 4)
            t.dram.num (e.pa + 4 * i) 4 =
              (if e.kind = .addI then old + lane v i else (fadd .rne old (lane v i)).1).toNat) ∧
          ∀ a, ¬ (e.pa ≤ a ∧ (a - e.pa) / 4 ∈ on) → t.dram.get a = s.dram.get a))

/-- R133, R141, R142, R158, R286 to R294, R419: the copy queues' events, and the accesses of the engines' ports. A row
that has been read is delivered: its elements, converted, stand where R287 puts them, and go to device memory, to flash,
to the canopy or to the banks of a scratchpad; a reduction, of kind 0x03 and destination space 5, adds them, word by word;
and R59: a push adds its row to its pipe or, with 32 entries in it, waits, and a pop takes the oldest entry. (That a row may
be written unit by unit, and an element left at a row, are open choices: log 5. The form in which FADDR holds the address
of a drive's row is the model's: log 29.) -/
def Obligations.CopyEvents : Prop :=
  ∀ (s : State) (c : Fin 64) (q : Fin 4) (b : Fin 32),
    let queue := (s.core c).copyq[q]
    (∀ x rest, (s.core c).bankq[b] = x :: rest → (∀ d r n, x.owner ≠ .copy d r n) → (s.core c).spad.wf = true →
      ∃ t, exec (.enginePortServe c b) s = .next t ∧
        (∀ ws, x.write = some ws → ∀ a, (t.core c).spad.get a = (lastCell ws a).getD ((s.core c).spad.get a)) ∧
        (x.write = none → (t.core c).spad = (s.core c).spad) ∧ t.dram = s.dram) ∧
    (exec (.enginePortServe c b) s = .next ((s.portTaken c b).servePort c b)) ∧
    (s.eventReady (.enginePortServe c b) = true ↔ (s.core c).portFree[b] ≤ s.cycle) ∧
    ((s.portTaken c b).core c).portFree[b] = s.cycle + 1 ∧
    (queue.elems = [] → exec (.copyElementStart c q) s = .next s) ∧
    ∀ e rest, queue.elems = e :: rest →
      (s.mayBegin c q = false → exec (.copyElementStart c q) s = .next s) ∧
      (s.mayBegin c q = true →
        exec (.copyElementStart c q) s = .next ((s.putElem c q { e with begun := true }).advance c q advanceFuel)) ∧
      (e.susp = .pipe → (∀ p, s.elemPipe e = some p → s.pipeReady p = true) →
        exec (.pipeResume c q) s = .next ((s.putElem c q { e with susp := .none }).advance c q advanceFuel)) ∧
      (e.phase = .finished → (recFlag e.words 5 = true → (s.ctx e.owner).uiQueue.length < 16) →
        ∃ t, exec (.copyElementComplete c q) s = .next t ∧
          ((t.core c).copyq[q]).elems = rest ∧ ((t.core c).copyq[q]).comp = queue.comp + 1#32 ∧
          (e.silent = true → t.decs = s.decs ∧ ∀ r, t.ctx r = s.ctx r) ∧
          (e.silent = false → recFlag e.words 6 = true →
            t.decs = s.decs ++ [⟨s.nextId, (e.task.map fun y => y.launch).getD 0, recTask e.words, e.words[13],
              some (campOf c), none⟩]) ∧
          (e.silent = false → recFlag e.words 6 = false → recFlag e.words 5 = true →
            (t.ctx e.owner).uiQueue = (s.ctx e.owner).uiQueue ++ [e.words[13]]) ∧ s.sameMemory t) ∧
      (e.phase = .finished → recFlag e.words 5 = true → e.silent = false → 16 ≤ (s.ctx e.owner).uiQueue.length →
        exec (.copyElementComplete c q) s = .next (s.putElem c q { e with susp := .interrupts })) ∧
      (e.begun = true → e.susp = .none → e.phase ≠ .finished → (recSrc e.words = 4 ∨ recDst e.words = 4) →
        let place (a : Nat) (o : Int) : Nat := a / 2 ^ 43 * 2 ^ 43 + ofSigned 43 ((a : Int) + o)
        let w := fmtWidth (recDstFmt e.words) / 8
        ∃ t f a, exec (.nvmeTimeout c q) s = .next t ∧ f ∈ ((t.core c).copyq[q]).elems ∧
          f.susp = .fault ⟨0x0E#8, 0x11#8, BitVec.ofNat 64 a, false, .read⟩ ∧
          (recSrc e.words = 4 ∧
              a = place (recSrcAddr e.words) (if recKind e.words = 2 then 0 else e.row * recSrcStride e.words) ∨
            recDst e.words = 4 ∧ a = place (recDstAddr e.words)
              (if recFlag e.words 0 = true then ((e.row * w : Nat) : Int) else e.row * recDstStride e.words)) ∧
          Instr.engineFault (.copy c q) ∈ t.agenda) ∧
      (s.mayBegin c q = true → e.susp = .none →
        let f : CopyElem := { e with begun := true }
        let u := s.putElem c q f
        let runs_ (v : State) (src : List Byte) : Prop :=
          (∀ w, v.rowDeliver c q f src = (w, false) → exec (.copyElementStart c q) s = .next w) ∧
            ∀ w ks, v.rowDeliver c q f src = (w, true) → w.choices = 1 :: ks →
              exec (.copyElementStart c q) s = .next ({ w with choices := ks }.due (.copyElementStart c q))
        (∀ ks src v, e.phase = .start → e.row < recRows e.words → recCols e.words ≠ 0 → s.fromDevice e = true →
          s.choices = 0 :: ks → { u with choices := ks }.rowSource c f e.row = (.ok (some src), v) → runs_ v src) ∧
        (∀ got k a, e.phase = .reading got → s.outstanding (.copy c q e.seq) = false →
          s.spadSpan c e (recSrc e.words) (recSrcAddr e.words) (e.row * recSrcStride e.words) (e.srcBytes e.row) =
            .ok (k, a) →
          runs_ u ((List.range (e.srcBytes e.row)).map fun i =>
            ((got.find? fun y => y.1 == a + i).map (·.2)).getD 0#8))) ∧
      (∀ src p x, s.elemPipe e = some p → s.pipe? p.1 p.2.1 = some x →
        let t := (s.rowDeliver c q e src).1
        let waits : Prop := (s.rowDeliver c q e src).2 = false ∧ t.launches = s.launches ∧ Instr.pipeResume c q ∈ t.agenda ∧
          t.firstElem c q = some { e with susp := .pipe, phase := .start }
        (p.2.2 = true → 32 ≤ x.entries.length → waits) ∧
        (p.2.2 = true → x.entries.length < 32 → (s.rowDeliver c q e src).2 = true ∧ t.pipe? p.1 p.2.1 = some { x with
          entries := x.entries ++ [(e.rowOut (fun i => src.getD i 0#8) e.row).map fun y => y.2] }) ∧
        (p.2.2 = false → x.entries = [] → waits) ∧
        ∀ y ys, p.2.2 = false → x.entries = y :: ys → t.pipe? p.1 p.2.1 = some { x with entries := ys }) ∧
      (∀ src, s.elemPipe e = none →
        let r := e.row
        let byte (i : Nat) : Byte := src.getD i 0#8
        let out := e.rowOut byte r
        let n := e.count r
        let w := fmtWidth (recDstFmt e.words)
        let dst := (recDstAddr e.words : Int)
        let t := (s.rowDeliver c q e src).1
        let done (p : RowPhase) (row : Nat) : Prop :=
          let out := decide (p = .start) && n != 0 && !e.voided && [0, 4, 5].contains (recDst e.words)
          s.rowDeliver c q e src = (t, true) ∧ s.firstElem c q = some e →
            t.firstElem c q = some { e with row := row, phase := p, wrote := e.wrote || out }
        n = (if recFlag e.words 4 then recCols e.words else if r < recVRows e.words then recVCols e.words else 0) ∧
        (recFlag e.words 0 = false → n * w % 8 = 0 → ∃ f : Nat → Byte,
          out = (List.range (n * w / 8)).map (fun (i : Nat) => (r * recDstStride e.words + (i : Int), f i)) ∧
            ∀ j < n, elemAt f w j = e.result byte r j % 2 ^ w) ∧
        (recFlag e.words 0 = true → w % 8 = 0 → out = (List.range n).flatMap fun (j : Nat) => (List.range (w / 8)).map fun (i : Nat) =>
          (j * recDstStride e.words + ((r * (w / 8) + i : Nat) : Int), BitVec.ofNat 8 (e.result byte r j / 256 ^ i))) ∧
        (recDst e.words = 1 ∨ recDst e.words = 3 →
          let k : Fin 64 := if recDst e.words = 1 then c else Fin.ofNat 64 (recDstAddr e.words / 2 ^ 40 % 256)
          let first : Int := if recDst e.words = 1 then e.base + dst else (recDstAddr e.words % 2 ^ 21 : Nat)
          (∀ y ∈ runs out, ∃ z, s.spadSpan c e (recDst e.words) (recDstAddr e.words) y.1 y.2.length = .ok z) →
          (s.core k).accesses (.copy c q e.seq) = [] →
          (s.rowDeliver c q e src).2 = true ∧ done .writing r ∧
            (t.core k).queuesWrites (.copy c q e.seq) fun a b => ∃ o, (o, b) ∈ out ∧ a = (first + o).toNat) ∧
        (recDst e.words = 2 → recKind e.words ≠ 4 →
          (∀ y ∈ out, 0 ≤ dst + y.1 ∧ dst + y.1 < s.canopyC * 16384) →
          (s.rowDeliver c q e src).2 = true ∧ done .start (r + 1) ∧ (t.core c).canopyIn[q] = (s.core c).canopyIn[q] ++
            out.map fun y => ((1024 - s.canopyC) * 16384 + (dst + y.1).toNat, y.2)) ∧
        (recDst e.words = 2 → recKind e.words = 4 → r < recRows e.words → recRows e.words * w % 8 = 0 →
          let col := recRows e.words * w / 8
          recDstAddr e.words + n * col ≤ s.canopyC * 16384 →
          (s.rowDeliver c q e src).2 = true ∧ done .start (r + 1) ∧ ∀ j < n,
            elemAt (fun i => (t.core c).canopyByte q ((1024 - s.canopyC) * 16384 + recDstAddr e.words + j * col + i)) w r =
              e.result byte r j % 2 ^ w) ∧
        (∀ o bs, recDst e.words = (if recKind e.words = 3 then 5 else 0) → runs out = [(o, bs)] → (s.choose 2).1 = 0 →
          s.dram.wf = true →
          let u := (s.choose 2).2
          let va := ofSigned 48 (dst + o)
          (∀ ps v, recKind e.words ≠ 3 → e.gid = 0#8 → e.voided = false → s.oddKeyWrite va bs.length = false →
            u.engSpan (campOf c) .engWrite .write va bs.length = (.ok ps, v) →
            (s.rowDeliver c q e src).2 = true ∧ done .start (r + 1) ∧
              ∀ a, t.dram.get a = (lastCell (spanCells ps bs) a).getD (s.dram.get a)) ∧
          (∀ pa v, recKind e.words = 3 → bs.length % 4 = 0 → s.isBad .dram pa bs.length = false →
            u.engSpan (campOf c) .engReduce .readWrite va bs.length = (.ok [(pa, bs.length)], v) →
            (s.rowDeliver c q e src).2 = true ∧ done .start (r + 1) ∧
              (∀ i < bs.length / 4,
                let old := BitVec.ofNat 32 (s.dram.num (pa + 4 * i) 4)
                let new := BitVec.ofNat 32 (leAt bs (4 * i) 4)
                t.dram.num (pa + 4 * i) 4 =
                  (if recDstFmt e.words = .int32 then old + new else (fadd .rne old new).1).toNat) ∧
              ∀ a, a < pa ∨ pa + bs.length ≤ a → t.dram.get a = s.dram.get a)) ∧
        (∀ o bs x, recDst e.words = 4 → runs out = [(o, bs)] →
          let a := recDstAddr e.words / 2 ^ 43 * 2 ^ 43 + ofSigned 43 (dst + o)
          s.namespaceAt a = some x → a % 2 ^ 43 + bs.length ≤ x.length →
          s.badBlocks x (a % 2 ^ 43) bs.length = false →
          (s.rowDeliver c q e src).2 = true ∧ done .start (r + 1) ∧ t.drives = s.drives.map fun y =>
            if y.drive == x.drive && y.nsid == x.nsid then { y with data := y.data.setBytes (a % 2 ^ 43) bs } else y))

/-- R343, R344, R351 to R354: the gambit controller. GOPEN gives the lowest free identifier below its parent,
GENTER puts its context under a live gambit, and a resolution takes its gambit away: a refutation makes the
contexts at and below it orphans, and its versions go with those of its descendants; a confirmation moves its contexts
dst the parent and makes each of its versions the parent's, replacing the parent's own, or committed memory at the
root. -/
def Obligations.GambitOperations : Prop :=
  ∀ (s : State) (id : Nat) (r : Req) (a b : DWord) (bs : List Byte), s.req? id = some r →
    r.state = .waiting → s.gambitReady r = true → r.orphaned = false →
    let n := a.toNat
    let lands (t : State) (w : DWord) : Prop := exec (.gResultLand id) s = .next (t.finish { r with res := w })
    let err (n : Nat) : DWord := BitVec.ofNat 64 (2 ^ 64 - 256 + n)
    (r.kind = .unit .gopen a b bs →
      (256 ≤ n → lands s (err 3)) ∧
      (n < 256 → s.live n = false → lands s (err 1)) ∧
      (n < 256 → s.live n = true → s.depth n ≠ 15 → (∀ g < 256, s.live g = true) → lands s (err 2)) ∧
      (n < 256 → s.live n = true → s.depth n ≠ 15 → ∀ g < 256, s.live g = false → (∀ h < g, s.live h = true) →
        lands { s with gambits := insertNat g ⟨BitVec.ofNat 8 n, s.depth n + 1⟩ s.gambits } (BitVec.ofNat 64 g)) ∧
      (n < 256 → s.live n = true → s.depth n = 15 → ∃ t, exec (.gResultLand id) s = .next t ∧
        ((s.ctx r.c).run ≠ .faulted → (t.ctx r.c).run = .faulted ∧
          (t.ctx r.c).cause.extractLsb' 0 8 = Cause.gdepth.code))) ∧
    (r.kind = .unit .genter a b bs → n < 256 → s.live n = true →
      exec (.gResultLand id) s =
        .next ((s.modCtx r.c fun x => { x with gid := BitVec.ofNat 8 n, orphan := false }).finish r)) ∧
    (∀ refute, r.kind = .unit (.gres refute) a b bs → s.released r .dev = true →
      (n = 0 → exec (.gresComplete id) s = .next (s.form r (err 4) 0#64)) ∧
      (256 ≤ n → exec (.gresComplete id) s = .next (s.form r (err 3) 0#64)) ∧
      (0 < n → n < 256 → s.live n = false → exec (.gresComplete id) s = .next (s.form r (err 1) 0#64)) ∧
      (0 < n → n < 256 → s.live n = true → risingNat s.gambits = true →
        ∃ t, exec (.gresComplete id) s = .next t ∧ t.live n = false ∧
          (∃ q ∈ t.reqs, q.id = id ∧ q.state = .formed ∧ q.res = 0#64) ∧
          (refute = true → s.sameMemory t ∧ ∀ c : CtxRef,
            (t.ctx c).orphan = ((s.ctx c).orphan || under s.gambits n 16 (s.ctx c).gid.toNat)) ∧
          (refute = false → ∀ c : CtxRef,
            (t.ctx c).gid = if (s.ctx c).gid.toNat = n then BitVec.ofNat 8 (s.parent n) else (s.ctx c).gid) ∧
          (refute = true → ∀ v, v ∈ t.versions ↔ v ∈ s.versions ∧ under s.gambits n 16 v.gid.toNat = false) ∧
          (refute = false → s.parent n ≠ n →
            (∀ v ∈ s.versions, ∀ w ∈ s.versions, v.gid = w.gid → v.sector = w.sector → v = w) →
            let p := BitVec.ofNat 8 (s.parent n)
            let mine (v : Version) : Prop := v ∈ s.versions ∧ v.gid.toNat = n
            (∀ v ∈ t.versions, v.gid.toNat ≠ n) ∧
            (∀ v ∈ s.versions, v.gid.toNat ≠ n → (v.gid = p → ∀ w, mine w → w.sector ≠ v.sector) → v ∈ t.versions) ∧
            (s.parent n ≠ 0 → t.dram = s.dram ∧ ∀ v, mine v → { v with gid := p } ∈ t.versions ∧
              ∀ w ∈ t.versions, w.gid = p → w.sector = v.sector → w = { v with gid := p }) ∧
            (s.parent n = 0 → s.dram.wf = true → (∀ v, mine v → v.data.length = 32) →
              (∀ v, mine v → ∀ i < 32, t.dram.get (32 * v.sector + i) = v.data.getD i 0#8) ∧
              ∀ a, (∀ v, mine v → v.sector ≠ a / 32) → t.dram.get a = s.dram.get a))))

/-- R296, R297, R307, R310, R311, R313, R315 to R318: the events of the residency unit, of its fills and of the network
engine. What R307 resolves an expert to; what an XROUTE of one pair leaves in its batch, in the tags and among the
tokens that wait; the room that a fill takes, and what its end leaves in the tags, in the frames of the canopies and in
device memory; a MSG's and an A2A's way to this module and to its peers. (The model's choices: the lowest format code among
usable copies of one width, the 1,024-byte rounding of room and LOC, the side array 1,024 bytes after the frame list, the
spill space's place and that the list is written as the fill ends: log 24. The layout of a PEER message's payload: log 17.
That an error of the unit is its result, or its fault: log 21.) -/
def Obligations.UnitEvents : Prop :=
  (∀ (u : Residency) (h : MapHdr) (p : Policy) (id : Nat) (subs : List Nat),
    let usable (x : Nat) (t : Nat × Tag) : Prop := t ∈ u.tags ∧ t.2.id.toNat = x ∧ t.2.tier = 0 ∧ t.2.state = .resident ∧
      t.2.ver = u.version x
    let best (x : Nat) (ok : Nat → Prop) (t : Nat × Tag) : Prop := usable x t ∧ ok (copyWidth t.2.fmt) ∧
      ∀ y, usable x y → ok (copyWidth y.2.fmt) → copyWidth y.2.fmt < copyWidth t.2.fmt ∨
        copyWidth y.2.fmt = copyWidth t.2.fmt ∧ t.2.fmt ≤ y.2.fmt
    let hits (x k : Nat) : Prop := (∃ t, usable x t ∧ t.2.fmt = p.pref ∧ t.1 = k) ∨
      (∀ t, usable x t → t.2.fmt ≠ p.pref) ∧ p.pmode = true ∧ ∃ t, best x (copyWidth p.pref ≤ ·) t ∧ t.1 = k
    let misses (x : Nat) : Prop := ∀ t, usable x t → t.2.fmt ≠ p.pref ∧ (p.pmode = true → copyWidth t.2.fmt < copyWidth p.pref)
    let narrow (k : Nat) : Prop := ∃ t, best id (· < copyWidth p.pref) t ∧ t.1 = k
    let none_ : Prop := ∀ t, usable id t → copyWidth p.pref ≤ copyWidth t.2.fmt
    let diverts (y k : Nat) : Prop := ∃ xs ys, subs = xs ++ y :: ys ∧ h.has y = true ∧ hits y k ∧
      ∀ x ∈ xs, h.has x = true → misses x
    match u.resolve h p id subs with
    | .hit k => hits id k
    | .degrade k => misses id ∧ 2 ≤ p.miss ∧ narrow k
    | .divert y k => misses id ∧ (p.miss = 1 ∨ 3 ≤ p.miss ∧ none_) ∧ diverts y k
    | .wait => misses id ∧ (2 ≤ p.miss → none_) ∧
        (p.miss = 1 ∨ 3 ≤ p.miss → ∀ y ∈ subs, h.has y = true → misses y)) ∧
  (∀ (u : Residency) (c : Nat) (plan : List Nat) (side loc : Nat) (fs : List (Nat × Nat)),
    u.room c true plan side = some (loc, fs) → u.wsBase % 1024 = 0 →
    loc % 1024 = 0 ∧ u.wsBase ≤ loc ∧ loc + 1024 + side ≤ u.spillBase ∧ fs.length = plan.length ∧
    (∀ t ∈ u.tags, t.2.tier = 0 → t.2.frames ≠ [] → t.2.loc + 1024 + t.2.side ≤ loc ∨ loc + 1024 + side ≤ t.2.loc) ∧
    ∀ (i n : Nat), plan[i]? = some n → ∃ a, fs[i]? = some (a, n) ∧ (n ≠ 0 → a + n ≤ 1024 - c ∧
      ∀ t ∈ u.tags, t.2.tier = 0 → ∀ y, t.2.frames[i]? = some y → y.2 ≠ 0 → a + n ≤ y.1 ∨ y.1 + y.2 ≤ a)) ∧
  (∀ (s : State) (va : Nat) (bs : List Byte) (ps : List (Nat × Nat)), s.dram.wf = true →
    s.unitSpan .write va bs.length = .ok ps →
    ∀ a, (s.resWrite va bs).dram.get a = (lastCell (spanCells ps bs) a).getD (s.dram.get a)) ∧
  (∀ (s t : State) (r : Req) (a b : Nat) (bs tb record : List Byte) (w : DWord) (e : Nat) (tok wt : Word) (h : MapHdr)
    (x : ExpRec), s.route r a b bs = .ok (t, w) →
    let p := policyOf (leAt bs 0 4)
    let rows := bs.drop 4
    let base := leAt rows 64 4 / 512 % 2048 * 512
    let id := base + e
    let table := b % 2 ^ 48
    let en := batchEntry table tb e
    let mc := id / 2 ^ 17 % 8
    tablePairs (a / 2 ^ 32) rows (a / 2 ^ 24 % 256 + 1) = [(e, tok, wt)] → s.mapHdr mc = .ok h → h.has id = true →
    s.expRecOf h id = .ok (x, record) → s.resBytes table 16384 = .ok tb →
    (∀ i < 512, i ≠ e → (batchEntry table tb i).amt = 0) → en.bad = false → en.amt = 0 → risingNat s.resid.tags = true →
    let s1 := s.resUse table 16384
    (∀ k g, 0 < en.cap → lookupNat s.resid.tags k = some g →
      (s.resid.resolve h p id x.subs = .hit k ∨ s.resid.resolve h p id x.subs = .degrade k ∧ p.missFetch = false) →
      let code : Nat := if s.resid.resolve h p id x.subs = .hit k then 1 else 2
      w = BitVec.ofNat 64 (if code = 1 then 2 ^ 48 else 2 ^ 36) ∧
      t.dram = ((s1.resWrite en.list (leBytes 4 wt.toNat ++ leBytes 4 tok.toNat)).resWrite (en.va + 16)
        (leBytes 4 (code * 2 ^ 28 + g.fmt * 2 ^ 24 + (if g.ver then 2 ^ 23 else 0) + 1) ++ leBytes 4 g.id.toNat ++
          leBytes 8 g.loc)).dram ∧
      lookupNat t.resid.tags k = some (if (r.task.any fun y => !s.taskGone y.launch r.taskNum) = true then
        { g with ref := g.ref + 1, age := (s.resid.age + 1) % 2 ^ 21, scout := false } else g)) ∧
    (s.resid.resolve h p id x.subs = .wait → (x.copy? p.pref).isSome = true → 0 < en.cap → s.resid.waits = [] →
      0 < s.resid.spillPlaces → s.resid.fetching id p.pref true = none →
      w = BitVec.ofNat 64 (2 ^ 12) ∧ ∃ f, t.resid.fetching id p.pref true = some f ∧ f.record = record ∧
        t.resid.waits = [⟨f.id, r.task.map fun y => y.launch, en.va, en.list, 0, en.task, r.taskNum, [(tok, wt)]⟩] ∧
        Instr.fetchStart f.id ∈ t.agenda)) ∧
  ∀ (s : State) (id : Nat),
    (∀ r, s.req? id = some r → r.state = .waiting →
      (∀ a b bs, r.kind = .unit .xroute a b bs → s.residReady r = true →
        (∀ t w, s.route r a.toNat b.toNat bs = .ok (t, w) →
          exec (.xrouteServe id) s = .next ((t.putReq { r with state := .served, res := w }).due (.gResultLand id))) ∧
        (∀ e, s.route r a.toNat b.toNat bs = .error e → exec (.xrouteServe id) s = .next (s.resFails r e))) ∧
      (∀ bell n a b bs causes, r.kind = .unit (.msg bell n) a b bs → s.netReady r = true → s.unitWaits id = false →
        let va := (a.extractLsb' 0 48).toNat
        let m := (a.extractLsb' 48 3).toNat
        let ring : Option Nat := if bell then some ((va + n) % 2 ^ 48) else none
        let result (t : State) (c : BitVec 4) : Prop :=
          exec (.msgDelivered id causes) s = .next (t.form r (0x8000000000000000#64 ||| c.setWidth 64) 0#64)
        (a.extractLsb' 51 13 ≠ 0#13 → result s 8#4) ∧
        (a.extractLsb' 51 13 = 0#13 →
          (m = s.peers.own.val →
            (∀ t x, s.deliver va bs ring = (.ok x, t) →
              exec (.msgDelivered id causes) s = .next ((t.sink (r.task.map fun t => t.launch)).form r 0#64 0#64)) ∧
            (∀ t code detail, s.deliver va bs ring = (.bad code detail, t) → result t 2#4) ∧
            (∀ t, s.deliver va bs ring = (.host, t) → r.pageFailed ≠ [] → result t 2#4) ∧
            ∀ t a, s.deliver va bs ring = (.ecc a, t) →
              exec (.msgDelivered id causes) s = .next (t.unitFault r 0x6#4 0x0E#8 0x00#8 a)) ∧
          (m ≠ s.peers.own.val → s.peers.members.getLsbD m = false → result s 1#4) ∧
          (m ≠ s.peers.own.val → s.peers.members.getLsbD m = true → s.peerAssoc m = none → result s 4#4) ∧
          (∀ dst, m ≠ s.peers.own.val → s.peers.members.getLsbD m = true → s.peerAssoc m = some dst →
            exec (.msgDelivered id causes) s = .next (({ s with
              netWaits := s.netWaits ++ [NetWait.mk id (BitVec.ofNat 8 (2 ^ m)) 0#4 0#8] }.putReq { r with state := .served }).send
                dst 0x09#8 (leBytes 8 id ++ leBytes 8 va ++ leBytes 8 (ring.getD (2 ^ 64 - 1)) ++ bs))))) ∧
      (∀ a b bs causes failed ps va t, r.kind = .unit .a2a a b bs → s.netReady r = true → s.unitWaits id = false →
        let w := recOf bs
        let from_ := (w[1].toNat + 2 ^ 32 * w[2].toNat) % 2 ^ 48
        let n := a2aTotal w
        s.a2aHost w = none → s.transSpan none .read from_ (n / 65536 + 2) n [] = (.inr ps, va, t) →
        t.inPipe from_ n = false → (∀ p ∈ ps, t.isBad .dram p.1 p.2 = false) →
        let y := (t.readPieces 0#8 ps).2.a2aRun id w (t.readPieces 0#8 ps).1 (a2aPeers w) ⟨id, 0#8, 0#4, 0#8⟩ none
        let away (p : Nat) : Prop := p ≠ s.peers.own.val ∧ s.peers.members.getLsbD p = true ∧ s.peerAssoc p ≠ none
        (∀ p < 8, y.1.peers.getLsbD p = true ↔ w[0].getLsbD (16 + p) = true ∧ away p) ∧
        (∀ p < 8, y.1.failed.getLsbD p = true → w[0].getLsbD (16 + p) = true ∧ ¬ away p) ∧
        let z := y.2.2
        (∀ a, y.2.1 = some a →
          exec (.a2aDelivered id causes failed) s = .next (z.unitFault r 0x6#4 0x0E#8 0x00#8 a)) ∧
        (y.2.1 = none → y.1.peers = 0#8 → ∃ u, exec (.a2aDelivered id causes failed) s =
          .next (u.form r (netResult y.1.causes y.1.failed) 0#64) ∧
            u = (if y.1.causes = 0#4 then z.sink (r.task.map fun t => t.launch) else z)) ∧
        (y.2.1 = none → y.1.peers ≠ 0#8 → exec (.a2aDelivered id causes failed) s =
          .next ({ z with netWaits := z.netWaits ++ [y.1] }.putReq { r with state := .served })))) ∧
    (∀ r (causes : BitVec 4) (failed : BitVec 8), s.req? id = some r → r.state = .served →
      (∀ w ∈ s.netWaits, w.id ≠ id) →
      let u := if causes = 0#4 then s.sink (r.task.map fun t => t.launch) else s
      (∀ bell n a b bs, r.kind = .unit (.msg bell n) a b bs →
        exec (.msgDelivered id causes) s = .next (u.form r (netResult causes 0#8) 0#64)) ∧
      ∀ a b bs, r.kind = .unit .a2a a b bs →
        exec (.a2aDelivered id causes failed) s = .next (u.form r (netResult causes failed) 0#64)) ∧
    ∀ f, s.resid.fills.find? (fun f => f.id == id) = some f →
      (f.going = false → f.reason = 0 → s.unitWaits id = false → s.fetchReady id = true →
        exec (.fetchStart id) s = .next (s.startFill f) ∧
        ∀ plan side k g loc fs, s.fillSize f = .ok (plan, side) → f.tag = some k → lookupNat s.resid.tags k = some g →
          s.resid.room s.canopyC f.canopy plan side = some (loc, fs) → risingNat s.resid.tags = true →
          lookupNat (s.startFill f).resid.tags k = some { g with loc := loc, frames := fs, side := side } ∧
            Instr.fetchComplete id ∈ (s.startFill f).agenda) ∧
      (f.reason ≠ 0 → exec (.fetchFail id) s = .next (s.failFill f f.reason) ∧
        (∀ x ∈ (s.failFill f f.reason).resid.fills, x.id ≠ id) ∧
        (∀ k, f.tag = some k → risingNat s.resid.tags = true → lookupNat (s.failFill f f.reason).resid.tags k = none)) ∧
      (∀ k g bs, f.tag = some k → lookupNat s.resid.tags k = some g → f.going = true → f.reason = 0 →
        s.unitWaits id = false → s.fillData f = .ok (bs, false) →
        bs.length = imageBytes (g.frames.map fun x => x.2) g.side →
        let t := s.endFill f k g bs false
        exec (.fetchComplete id) s = .next t ∧
        (g.tier = 0 → g.state = .fetching → g.frames.length = 64 → (∀ w ∈ s.resid.waits, w.fill ≠ id) →
          risingNat s.resid.tags = true → s.resWritable g.loc (1024 + g.side) = .ok () →
          (∀ c : Fin 64, (s.core c).canopy.wf = true) →
          let before (i : Nat) : Nat := 16384 * ((g.frames.take i).map fun x => x.2).foldl (· + ·) 0
          lookupNat t.resid.tags k = some { g with state := .resident, age := (s.resid.age + 1) % 2 ^ 21 } ∧
          (∀ x ∈ t.resid.fills, x.id ≠ id) ∧
          (∀ (c : Fin 64) (a : Nat), (t.core c).canopy.get a =
            match g.frames[c.val]? with
            | some x => if 16384 * x.1 ≤ a ∧ a < 16384 * (x.1 + x.2) then bs.getD (before c.val + (a - 16384 * x.1)) 0#8
              else (s.core c).canopy.get a
            | none => (s.core c).canopy.get a) ∧
          (let list := (g.frames.flatMap fun x => leBytes 8 (x.2 * 2 ^ 16 + x.1)) ++ leBytes 8 (g.loc + 1024)
           t.dram = (s.resWrite g.loc (list ++ List.replicate 504 0#8 ++ bs.drop (before g.frames.length))).dram)))

/-! ## The host link and the platform -/

/-- R164, R387, R408 to R417: what the module does with each message of an open host association, its firmware
running, when it acts on it: as the message's last datagram comes, or in the turn of one that waited. A WRITE or READ
that waits for no launch is performed at once; a WRITE of a physical address puts its bytes there, and leaves every
other byte, unit by unit where an open choice has it so (R147; log 5). A HELLO opens an association: sequence numbers
begin at 0. A READ of a handle waits for its writer and for WRITEs of it that wait, and gives the bytes; the host's WRITE of
a POISONED handle ends that, a peer's does not (R38). (Payload layouts that the spec leaves open, such as HELLO's, are the
model's, and that a datagram of a known type on which the module does not act has no effect: log 17.) -/
def Obligations.HostMessages : Prop :=
  (∀ (s : State) (m : FltMsg), headerBad m.payload = false → (header m.payload).last = true →
    (header m.payload).seq = 0#32 → (header m.payload).type = 0x01#8 →
    let bs := m.payload.drop 24
    let refused := match peerOfAssoc m.assoc with
      | some p => s.hasPeer p.val = false
      | none => s.assocs[m.assoc] = none ∧ 4 ≤ s.hostCount
    ∃ t, exec (.hello m) s = .next t ∧ t.standby = false ∧
      (refused → s.assocs[m.assoc] = none → t.assocs = s.assocs) ∧
      (¬ refused → helloMinor bs = none → t.assocs[m.assoc] = none) ∧
      ∀ n, ¬ refused → helloMinor bs = some n → ∃ y, t.assocs[m.assoc] = some y ∧ y.opened = true ∧ y.major = 1 ∧
        y.minor = n ∧ y.peer = peerOfAssoc m.assoc ∧ y.rxSeq = 1#32 ∧ y.txSeq = 1#32 ∧ y.part = none ∧
        y.unacked.map (fun u => u.out) =
          [⟨m.assoc, 0x81#8, 1#8, BitVec.ofNat 8 n, 0#32, true, [1#8, BitVec.ofNat 8 n]⟩]) ∧
  ∀ (s u : State) (m p : FltMsg), u.hostOpen m.assoc = true → u.firmwareUp = true →
    let x := locator p.payload
    let gives (type : BitVec 8) (i : Instr) (t : State) : Prop := s.takes type anyTime m = some (u, p) → exec i s = .next t
    (locatorBad true p.payload = true → gives 0x03#8 (.write m) (u.reply p 0x83#8 2 [])) ∧
    (locatorBad true p.payload = false → (x.space = 0 → u.launchesOn x.handle = []) →
      gives 0x03#8 (.write m) (u.performWrite p)) ∧
    (locatorBad true p.payload = false → x.space = 0 → u.launchesOn x.handle ≠ [] →
      gives 0x03#8 (.write m) ({ u with deferred := u.deferred ++
        [Deferred.write p x.handle (u.launchesOn x.handle)] }.due (.writeDeferredStart m.assoc m.msgId))) ∧
    (locatorBad false p.payload = true →
      gives 0x04#8 (.read m) (u.sendAs x.stream m.assoc 0x84#8 (leBytes 4 2))) ∧
    (locatorBad false p.payload = false →
      let writer : List (Fin 256) := if x.space = 0 then ((lookupNat u.handles x.handle).bind fun h => h.writer).toList else []
      let behind : Prop := x.space = 0 ∧ ∃ d ∈ u.deferred,
        (∃ q ws, d = Deferred.write q x.handle ws) ∨ ∃ q us, d = Deferred.writing q (some x.handle) us
      (writer = [] → ¬ behind → gives 0x04#8 (.read m) (u.performRead p)) ∧
      (writer ≠ [] ∨ behind → gives 0x04#8 (.read m) ({ u with deferred := u.deferred ++
        [Deferred.read p x.handle writer] }.due (.readDeferredStart m.assoc m.msgId)))) ∧
    (x.space = 2 → x.addr + x.count ≤ 2 ^ 38 → (u.choose 2).1 = 0 → u.isBad .dram x.addr x.count = false →
      ∃ v : State, u.performRead p = v.sendAs x.stream p.assoc 0x84#8
        (leBytes 4 0 ++ (List.range x.count).map fun i => u.dram.get (x.addr + i)) ∧ u.sameMemory v) ∧
    (x.space = 2 → 2 ^ 38 < x.addr + x.count → u.performRead p = u.sendAs x.stream p.assoc 0x84#8 (leBytes 4 1)) ∧
    (locatorBad true p.payload = false → x.space = 0 → u.launchesOn x.handle = [] → (u.located x).isSome = true →
      ((u.locWalks x).choose 2).1 = 0 → s.takes 0x03#8 anyTime m = some (u, p) →
      ∃ t, exec (.write m) s = .next t ∧ ∀ h y, lookupNat u.handles h = some y → lookupNat t.handles h =
        some (if h = x.handle ∧ peerOfAssoc p.assoc = none then { y with poisoned := false } else y)) ∧
    (locatorBad true p.payload = false → x.space = 2 → x.addr + x.count ≤ 2 ^ 38 → s.dram.wf = true →
      s.takes 0x03#8 anyTime m = some (u, p) →
      let data (o : Nat) : Byte := (p.payload.drop 24).getD o 0#8
      ((u.choose 2).1 = 0 → ∃ t, exec (.write m) s = .next t ∧ ∀ a, t.dram.get a =
        if x.addr ≤ a ∧ a < x.addr + x.count then data (a - x.addr) else s.dram.get a) ∧
      ((u.choose 2).1 ≠ 0 → 0 < x.count → ∃ t lo n, exec (.write m) s = .next t ∧ lo / 8 = (lo + n - 1) / 8 ∧ 0 < n ∧
        x.addr ≤ lo ∧ lo + n ≤ x.addr + x.count ∧
        (lo % 8 = 0 ∨ lo = x.addr) ∧ ((lo + n) % 8 = 0 ∨ lo + n = x.addr + x.count) ∧
        ∀ a, t.dram.get a = if lo ≤ a ∧ a < lo + n then data (a - x.addr) else s.dram.get a)) ∧
    (findDeferred (m.assoc, m.msgId) Deferred.isFence s.deferred = none → anyOf m.assoc u.deferred = false →
      (let w := u.fenceMarks (fenceNames p.payload)
       u.fencePerformed (.fence p w.1 w.2.1 w.2.2) = true) →
      gives 0x05#8 (.fence m) (u.reply p 0x85#8 0 [])) ∧
    (∀ i ∈ [Instr.reset m, .abort m],
      (u.teardownStatus p.payload ≠ 0 → gives 0x07#8 i (u.reply p 0x87#8 (u.teardownStatus p.payload) [])) ∧
      (u.teardownStatus p.payload = 0 → gives 0x07#8 i
        ((u.reply p 0x87#8 0 []).tearDown (Fin.ofNat 256 (leAt p.payload 0 4)) ((leAt p.payload 0 4).testBit 8)))) ∧
    (s.takes 0x02#8 launchRoom m = some (u, p) →
      (framingBad p.payload = true →
        exec (.launch m) s = .next (u.send m.assoc 0x82#8 [0xFF#8, 0xFF#8, 0xFF#8, 0xFF#8])) ∧
      ∀ n, framingBad p.payload = false → u.freeLaunch = some n → exec (.launch m) s = .next (u.takeLaunch n p)) ∧
    (∀ w : BitVec 8, (header m.payload).type = w → (w = 0x06#8 ∨ (w = 0x01#8 ∨ w = 0x81#8) ∧ (header m.payload).seq ≠ 0#32 ∨
        (w = 0x09#8 ∨ w = 0x89#8) ∧ peerOfAssoc m.assoc = none) →
      gives w (.fltUnknownType m) u) ∧
    ∀ type : BitVec 8, (header m.payload).type = type → 9 < type.toNat → type ≠ 0x81#8 → type ≠ 0x89#8 →
      gives type (.fltUnknownType m) (u.moduleEvent 0x0F (leBytes 4 type.toNat))

/-- R164, R407, R409 to R411, R413, R416, R417: datagrams, peers' messages, deferred messages, acknowledgements,
retransmission, gates and TLB invalidation. A datagram with a bad header or of another major is dropped, one received
before is dropped and acknowledged again, and the fragments of a message make it up; a message that may not be acted on
yet waits. (The model's choices: the payloads of PEER and of acknowledgements, that a duplicate counts for the next
acknowledgement and that error bit 1 answers a PEER whose page waits for the host, log 17; the place in which a message
waits, log 35.) -/
def Obligations.LinkEvents : Prop :=
  ∀ (s : State) (m : FltMsg) (a : Fin 16) (x : Assoc),
    (∀ type, s.takes type anyTime m = none →
      ∀ i ∈ (match type with
        | 0x03#8 => [Instr.write m] | 0x04#8 => [.read m] | 0x07#8 => [.reset m, .abort m]
        | 0x08#8 => [.mgmtHandle m, .mgmtPower m, .mgmtSensors m] | _ => ([] : List Instr)),
        exec i s = .next (s.keeps type m)) ∧
    (∀ type bs, s.parked m = none → s.receipt m = .whole bs → (header m.payload).type = type →
      let u := s.received m
      (u.mayAct u.inbox m.assoc = true → s.takes type anyTime m = some (u, { m with payload := bs })) ∧
      (u.mayAct u.inbox m.assoc = false → s.takes type anyTime m = none ∧
        s.keeps type m = { u with inbox := u.inbox ++ [(m, bs)] })) ∧
    (∀ type bs, s.parked m = some bs → s.mayAct (parkedBefore m s.inbox) m.assoc = true →
      s.takes type anyTime m = some ({ s with inbox := s.inbox.filter fun y => y.1 != m }, { m with payload := bs })) ∧
    (s.assocs[a] = some x → m.assoc = a →
      let h := header m.payload
      let body := m.payload.drop 24
      let old := (x.part.map fun y => y.2).getD []
      let after (f : Assoc → Prop) : Prop := ∃ y, (s.received m).assocs[a] = some y ∧ f y
      (headerBad m.payload = true ∨ x.opened = false ∨ h.major ≠ x.major → s.receipt m = .dropped ∧ s.received m = s) ∧
      (headerBad m.payload = false → x.opened = true → h.major = x.major →
        (h.seq ≠ x.rxSeq → (h.seq - x.rxSeq).msb = true → s.receipt m = .again ∧
          after fun y => y.rxSeq = x.rxSeq ∧ y.part = x.part ∧ y.rxUnacked = x.rxUnacked + 1) ∧
        (h.seq ≠ x.rxSeq → (h.seq - x.rxSeq).msb = false → s.receipt m = .early ∧ s.received m = s) ∧
        (h.seq = x.rxSeq → (∀ y, x.part = some y → y.1 = h.type) →
          (h.last = false → s.receipt m = .part ∧
            after fun y => y.rxSeq = x.rxSeq + 1#32 ∧ y.part = some (h.type, old ++ body) ∧ y.rxUnacked = x.rxUnacked + 1) ∧
          (h.last = true → s.receipt m = .whole (old ++ body) ∧
            after fun y => y.rxSeq = x.rxSeq + 1#32 ∧ y.part = none ∧ y.rxUnacked = x.rxUnacked + 1)))) ∧
    (∀ u p q, peerOfAssoc m.assoc = some q → s.takes (header m.payload).type anyTime m = some (u, p) →
      u.firmwareUp = true →
      ((header m.payload).type = 0x09#8 →
        let bell := leAt p.payload 16 8
        ∀ t c, u.deliver (leAt p.payload 8 8 % 2 ^ 48) (p.payload.drop 24)
            (if bell = 2 ^ 64 - 1 then none else some (bell % 2 ^ 48)) = (c, t) →
          exec (.peer m) s = .next (t.send m.assoc 0x89#8 (leBytes 8 (leAt p.payload 0 8) ++
            [match c with | .ok _ => 0#8 | _ => 2#8, 0#8, 0#8, 0#8]))) ∧
      ((header m.payload).type = 0x89#8 → ∀ w, (u.netWaits.filter fun w => w.id == leAt p.payload 0 8) = [w] →
        w.peers.getLsbD q.val = true →
        let c := BitVec.ofNat 4 (leAt p.payload 8 4)
        let y : NetWait := ⟨w.id, w.peers &&& ~~~ BitVec.ofNat 8 (2 ^ q.val), w.causes ||| c,
          if c = 0#4 then w.failed else w.failed ||| BitVec.ofNat 8 (2 ^ q.val)⟩
        ∃ t, exec (.peer m) s = .next t ∧
          (y.peers ≠ 0#8 → y ∈ t.netWaits ∧ t.agenda = u.agenda) ∧
          (y.peers = 0#8 → (∀ z ∈ t.netWaits, z.id ≠ w.id) ∧ ∀ r v1 v2 bs, u.req? w.id = some r →
            (∀ bell n, r.kind = .unit (.msg bell n) v1 v2 bs → Instr.msgDelivered w.id y.causes ∈ t.agenda) ∧
            (r.kind = .unit .a2a v1 v2 bs → Instr.a2aDelivered w.id y.causes y.failed ∈ t.agenda)))) ∧
    (∀ before p h ws, findDeferred (m.assoc, m.msgId) Deferred.isWrite s.deferred = some (before, .write p h ws) →
      s.mayStart (m.assoc, m.msgId) Deferred.isWrite = true →
      exec (.writeDeferredStart m.assoc m.msgId) s =
        .next ((s.dropDeferred (m.assoc, m.msgId) Deferred.isWrite).performWrite p)) ∧
    (∀ before p h ws, findDeferred (m.assoc, m.msgId) Deferred.isRead s.deferred = some (before, .read p h ws) →
      s.mayStart (m.assoc, m.msgId) Deferred.isRead = true →
      exec (.readDeferredStart m.assoc m.msgId) s =
        .next ((s.dropDeferred (m.assoc, m.msgId) Deferred.isRead).performRead p)) ∧
    (∀ before p base n, findDeferred (m.assoc, m.msgId) Deferred.isInvalidate s.deferred =
        some (before, .invalidate p base n) →
      ∃ t : State, exec (.tlbInvalidateComplete m.assoc m.msgId) s = .next (t.answer p 0 []) ∧
        (∀ (c : Fin 64), ∀ e ∈ (t.core c).tlb, e.va + 2 ^ e.bits ≤ base ∨ base + n ≤ e.va) ∧
        ∀ (g : Fin 8), ∀ e ∈ t.campTlb[g], e.va + 2 ^ e.bits ≤ base ∨ base + n ≤ e.va) ∧
    (s.assocs[a] = some x →
      (∀ n, ∃ t y, exec (.acknowledgement a n) s = .next t ∧ t.assocs[a] = some y ∧
        y.unacked = x.unacked.filter fun u => !decide (0 < (BitVec.ofNat 32 n - u.out.seq).toInt)) ∧
      (0 < x.rxUnacked → (16 ≤ x.rxUnacked ∨ x.rxSince + 20000 ≤ s.gptp) →
        ∃ t : State, exec (.ackTimer a) s = .next (t.transmit 0
            ⟨a, 0x00#8, BitVec.ofNat 8 x.major, BitVec.ofNat 8 x.minor, x.txSeq, true, []⟩) ∧
          t.assocs = s.assocs.set a (some { x with rxUnacked := 0 })) ∧
      (let late (u : Unacked) : Prop := ∃ t, u.sentAt = some t ∧ t + 100000 ≤ s.gptp
       ((∃ u ∈ x.unacked, late u ∧ 64 ≤ u.retries) →
        ∃ t, exec (.retransmitTimeout a) s = .next t ∧ t.assocs[a] = none) ∧
       ((∃ u ∈ x.unacked, late u) → (∀ u ∈ x.unacked, late u → u.retries < 64) →
        ∃ t y, exec (.retransmitTimeout a) s = .next t ∧ t.assocs[a] = some y ∧
          y.unacked.map (fun u => (u.out, u.kind)) = x.unacked.map (fun u => (u.out, u.kind)) ∧
          ∀ (i : Nat) (u v : Unacked), x.unacked[i]? = some u → y.unacked[i]? = some v →
            (late u → v.retries = u.retries + 1) ∧ (¬ late u → v.retries = u.retries)))) ∧
    ∀ (p : Fin 2) (q : Fin 8) (before after : List (Fin 8 × BitVec 3 × OutMsg)) (prio : BitVec 3) (w : OutMsg),
      s.ports[p].open_ q s.gptp = true → s.ports[p].waiting = before ++ (q, prio, w) :: after → (∀ y ∈ before, y.1 ≠ q) →
      let ack := (s.assocs[w.assoc]).bind fun y => if y.opened then some y.rxSeq else none
      ∃ t, exec (.tsnGateTransmit p q) s = .next t ∧
        t.ports = s.ports.set p { s.ports[p] with waiting := before ++ after } ∧
        t.sent = s.sent ++ [⟨p, prio, w.assoc, w.header ack s.gptp ++ w.payload⟩] ∧
        t.inbox = s.inbox ∧ t.agenda = s.agenda ∧ t.dram = s.dram ∧ t.cores = s.cores

/-- R421, Tables 5 and 6: the settings. One from an association that is not a host's open one changes nothing; a
malformed payload is answered 2 and a refused setting 1, form by form; an accepted one has its effect and is answered
0. (The model's choices: status 2 for a value out of range and status 1 without firmware, log 33; that the data pointer of
an NVMe admin command must be 0, log 17; the byte order, the padding and the certificate of Attest, log 10.) -/
def Obligations.ManagementSettings : Prop :=
  ∀ (s u : State) (m p : FltMsg), s.takes 0x08#8 anyTime m = some (u, p) →
    let bs := p.payload
    let f := mgmtField bs
    let ok (code need : Nat) (fields : List (Nat × Nat)) : Prop :=
      u.hostOpen m.assoc = true ∧ u.firmwareUp = true ∧ mgmtBad code need fields bs = false
    let done (i : Instr) (t : State) : Prop := exec i s = .next (t.answer p 0 [])
    let forms : List Instr := [.mgmtHandle m, .mgmtCanopyPartition m, .mgmtModelBind m, .mgmtResidency m,
      .mgmtProductKey m, .mgmtDispatch m, .mgmtTranslation m, .mgmtTlbInvalidate m, .mgmtPageResolve m,
      .mgmtDebugResume m, .mgmtPeerSet m, .mgmtLink m, .mgmtPower m, .mgmtSensors m, .mgmtAttest m,
      .mgmtFirmwareUpdate m, .mgmtNvmeAdmin m]
    (∀ (v : State) (status : Nat) (fields : List Byte), v.answer p status fields = v.send p.assoc 0x88#8
      (leBytes 4 (2 ^ 24 + leAt bs 2 1 * 2 ^ 16 + leAt bs 1 1 * 2 ^ 8 + status) ++ leBytes 4 fields.length ++ fields)) ∧
    (∀ y ∈ forms.zip (settings u p),
      let malformed : Bool := mgmtBad y.2.code (max 8 y.2.need) y.2.fields bs || y.2.bad
      (u.hostOpen m.assoc = false → exec y.1 s = .next u) ∧
      (u.hostOpen m.assoc = true → malformed = true → exec y.1 s = .next (u.answer p 2 [])) ∧
      (u.hostOpen m.assoc = true → malformed = false →
        (y.2.ok = false ∨ u.firmwareUp = false ∧ y.2.code ≠ 0x0E ∧ y.2.code ≠ 0x10) →
        exec y.1 s = .next (u.answer p 1 []))) ∧
    (ok 1 30 [(0, 32), (64, 48), (128, 48)] → f 64 48 % 65536 = 0 → f 128 48 % 65536 = 0 →
      u.launchesOn (f 0 32) = [] → (∀ l ∈ u.launches, l.2.admitted = true → l.2.image ≠ f 0 32) →
      ∃ t, done (.mgmtHandle m) t ∧
        (f 128 48 = 0 → t.handles = eraseNat (f 0 32) u.handles) ∧
        (f 128 48 ≠ 0 → ∃ h, lookupNat t.handles (f 0 32) = some h ∧ h.base = f 64 48 ∧ h.length = f 128 48)) ∧
    (ok 2 10 [(0, 10)] → f 0 10 % 16 = 0 → f 0 10 ≤ 512 → u.noLaunch = true → u.noCanopyFill = true →
      ∃ t, done (.mgmtCanopyPartition m) t ∧ t.canopyC = f 0 10) ∧
    (ok 3 22 [(0, 3), (8, 1), (64, 48)] → u.modelFree (f 0 3 % 8) = true →
      (f 8 1 = 1 → f 64 48 = 0 → (u.resid.bases[Fin.ofNat 8 (f 0 3)]).isSome = true →
        done (.mgmtModelBind m) (u.clearModel (Fin.ofNat 8 (f 0 3)) none)) ∧
      (f 8 1 ≠ 1 → u.resid.bases[Fin.ofNat 8 (f 0 3)] = none →
        done (.mgmtModelBind m) (u.clearModel (Fin.ofNat 8 (f 0 3)) (some (f 64 48))))) ∧
    (ok 4 40 [(0, 48), (64, 64), (128, 48), (192, 64)] → (∀ y ∈ [f 0 48, f 64 64, f 128 48, f 192 64], y % 65536 = 0) →
      (∀ i : Fin 8, u.resid.bases[i] = none) → done (.mgmtResidency m) { u with resid := { u.resid with
        wsBase := f 0 48, wsSize := f 64 64, rgBase := f 128 48, rgSize := f 192 64 } }) ∧
    (ok 5 38 [(0, 48), (64, 48), (128, 48), (192, 21), (224, 3), (232, 1)] → f 0 48 % 4096 = 0 → f 64 48 % 4096 = 0 →
      f 128 48 % 4096 = 0 → 0 < f 192 21 → f 192 21 ≤ 2 ^ 20 → f 224 3 ≤ 4 → u.pkIdle = true →
      f 192 21 * (128 * 2 ^ f 224 3) * (if f 232 1 = 1 then 4 else 2) ≤ 2 ^ 32 →
      done (.mgmtProductKey m) { u with
        pk := some ⟨f 0 48, f 64 48, f 128 48, f 192 21, 128 * 2 ^ f 224 3, f 232 1 == 1⟩ }) ∧
    (ok 6 10 [(0, 9), (64, 48), (128, 64)] → f 8 1 ≠ 1 →
      done (.mgmtDispatch m) { u with bypass := BitVec.ofNat 8 (f 0 8) }) ∧
    (ok 6 32 [(0, 9), (64, 48), (128, 64)] → f 8 1 = 1 → f 64 48 % 65536 = 0 →
      (∀ l ∈ u.launches, l.2.admitted = true → l.2.pclass ≠ 0) →
      done (.mgmtDispatch m) { u with bypass := BitVec.ofNat 8 (f 0 8), poolBase := f 64 48, poolSize := f 128 64 }) ∧
    (ok 7 13 [(0, 38)] → f 0 38 % 4096 = 0 → u.noLaunch = true →
      done (.mgmtTranslation m) { u with root := some (f 0 38) }) ∧
    (ok 8 22 [(0, 48), (64, 48)] → exec (.mgmtTlbInvalidate m) s = .next ({ u with deferred :=
      u.deferred ++ [Deferred.invalidate p (f 0 48) (f 64 48)] }.due (.tlbInvalidateComplete m.assoc m.msgId))) ∧
    (∀ w, ok 9 13 [(0, 32), (32, 1)] → (u.walks.find? fun w => w.fault == some (BitVec.ofNat 32 (f 0 32))) = some w →
      done (.mgmtPageResolve m) (if f 32 1 = 0 then u.retryWalk w else u.failWalk w)) ∧
    (∀ c, ok 0x0A 16 [(0, 8), (32, 28)] → u.brokenAt (f 0 8) (f 32 28) = some c →
      ∃ t, done (.mgmtDebugResume m) t ∧ (t.ctx c).run = .ready) ∧
    (ok 0x0B 258 peerFields → u.netIdle = true → ∃ t, done (.mgmtPeerSet m) t ∧ t.peers.own.val = f 0 3 ∧
      t.peers.members = BitVec.ofNat 8 (f 8 8) ∧
      ∀ q : Fin 8, ((BitVec.ofNat 8 (f 8 8)).getLsbD q.val = false ∨ q.val = f 0 3) →
        t.assocs[(Fin.ofNat 16 (8 + q.val) : Fin 16)] = none) ∧
    (ok 0x0C (32 + 8 * gateCount bs) (linkFields bs) → 0 < gateCount bs → gateCount bs ≤ 256 → 1000 ≤ f 128 32 →
      f 128 32 ≤ 1000000000 → ∃ t, done (.mgmtLink m) t ∧ ∀ i : Fin 2,
        t.ports[i] = if (f 0 2).testBit i.val then u.ports[i].linked bs else u.ports[i]) ∧
    (ok 0x0D 11 [(0, 9), (16, 2)] → f 0 9 % 5 = 0 → 150 ≤ f 0 9 → f 0 9 ≤ 380 →
      (f 16 2 = 0 → done (.mgmtPower m) { u with limitW := f 0 9 }) ∧
      (f 16 2 = 1 → u.noLaunch = true → u.noCanopyFill = true → u.gambits = [] →
        ∃ t, done (.mgmtPower m) t ∧ t.standby = true ∧ t.limitW = f 0 9 ∧
          ∀ c : Fin 64, (t.core c).tlb = [] ∧ (t.core c).icache = [] ∧ (t.core c).l1 = [])) ∧
    (ok 0x0E 8 [] → let v := u.measure
      exec (.mgmtSensors m) s = .next (v.answer p 0
        (leBytes 2 v.sensors.junction.toNat ++ leBytes 2 v.sensors.board.toNat ++ leBytes 4 v.sensors.power.toNat ++
          leBytes 8 v.mhz ++ leBytes 8 v.sensors.corrected.toNat ++ leBytes 8 v.sensors.uncorrected.toNat)) ∧
      v = { u with sensors := v.sensors, choices := v.choices } ∧ (u.choices = [] → v = u)) ∧
    (ok 0x0F 40 [(0, 256)] → let body := u.attested ((bs.drop 8).take 32)
      ∃ sig key cert : List Byte, exec (.mgmtAttest m) s = .next (u.answer p 0 (body ++ sig ++ key ++ cert)) ∧
        sig = beBytes 512 (deviceKey.sign body) ∧ key = beBytes 512 deviceKey.modulus ∧
        cert = beBytes 512 (firmwareKey.sign key)) ∧
    (ok 0x10 (24 + f 64 32) [(0, 1), (32, 32), (64, 32), (128, 8 * f 64 32)] → 0 < f 64 32 → f 64 32 ≤ 8192 →
      u.fwSlot ≠ some (Fin.ofNat 2 (f 0 1)) → done (.mgmtFirmwareUpdate m) { u with
        firmware := u.firmware.set (Fin.ofNat 2 (f 0 1)) ((u.firmware[Fin.ofNat 2 (f 0 1)]).setBytes (f 32 32)
          ((bs.drop 24).take (f 64 32))) }) ∧
    (ok 0x11 80 [(0, 2), (64, 512), (576, 32768)] → leAt bs 40 16 = 0 →
      (∀ k : Fin 64, ∀ e ∈ (u.core k).allElems, e.2.onDrive (f 0 2) = false) →
      ∃ (t : State) (out : List Byte), exec (.mgmtNvmeAdmin m) s = .next (t.answer p 0 out) ∧ t = { u with fresh := t.fresh })

/-- R14, R404, R416, R418, R422, R423: the device controller. A clock change holds issue for at most 2 µs, and the
controller lowers the clock only below the maximum power setting; the shutdown temperature takes the power; and a
device reset leaves every context as reset leaves it, no translation root, no association, no launch and no gambit,
and keeps the gPTP time, the firmware slots and the drives. (The model's choices: that a reset gives 380 W and 2,100 MHz,
log 1; that a device without power is given no step until a device reset, and that the reset keeps the gPTP time, log
32.) -/
def Obligations.PlatformEvents : Prop :=
  ∀ (s : State) (mhz : Nat),
    (1000 ≤ mhz → mhz ≤ 2100 → mhz % 100 = 0 → (s.mhz < mhz ∨ mhz < s.mhz ∧ s.limitW < 380) → ∃ t, exec (.clockChange mhz) s = .next t ∧ t.mhz = mhz ∧
      (∀ c : Fin 64, max (s.core c).nextAt s.cycle ≤ (t.core c).nextAt ∧
        (t.core c).nextAt ≤ max (s.core c).nextAt s.cycle + 2 * mhz) ∧
      (∀ c : CtxRef, t.ctx c = s.ctx c) ∧ s.sameMemory t) ∧
    (mhz < s.mhz → 380 ≤ s.limitW → exec (.clockChange mhz) s = .next s) ∧
    (∃ t, exec .thermalThrottle s = .next t ∧ t.mhz = 1000 ∧ (∀ c : CtxRef, t.ctx c = s.ctx c) ∧ s.sameMemory t) ∧
    (∃ t, exec .thermalShutdown s = .next t ∧ t.powered = false) ∧
    (s.powered = false → Instr.deviceReset ∉ s.agenda → step s = .fault .poweredDown) ∧
    ∃ t, exec .deviceReset s = .next t ∧ t.powered = true ∧ t.mhz = 2100 ∧ t.limitW = 380 ∧ t.standby = false ∧
      (∀ c : CtxRef, t.ctx c = Context.reset) ∧ t.root = none ∧ (∀ a : Fin 16, t.assocs[a] = none) ∧ t.launches = [] ∧
      t.gambits = [] ∧ t.versions = [] ∧ t.reqs = [] ∧ t.cycle = 0 ∧ t.gptp = s.gptp ∧ t.firmware = s.firmware ∧
      t.drives = s.drives ∧ ∀ c : Fin 64, (t.core c).tlb = [] ∧ (t.core c).icache = [] ∧ (t.core c).l1 = []

/-! ## Frames and invariants -/

/-- R135, R143: an operation of a packet, by its own effect, changes no byte of device memory, of a scratchpad
or of a canopy: what it stores waits for the end of the packet, and what it asks for is performed by an event.
R17, R87, R90: an operation of a packet of a context alone in its set leaves every other context as it is; its
own register files change only through results in flight, which name the operation's destinations (a sticky
flag, a row of a tile, a pending loop count, and DCTRL of a QCPY that draws, besides); and its special registers
and its fault registers are unchanged unless it faults. UIRET and IPURGE have statements of their own. -/
def Obligations.OperationsKeepTheirFrame : Prop :=
  (∀ (s t : State) (i : Instr), (encode i).isSome = true → s.banksIdle = true → exec i s = .next t → s.sameMemory t) ∧
  (∀ (s t : State) (i : Instr), (encode i).isSome = true → s.quiet = true → i ≠ .uiret → i ≠ .ipurge →
     exec i s = .next t →
     t.focus.c = s.focus.c ∧ (∀ r, r ≠ s.focus.c → t.ctx r = s.ctx r) ∧ s.me.sameFiles t.me ∧ s.me.sameSpecials t.me ∧
       (t.me.run = .faulted ∨ s.me.sameFaultRegs t.me) ∧ t.me.pc = s.me.pc ∧ t.me.clock = s.me.clock ∧
       ∀ l ∈ t.me.landings, l ∈ s.me.landings ∨ (l.issued = s.me.clock ∧ (RegWrite.namedBy i l.write = true ∨
         ∃ d a q w, i = .qcpy d a q ∧ l.write = .sr .dctrl w)))

/-- What reset leaves: CYCLE 0 (R393), no translation root (R404), no association (R408), no gambit but the root
(R342), BYPASS 8 (R377), the module ACTIVE, every context free with an empty loop stack and nothing in flight. The
limit of 380 W and memories that read 0 are the model's choices (logs 1 and 2). -/
def Obligations.ResetState : Prop :=
  let s := State.reset
  s.powered = true ∧ s.root = none ∧ s.standby = false ∧ s.limitW = 380 ∧ s.cycle = 0 ∧ s.launches = [] ∧
    s.gambits = [] ∧ s.bypass = 8#8 ∧ (∀ i : Fin 8, s.seatCtl[i] = 0#64) ∧ s.seats = [] ∧ (∀ a : Fin 16, s.assocs[a] = none) ∧
    (∀ c : CtxRef, (s.ctx c).run = .free ∧ (s.ctx c).loops = [] ∧ (s.ctx c).landings = [] ∧ (s.ctx c).task = none) ∧
    s.memoriesWf ∧ ∀ a, s.dram.get a = 0#8

/-- Every step keeps every memory in its canonical form: addresses strictly rising, and no entry that an
unlisted address reads as. Equal memories are equal data. -/
def Obligations.MemoriesStayCanonical : Prop :=
  ∀ (s t : State), s.memoriesWf → step s = .next t → t.memoriesWf
end

