-- ==== Sys2Proof/Laws/Digest.lean ====
section
/-!
SUPPORT. RSA-4096: what a key signs verifies with its public half (R29, R421).
-/
namespace Sys2Proof.Machine

/-- The power by the exponent's bits is the power. -/
theorem powMod_eq (m n b e acc : Nat) (he : e < 2 ^ n) (ha : acc < m) : powMod m n b e acc = acc * b ^ e % m := by
  induction n generalizing b e acc with
  | zero =>
    obtain rfl : e = 0 := by omega
    simp [powMod, Nat.mod_eq_of_lt ha]
  | succ n ih =>
    have hm : 0 < m := by omega
    have he2 : e / 2 < 2 ^ n := by omega
    rw [powMod, ih _ _ _ he2 (by split <;> first | exact ha | exact Nat.mod_lt _ hm)]
    have hb : (b * b % m) ^ (e / 2) ≡ (b ^ 2) ^ (e / 2) [MOD m] := by
      simpa [pow_two] using (Nat.mod_modEq (b * b) m).pow (e / 2)
    by_cases h : e % 2 = 1
    · rw [if_pos (by simpa [Nat.testBit_zero] using h)]
      refine ((Nat.mod_modEq _ m).mul hb).trans ?_
      have : b ^ e = b * (b ^ 2) ^ (e / 2) := by rw [← pow_mul, ← pow_succ']; congr 1; omega
      rw [this, mul_assoc]
    · rw [if_neg (by simpa [Nat.testBit_zero] using h)]
      refine (Nat.ModEq.rfl.mul hb).trans ?_
      have : b ^ e = (b ^ 2) ^ (e / 2) := by rw [← pow_mul]; congr 1; omega
      rw [this]

/-- RSA's function is the power modulo the modulus. -/
theorem rsa_eq (x e m : Nat) (he : e < 2 ^ 4096) (hm : 1 < m) : rsa x e m = x ^ e % m := by
  rw [rsa, powMod_eq _ _ _ _ _ he (Nat.mod_lt _ (by omega)), Nat.mod_eq_of_lt hm, one_mul]
  exact (Nat.mod_modEq x m).pow e

/-- Fermat's theorem for an exponent that is 1 modulo p - 1. -/
theorem pow_modEq_self {p x e : Nat} (hp : p.Prime) (h : ∃ n, e = 1 + (p - 1) * n) : x ^ e ≡ x [MOD p] := by
  obtain ⟨n, rfl⟩ := h
  by_cases hx : p ∣ x
  · have h0 : x ≡ 0 [MOD p] := (Nat.modEq_zero_iff_dvd).2 hx
    exact ((h0.pow _).trans (by simp [Nat.ModEq, zero_pow])).trans h0.symm
  · have h1 := Nat.ModEq.pow_totient ((hp.coprime_iff_not_dvd.2 hx).symm)
    rw [Nat.totient_prime hp] at h1
    rw [pow_add, pow_mul, pow_one]
    simpa using (Nat.ModEq.refl x).mul (h1.pow n)

/-- The private exponent inverts the public one. -/
theorem RsaKey.secret_mul (k : RsaKey) (h : Nat.Coprime k.order rsaExponent) :
    ∃ n, k.secret * rsaExponent = 1 + k.order * n := by
  obtain ⟨m, -, hm⟩ := Nat.exists_mul_mod_eq_one_of_coprime h (by decide : 1 < rsaExponent)
  let i := (rsaExponent - 1) * m % rsaExponent
  have hi : (1 + k.order * i) % rsaExponent = 0 := by
    have h1 : 1 + k.order * i ≡ 1 + (rsaExponent - 1) * (k.order * m) [MOD rsaExponent] := by
      refine Nat.ModEq.rfl.add (((Nat.mod_modEq _ _).mul_left k.order).trans ?_)
      rw [Nat.mul_left_comm]
    have h2 : k.order * m ≡ 1 [MOD rsaExponent] := hm
    exact h1.trans (Nat.ModEq.rfl.add (h2.mul_left _))
  have hsome : ((List.range rsaExponent).find? fun i => (1 + k.order * i) % rsaExponent == 0).isSome := by
    rw [List.find?_isSome]
    exact ⟨i, List.mem_range.2 (Nat.mod_lt _ (by decide)), by simpa using hi⟩
  obtain ⟨j, hj⟩ := Option.isSome_iff_exists.1 hsome
  have h0 := List.find?_some hj
  refine ⟨j, ?_⟩
  rw [RsaKey.secret, hj]
  exact Nat.div_mul_cancel (Nat.dvd_of_mod_eq_zero (by simpa using h0))

/-- The private exponent fits in the key. -/
theorem RsaKey.secret_le (k : RsaKey) (hp : 1 < k.p) (hq : 1 < k.q) : k.secret ≤ k.modulus := by
  have h0 : k.order ≤ k.modulus := by
    refine (Nat.le_of_dvd (Nat.mul_pos (by omega) (by omega)) (Nat.lcm_dvd_mul _ _)).trans ?_
    exact Nat.mul_le_mul (by omega) (by omega)
  have h1 : 0 < k.order := Nat.lcm_pos (by omega) (by omega)
  rw [RsaKey.secret]
  cases hj : (List.range rsaExponent).find? fun i => (1 + k.order * i) % rsaExponent == 0 with
  | none => simp
  | some j =>
    have hj' : j < rsaExponent := List.mem_range.1 (List.mem_of_find?_eq_some hj)
    have h2 : k.order * j + k.order ≤ k.order * rsaExponent := by
      simpa [Nat.mul_succ] using Nat.mul_le_mul_left k.order hj'
    show (1 + k.order * j) / rsaExponent ≤ k.modulus
    exact (Nat.div_le_of_le_mul (by rw [Nat.mul_comm rsaExponent]; omega)).trans h0

/-- What a key encrypts with its private exponent, its public one gives back. -/
theorem RsaKey.inverse (k : RsaKey) (hp : k.p.Prime) (hq : k.q.Prime) (hne : k.p ≠ k.q)
    (hc : Nat.Coprime k.order rsaExponent) (hm : k.modulus < 2 ^ 4096) (x : Nat) (hx : x < k.modulus) :
    rsa (rsa x k.secret k.modulus) rsaExponent k.modulus = x := by
  have h1 : 1 < k.modulus := Nat.lt_of_lt_of_le hp.one_lt (Nat.le_mul_of_pos_right _ hq.pos)
  have he : rsaExponent < 2 ^ 4096 := Nat.lt_of_lt_of_le (by decide) (Nat.pow_le_pow_right (n := 2) (by decide) (by decide : 17 ≤ 4096))
  have hs := lt_of_le_of_lt (k.secret_le hp.one_lt hq.one_lt) hm
  rw [rsa_eq _ _ _ he h1, rsa_eq _ _ _ hs h1]
  obtain ⟨n, hn⟩ := k.secret_mul hc
  have hd {r : Nat} (hr : r.Prime) (h : r - 1 ∣ k.order) : (x ^ k.secret) ^ rsaExponent ≡ x [MOD r] := by
    obtain ⟨c, hc⟩ := h
    rw [← pow_mul]
    exact pow_modEq_self hr ⟨c * n, by rw [hn, hc, Nat.mul_assoc]⟩
  have h2 : (x ^ k.secret) ^ rsaExponent ≡ x [MOD k.p * k.q] :=
    (Nat.modEq_and_modEq_iff_modEq_mul ((Nat.coprime_primes hp hq).2 hne)).1
      ⟨hd hp (Nat.dvd_lcm_left _ _), hd hq (Nat.dvd_lcm_right _ _)⟩
  have h3 : (x ^ k.secret % k.modulus) ^ rsaExponent ≡ x [MOD k.modulus] := ((Nat.mod_modEq _ _).pow _).trans h2
  exact Nat.ModEq.eq_of_lt_of_lt (((Nat.mod_modEq _ _).trans h3)) (Nat.mod_lt _ (by omega)) hx

/-- The modulus of two factors has 4,096 bits. -/
theorem RsaKey.ofBits_modulus (x : BitVec 2045 × BitVec 2045) :
    2 ^ 4095 ≤ (RsaKey.ofBits x).modulus ∧ (RsaKey.ofBits x).modulus < 2 ^ 4096 := by
  have hlo (y : BitVec 2045) : 3 * 2 ^ 2046 ≤ rsaFactor y := by unfold rsaFactor; omega
  have hhi (y : BitVec 2045) : rsaFactor y < 2 ^ 2048 := by have := y.isLt; unfold rsaFactor; omega
  constructor
  · refine le_trans ?_ (Nat.mul_le_mul (hlo x.1) (hlo x.2))
    rw [show 4095 = 3 + (2046 + 2046) from rfl, pow_add, pow_add]
    generalize (2 : Nat) ^ 2046 = a
    nlinarith [Nat.zero_le (a * a)]
  · exact (Nat.mul_lt_mul'' (hhi x.1) (hhi x.2)).trans_eq (pow_add 2 2048 2048).symm

/-- A report that a key signs verifies with its public half (R29, R421), whatever the padding. -/
theorem RsaKey.verifies (x : BitVec 2045 × BitVec 2045) (bs : List Byte) :
    let k := RsaKey.ofBits x
    k.p.Prime → k.q.Prime → k.p ≠ k.q → Nat.Coprime k.order rsaExponent →
      rsaVerifies rsaExponent k.modulus (k.sign bs) bs = true := by
  intro k hp hq hne hc
  obtain ⟨h1, h2⟩ := RsaKey.ofBits_modulus x
  have h3 : (Config.rsaPad (sha512 bs)).toNat < k.modulus :=
    lt_of_lt_of_le ((Config.rsaPad (sha512 bs)).isLt.trans (Nat.pow_lt_pow_right (by decide) (by decide))) h1
  have h4 : k.sign bs < k.modulus := by
    have h5 : 1 < k.modulus := Nat.lt_of_lt_of_le hp.one_lt (Nat.le_mul_of_pos_right _ hq.pos)
    rw [RsaKey.sign, rsa_eq _ _ _ (lt_of_le_of_lt (k.secret_le hp.one_lt hq.one_lt) h2) h5]
    exact Nat.mod_lt _ (by omega)
  simp only [rsaVerifies, Bool.and_eq_true, decide_eq_true_eq, beq_iff_eq]
  exact ⟨⟨⟨h1, h2⟩, h4⟩, k.inverse hp hq hne hc h2 _ h3⟩

end Sys2Proof.Machine
end

