-- ==== Sys2Proof/Laws/Memory.lean ====
section
/-!
SUPPORT. Byte memories: what each operation over them reads as, and that each keeps the canonical form.
-/
namespace Sys2Proof.Machine

/-! ## Cells -/

/-- No listed address is below a bound. -/
def cellsFrom (n : Nat) : List Host.Cell → Bool
  | [] => true
  | (a, _) :: _ => decide (n ≤ a)

theorem cellsRise_cons (a : Nat) (b : Byte) (cs : List Host.Cell) :
    cellsRise ((a, b) :: cs) = (cellsFrom (a + 1) cs && cellsRise cs) := by
  cases cs with
  | nil => rfl
  | cons c cs => rfl

theorem cellAt_below (n a : Nat) (cs : List Host.Cell) (h : cellsFrom n cs = true) (ha : a < n) :
    cellAt cs a = none := by
  cases cs with
  | nil => rfl
  | cons c cs =>
    simp only [cellsFrom, decide_eq_true_eq] at h
    have h1 : c.1 ≠ a := by omega
    have h2 : a < c.1 := by omega
    simp [cellAt, h1, h2]

theorem cellsFrom_mono {m n : Nat} {cs : List Host.Cell} (h : cellsFrom n cs = true) (hm : m ≤ n) :
    cellsFrom m cs = true := by
  cases cs with
  | nil => rfl
  | cons c cs => simp only [cellsFrom, decide_eq_true_eq] at *; omega

theorem cellsFrom_set {n a : Nat} {b : Byte} {cs : List Host.Cell} (h : cellsFrom n cs = true) (ha : n ≤ a) :
    cellsFrom n (cellSet a b cs) = true := by
  cases cs with
  | nil => simpa [cellSet, cellsFrom] using ha
  | cons c cs =>
    simp only [cellSet]
    split
    · simpa [cellsFrom] using ha
    · split
      · simpa [cellsFrom] using ha
      · simpa [cellsFrom] using h

theorem cellsRise_set (a : Nat) (b : Byte) (cs : List Host.Cell) (h : cellsRise cs = true) :
    cellsRise (cellSet a b cs) = true := by
  induction cs with
  | nil => rfl
  | cons c cs ih =>
    rw [cellsRise_cons, Bool.and_eq_true] at h
    simp only [cellSet]
    split
    · rename_i hlt
      rw [cellsRise_cons, cellsRise_cons]
      rw [h.1, h.2]
      simpa [cellsFrom] using Nat.succ_le_of_lt hlt
    · split
      · rename_i heq
        rw [cellsRise_cons, heq]
        simp [h.1, h.2]
      · rw [cellsRise_cons, cellsFrom_set h.1 (by omega), ih h.2]
        rfl

theorem cellsFrom_erase {n a : Nat} {cs : List Host.Cell} (hr : cellsRise cs = true)
    (h : cellsFrom n cs = true) : cellsFrom n (cellErase a cs) = true := by
  cases cs with
  | nil => rfl
  | cons c cs =>
    rw [cellsRise_cons, Bool.and_eq_true] at hr
    simp only [cellErase]
    split
    · exact h
    · split
      · refine cellsFrom_mono hr.1 ?_
        simp only [cellsFrom, decide_eq_true_eq] at h
        omega
      · simpa [cellsFrom] using h

theorem cellsRise_erase (a : Nat) (cs : List Host.Cell) (h : cellsRise cs = true) :
    cellsRise (cellErase a cs) = true := by
  induction cs with
  | nil => rfl
  | cons c cs ih =>
    have h' := h
    rw [cellsRise_cons, Bool.and_eq_true] at h
    simp only [cellErase]
    split
    · exact h'
    · split
      · exact h.2
      · rw [cellsRise_cons, cellsFrom_erase h.2 h.1, ih h.2]
        rfl

theorem all_cellSet (p : Host.Cell → Bool) (a : Nat) (b : Byte) (cs : List Host.Cell) (h : cs.all p = true)
    (hb : p (a, b) = true) : (cellSet a b cs).all p = true := by
  induction cs with
  | nil => simpa [cellSet] using hb
  | cons c cs ih =>
    simp only [List.all_cons, Bool.and_eq_true] at h
    simp only [cellSet]
    split
    · simp [hb, h.1, h.2]
    · split
      · simp [hb, h.2]
      · simp [h.1, ih h.2]

theorem all_cellErase (p : Host.Cell → Bool) (a : Nat) (cs : List Host.Cell) (h : cs.all p = true) :
    (cellErase a cs).all p = true := by
  induction cs with
  | nil => rfl
  | cons c cs ih =>
    have h' := h
    simp only [List.all_cons, Bool.and_eq_true] at h
    simp only [cellErase]
    split
    · exact h'
    · split
      · exact h.2
      · simp [h.1, ih h.2]

theorem cellAt_set (a x : Nat) (b : Byte) (cs : List Host.Cell) :
    cellAt (cellSet a b cs) x = if x = a then some b else cellAt cs x := by
  induction cs with
  | nil =>
    simp only [cellSet, cellAt]
    by_cases h : x = a
    · simp [h]
    · have : a ≠ x := fun e => h e.symm
      simp [h, this]
  | cons c cs ih =>
    simp only [cellSet]
    split
    · rename_i hlt
      by_cases h : x = a
      · simp [cellAt, h]
      · have h1 : a ≠ x := fun e => h e.symm
        simp only [cellAt, h, h1, if_false]
        by_cases hx : x < a
        · have h2 : c.1 ≠ x := by omega
          have h3 : x < c.1 := by omega
          simp [hx, h2, h3]
        · simp [hx]
    · split
      · rename_i heq
        by_cases h : x = a
        · simp [cellAt, h]
        · have h1 : a ≠ x := fun e => h e.symm
          simp [cellAt, h, h1, ← heq]
      · rename_i hlt hne
        simp only [cellAt]
        by_cases h : c.1 = x
        · have : x ≠ a := by omega
          simp [h, this]
        · simp only [h, if_false, ih]
          by_cases hx : x < c.1
          · have : x ≠ a := by omega
            simp [hx, this]
          · simp [hx]

theorem cellAt_erase (a x : Nat) (cs : List Host.Cell) (hr : cellsRise cs = true) :
    cellAt (cellErase a cs) x = if x = a then none else cellAt cs x := by
  induction cs with
  | nil => simp [cellErase, cellAt]
  | cons c cs ih =>
    rw [cellsRise_cons, Bool.and_eq_true] at hr
    simp only [cellErase]
    split
    · rename_i hlt
      by_cases h : x = a
      · have h1 : c.1 ≠ a := by omega
        simp [cellAt, h, h1, hlt]
      · simp [h]
    · split
      · rename_i heq
        by_cases h : x = a
        · simp only [h, if_true]
          exact cellAt_below _ _ _ hr.1 (by omega)
        · have h1 : c.1 ≠ x := by omega
          simp only [cellAt, h, h1, if_false]
          by_cases hx : x < c.1
          · rw [if_pos hx]
            exact cellAt_below _ _ _ hr.1 (by omega)
          · simp [hx]
      · rename_i hlt hne
        simp only [cellAt]
        by_cases h : c.1 = x
        · have : x ≠ a := by omega
          simp [h, this]
        · simp only [h, if_false, ih hr.2]
          by_cases hx : x < c.1
          · have : x ≠ a := by omega
            simp [hx, this]
          · simp [hx]

/-! ## Memories -/

theorem mem_empty_wf (tag : Nat) : (Mem.mk [] tag).wf = true := by simp [Mem.wf, cellsRise]

@[simp] theorem mem_set_tag (m : Mem) (a : Nat) (b : Byte) : (m.set a b).tag = m.tag := by
  unfold Mem.set; split <;> rfl

/-- A write keeps the canonical form. -/
theorem mem_set_wf (m : Mem) (a : Nat) (b : Byte) (h : m.wf = true) : (m.set a b).wf = true := by
  simp only [Mem.wf, Bool.and_eq_true, Bool.or_eq_true] at *
  unfold Mem.set
  split
  · exact ⟨cellsRise_erase _ _ h.1, h.2.imp id fun x => all_cellErase _ _ _ x⟩
  · rename_i hc
    refine ⟨cellsRise_set _ _ _ h.1, ?_⟩
    by_cases ht : m.tag = 0
    · right
      refine all_cellSet _ _ _ _ (h.2.resolve_left (by simp [ht])) ?_
      have : b ≠ 0#8 := fun e => hc ⟨ht, e⟩
      simpa using this
    · left; simpa using ht

/-- A byte reads as the last one written there, and every other as before. -/
theorem mem_get_set (m : Mem) (a x : Nat) (b : Byte) (h : m.wf = true) :
    (m.set a b).get x = if x = a then b else m.get x := by
  simp only [Mem.wf, Bool.and_eq_true] at h
  unfold Mem.set
  split
  · rename_i hc
    simp only [Mem.get, cellAt_erase _ _ _ h.1]
    by_cases hx : x = a
    · simp [hx, Mem.unlisted, hc.1, hc.2]
    · simp [hx, Mem.unlisted]
  · simp only [Mem.get, cellAt_set]
    by_cases hx : x = a
    · simp [hx]
    · simp [hx, Mem.unlisted]

@[simp] theorem mem_setBytes_tag (m : Mem) (a : Nat) (bs : List Byte) : (m.setBytes a bs).tag = m.tag := by
  induction bs generalizing m a with
  | nil => rfl
  | cons b bs ih => simp [Mem.setBytes, ih]

theorem mem_setBytes_wf (m : Mem) (a : Nat) (bs : List Byte) (h : m.wf = true) :
    (m.setBytes a bs).wf = true := by
  induction bs generalizing m a with
  | nil => exact h
  | cons b bs ih => exact ih _ _ (mem_set_wf _ _ _ h)

theorem mem_setCells_wf (m : Mem) (cs : List (Nat × Byte)) (h : m.wf = true) : (m.setCells cs).wf = true := by
  induction cs generalizing m with
  | nil => exact h
  | cons c cs ih => exact ih _ (mem_set_wf _ _ _ h)

/-- What a byte reads as after bytes have been written from an address up. -/
theorem mem_get_setBytes (m : Mem) (a x : Nat) (bs : List Byte) (h : m.wf = true) :
    (m.setBytes a bs).get x = if a ≤ x ∧ x < a + bs.length then bs.getD (x - a) 0#8 else m.get x := by
  induction bs generalizing m a with
  | nil =>
    rw [if_neg (by simp)]
    rfl
  | cons b bs ih =>
    simp only [Mem.setBytes]
    rw [ih _ _ (mem_set_wf _ _ _ h), mem_get_set _ _ _ _ h]
    by_cases hx : x = a
    · subst hx
      have h1 : ¬ (x + 1 ≤ x ∧ x < x + 1 + bs.length) := by omega
      simp [h1]
    · by_cases h2 : a + 1 ≤ x ∧ x < a + 1 + bs.length
      · have h3 : a ≤ x ∧ x < a + (b :: bs).length := by simp; omega
        rw [if_pos h2, if_pos h3]
        obtain ⟨n, hn⟩ : ∃ n, x - a = n + 1 := ⟨x - a - 1, by omega⟩
        have h4 : x - (a + 1) = n := by omega
        simp [hn, h4]
      · have h3 : ¬ (a ≤ x ∧ x < a + (b :: bs).length) := by simp; omega
        rw [if_neg h2, if_neg h3, if_neg hx]

/-- Bytes outside those written read as before. -/
theorem mem_get_setBytes_outside (m : Mem) (a x : Nat) (bs : List Byte) (h : m.wf = true)
    (hx : x < a ∨ a + bs.length ≤ x) : (m.setBytes a bs).get x = m.get x := by
  rw [mem_get_setBytes _ _ _ _ h, if_neg (by omega)]

@[simp] theorem mem_bytes_length (m : Mem) (a n : Nat) : (m.bytes a n).length = n := by
  induction n generalizing a with
  | zero => rfl
  | succ n ih => simp [Mem.bytes, ih]

theorem mem_bytes_getD (m : Mem) (a n i : Nat) (h : i < n) : (m.bytes a n).getD i 0#8 = m.get (a + i) := by
  induction n generalizing a i with
  | zero => omega
  | succ n ih =>
    cases i with
    | zero => rfl
    | succ i =>
      have := ih (a + 1) i (by omega)
      simp only [Mem.bytes, List.getD_cons_succ, this]
      congr 1
      omega

end Sys2Proof.Machine
end

