-- ==== Sys2Proof/Laws/State.lean ====
section
/-!
SUPPORT. One lemma for each field of the state, of a core and of a context under each plain update, so that no
proof unfolds a record update.
-/
namespace Sys2Proof.Machine

/-! ## Cores and contexts -/

@[simp] theorem core_setCore_same (s : State) (i : Fin 64) (k : Core) : (s.setCore i k).core i = k := by
  simp [State.core, State.setCore]

theorem core_setCore_other (s : State) (i j : Fin 64) (k : Core) (h : j ≠ i) :
    (s.setCore i k).core j = s.core j := by
  have : i.val ≠ j.val := fun e => h (Fin.ext e.symm)
  simp [State.core, State.setCore, this]

@[simp] theorem core_setCtx_same (k : Core) (i : Fin 8) (x : Context) : (k.setCtx i x).ctxs[i] = x := by
  simp [Core.setCtx]

theorem core_setCtx_other (k : Core) (i j : Fin 8) (x : Context) (h : j ≠ i) :
    (k.setCtx i x).ctxs[j] = k.ctxs[j] := by
  have : i.val ≠ j.val := fun e => h (Fin.ext e.symm)
  simp [Core.setCtx, this]

@[simp] theorem ctx_setCtx_same (s : State) (r : CtxRef) (x : Context) : (s.setCtx r x).ctx r = x := by
  simp only [State.ctx, State.setCtx, core_setCore_same]
  exact core_setCtx_same _ _ _

theorem ctx_setCtx_other (s : State) (r q : CtxRef) (x : Context) (h : q ≠ r) :
    (s.setCtx r x).ctx q = s.ctx q := by
  by_cases hc : q.core = r.core
  · have hx : q.ctx ≠ r.ctx := fun e => h (by cases q; cases r; simp_all)
    simp only [State.ctx, State.setCtx, hc, core_setCore_same]
    exact core_setCtx_other _ _ _ _ hx
  · simp only [State.ctx, State.setCtx, core_setCore_other _ _ _ _ hc]

@[simp] theorem ctx_modCtx_same (s : State) (r : CtxRef) (f : Context → Context) :
    (s.modCtx r f).ctx r = f (s.ctx r) := ctx_setCtx_same _ _ _

theorem ctx_modCtx_other (s : State) (r q : CtxRef) (f : Context → Context) (h : q ≠ r) :
    (s.modCtx r f).ctx q = s.ctx q := ctx_setCtx_other _ _ _ _ h

@[simp] theorem me_setMe (s : State) (x : Context) : (s.setMe x).me = x := ctx_setCtx_same _ _ _

@[simp] theorem core_due (s : State) (e : Instr) (i : Fin 64) : (s.due e).core i = s.core i := rfl

@[simp] theorem ctx_due (s : State) (e : Instr) (r : CtxRef) : (s.due e).ctx r = s.ctx r := rfl

@[simp] theorem me_due (s : State) (e : Instr) : (s.due e).me = s.me := rfl

@[simp] theorem agenda_due (s : State) (e : Instr) : (s.due e).agenda = s.agenda ++ [e] := rfl

@[simp] theorem landings_land (x : Context) (lat : Nat) (pos : Fin 8) (w : RegWrite) :
    (x.land lat pos w).landings = x.landings ++ [⟨x.clock + lat, x.clock, pos, w⟩] := rfl

/-! ## The fields of a core under the update of a context -/

@[simp] theorem spad_coreSetCtx (k : Core) (i : Fin 8) (x : Context) : (k.setCtx i x).spad = k.spad := rfl
@[simp] theorem canopy_coreSetCtx (k : Core) (i : Fin 8) (x : Context) : (k.setCtx i x).canopy = k.canopy := rfl
@[simp] theorem slotTaken_coreSetCtx (k : Core) (i : Fin 8) (x : Context) : (k.setCtx i x).slotTaken = k.slotTaken := rfl
@[simp] theorem tiles_coreSetCtx (k : Core) (i : Fin 8) (x : Context) : (k.setCtx i x).tiles = k.tiles := rfl
@[simp] theorem l1_coreSetCtx (k : Core) (i : Fin 8) (x : Context) : (k.setCtx i x).l1 = k.l1 := rfl
@[simp] theorem excl_coreSetCtx (k : Core) (i : Fin 8) (x : Context) : (k.setCtx i x).excl = k.excl := rfl
@[simp] theorem tlb_coreSetCtx (k : Core) (i : Fin 8) (x : Context) : (k.setCtx i x).tlb = k.tlb := rfl
@[simp] theorem icache_coreSetCtx (k : Core) (i : Fin 8) (x : Context) : (k.setCtx i x).icache = k.icache := rfl
@[simp] theorem pstreams_coreSetCtx (k : Core) (i : Fin 8) (x : Context) : (k.setCtx i x).pstreams = k.pstreams := rfl
@[simp] theorem metaCache_coreSetCtx (k : Core) (i : Fin 8) (x : Context) : (k.setCtx i x).metaCache = k.metaCache := rfl
@[simp] theorem bankq_coreSetCtx (k : Core) (i : Fin 8) (x : Context) : (k.setCtx i x).bankq = k.bankq := rfl
@[simp] theorem upstream_coreSetCtx (k : Core) (i : Fin 8) (x : Context) : (k.setCtx i x).upstream = k.upstream := rfl
@[simp] theorem portFree_coreSetCtx (k : Core) (i : Fin 8) (x : Context) : (k.setCtx i x).portFree = k.portFree := rfl
@[simp] theorem copyq_coreSetCtx (k : Core) (i : Fin 8) (x : Context) : (k.setCtx i x).copyq = k.copyq := rfl
@[simp] theorem canopyIn_coreSetCtx (k : Core) (i : Fin 8) (x : Context) : (k.setCtx i x).canopyIn = k.canopyIn := rfl
@[simp] theorem current_coreSetCtx (k : Core) (i : Fin 8) (x : Context) : (k.setCtx i x).current = k.current := rfl
@[simp] theorem lastEnd_coreSetCtx (k : Core) (i : Fin 8) (x : Context) : (k.setCtx i x).lastEnd = k.lastEnd := rfl
@[simp] theorem nextAt_coreSetCtx (k : Core) (i : Fin 8) (x : Context) : (k.setCtx i x).nextAt = k.nextAt := rfl

/-! ## The fields of a context under a result in flight -/

@[simp] theorem s_ctxLand (x : Context) (lat : Nat) (pos : Fin 8) (w : RegWrite) :
    (x.land lat pos w).s = x.s := rfl
@[simp] theorem k_ctxLand (x : Context) (lat : Nat) (pos : Fin 8) (w : RegWrite) :
    (x.land lat pos w).k = x.k := rfl
@[simp] theorem x_ctxLand (x : Context) (lat : Nat) (pos : Fin 8) (w : RegWrite) :
    (x.land lat pos w).x = x.x := rfl
@[simp] theorem v_ctxLand (x : Context) (lat : Nat) (pos : Fin 8) (w : RegWrite) :
    (x.land lat pos w).v = x.v := rfl
@[simp] theorem p_ctxLand (x : Context) (lat : Nat) (pos : Fin 8) (w : RegWrite) :
    (x.land lat pos w).p = x.p := rfl
@[simp] theorem a_ctxLand (x : Context) (lat : Nat) (pos : Fin 8) (w : RegWrite) :
    (x.land lat pos w).a = x.a := rfl
@[simp] theorem b_ctxLand (x : Context) (lat : Nat) (pos : Fin 8) (w : RegWrite) :
    (x.land lat pos w).b = x.b := rfl
@[simp] theorem q_ctxLand (x : Context) (lat : Nat) (pos : Fin 8) (w : RegWrite) :
    (x.land lat pos w).q = x.q := rfl
@[simp] theorem z_ctxLand (x : Context) (lat : Nat) (pos : Fin 8) (w : RegWrite) :
    (x.land lat pos w).z = x.z := rfl
@[simp] theorem m_ctxLand (x : Context) (lat : Nat) (pos : Fin 8) (w : RegWrite) :
    (x.land lat pos w).m = x.m := rfl
@[simp] theorem acc_ctxLand (x : Context) (lat : Nat) (pos : Fin 8) (w : RegWrite) :
    (x.land lat pos w).acc = x.acc := rfl
@[simp] theorem sa_ctxLand (x : Context) (lat : Nat) (pos : Fin 8) (w : RegWrite) :
    (x.land lat pos w).sa = x.sa := rfl
@[simp] theorem sb_ctxLand (x : Context) (lat : Nat) (pos : Fin 8) (w : RegWrite) :
    (x.land lat pos w).sb = x.sb := rfl
@[simp] theorem g_ctxLand (x : Context) (lat : Nat) (pos : Fin 8) (w : RegWrite) :
    (x.land lat pos w).g = x.g := rfl
@[simp] theorem sBank_ctxLand (x : Context) (lat : Nat) (pos : Fin 8) (w : RegWrite) :
    (x.land lat pos w).sBank = x.sBank := rfl
@[simp] theorem gBank_ctxLand (x : Context) (lat : Nat) (pos : Fin 8) (w : RegWrite) :
    (x.land lat pos w).gBank = x.gBank := rfl
@[simp] theorem pc_ctxLand (x : Context) (lat : Nat) (pos : Fin 8) (w : RegWrite) :
    (x.land lat pos w).pc = x.pc := rfl
@[simp] theorem loops_ctxLand (x : Context) (lat : Nat) (pos : Fin 8) (w : RegWrite) :
    (x.land lat pos w).loops = x.loops := rfl
@[simp] theorem sticky_ctxLand (x : Context) (lat : Nat) (pos : Fin 8) (w : RegWrite) :
    (x.land lat pos w).sticky = x.sticky := rfl
@[simp] theorem uiact_ctxLand (x : Context) (lat : Nat) (pos : Fin 8) (w : RegWrite) :
    (x.land lat pos w).uiact = x.uiact := rfl
@[simp] theorem cls_ctxLand (x : Context) (lat : Nat) (pos : Fin 8) (w : RegWrite) :
    (x.land lat pos w).cls = x.cls := rfl
@[simp] theorem fusew_ctxLand (x : Context) (lat : Nat) (pos : Fin 8) (w : RegWrite) :
    (x.land lat pos w).fusew = x.fusew := rfl
@[simp] theorem leader_ctxLand (x : Context) (lat : Nat) (pos : Fin 8) (w : RegWrite) :
    (x.land lat pos w).leader = x.leader := rfl
@[simp] theorem decoup_ctxLand (x : Context) (lat : Nat) (pos : Fin 8) (w : RegWrite) :
    (x.land lat pos w).decoup = x.decoup := rfl
@[simp] theorem control_ctxLand (x : Context) (lat : Nat) (pos : Fin 8) (w : RegWrite) :
    (x.land lat pos w).control = x.control := rfl
@[simp] theorem cause_ctxLand (x : Context) (lat : Nat) (pos : Fin 8) (w : RegWrite) :
    (x.land lat pos w).cause = x.cause := rfl
@[simp] theorem epc_ctxLand (x : Context) (lat : Nat) (pos : Fin 8) (w : RegWrite) :
    (x.land lat pos w).epc = x.epc := rfl
@[simp] theorem faddr_ctxLand (x : Context) (lat : Nat) (pos : Fin 8) (w : RegWrite) :
    (x.land lat pos w).faddr = x.faddr := rfl
@[simp] theorem finfo_ctxLand (x : Context) (lat : Nat) (pos : Fin 8) (w : RegWrite) :
    (x.land lat pos w).finfo = x.finfo := rfl
@[simp] theorem gid_ctxLand (x : Context) (lat : Nat) (pos : Fin 8) (w : RegWrite) :
    (x.land lat pos w).gid = x.gid := rfl
@[simp] theorem orphan_ctxLand (x : Context) (lat : Nat) (pos : Fin 8) (w : RegWrite) :
    (x.land lat pos w).orphan = x.orphan := rfl
@[simp] theorem syncsel_ctxLand (x : Context) (lat : Nat) (pos : Fin 8) (w : RegWrite) :
    (x.land lat pos w).syncsel = x.syncsel := rfl
@[simp] theorem splim_ctxLand (x : Context) (lat : Nat) (pos : Fin 8) (w : RegWrite) :
    (x.land lat pos w).splim = x.splim := rfl
@[simp] theorem uivec_ctxLand (x : Context) (lat : Nat) (pos : Fin 8) (w : RegWrite) :
    (x.land lat pos w).uivec = x.uivec := rfl
@[simp] theorem uistat_ctxLand (x : Context) (lat : Nat) (pos : Fin 8) (w : RegWrite) :
    (x.land lat pos w).uistat = x.uistat := rfl
@[simp] theorem spbase_ctxLand (x : Context) (lat : Nat) (pos : Fin 8) (w : RegWrite) :
    (x.land lat pos w).spbase = x.spbase := rfl
@[simp] theorem spsize_ctxLand (x : Context) (lat : Nat) (pos : Fin 8) (w : RegWrite) :
    (x.land lat pos w).spsize = x.spsize := rfl
@[simp] theorem dkey_ctxLand (x : Context) (lat : Nat) (pos : Fin 8) (w : RegWrite) :
    (x.land lat pos w).dkey = x.dkey := rfl
@[simp] theorem dctrh_ctxLand (x : Context) (lat : Nat) (pos : Fin 8) (w : RegWrite) :
    (x.land lat pos w).dctrh = x.dctrh := rfl
@[simp] theorem dctrl_ctxLand (x : Context) (lat : Nat) (pos : Fin 8) (w : RegWrite) :
    (x.land lat pos w).dctrl = x.dctrl := rfl
@[simp] theorem rpsel_ctxLand (x : Context) (lat : Nat) (pos : Fin 8) (w : RegWrite) :
    (x.land lat pos w).rpsel = x.rpsel := rfl
@[simp] theorem task_ctxLand (x : Context) (lat : Nat) (pos : Fin 8) (w : RegWrite) :
    (x.land lat pos w).task = x.task := rfl
@[simp] theorem arm_ctxLand (x : Context) (lat : Nat) (pos : Fin 8) (w : RegWrite) :
    (x.land lat pos w).arm = x.arm := rfl
@[simp] theorem run_ctxLand (x : Context) (lat : Nat) (pos : Fin 8) (w : RegWrite) :
    (x.land lat pos w).run = x.run := rfl
@[simp] theorem clock_ctxLand (x : Context) (lat : Nat) (pos : Fin 8) (w : RegWrite) :
    (x.land lat pos w).clock = x.clock := rfl
@[simp] theorem streams_ctxLand (x : Context) (lat : Nat) (pos : Fin 8) (w : RegWrite) :
    (x.land lat pos w).streams = x.streams := rfl
@[simp] theorem gPending_ctxLand (x : Context) (lat : Nat) (pos : Fin 8) (w : RegWrite) :
    (x.land lat pos w).gPending = x.gPending := rfl
@[simp] theorem gPendBank_ctxLand (x : Context) (lat : Nat) (pos : Fin 8) (w : RegWrite) :
    (x.land lat pos w).gPendBank = x.gPendBank := rfl
@[simp] theorem gAcq_ctxLand (x : Context) (lat : Nat) (pos : Fin 8) (w : RegWrite) :
    (x.land lat pos w).gAcq = x.gAcq := rfl
@[simp] theorem gAcqBank_ctxLand (x : Context) (lat : Nat) (pos : Fin 8) (w : RegWrite) :
    (x.land lat pos w).gAcqBank = x.gAcqBank := rfl
@[simp] theorem gWait_ctxLand (x : Context) (lat : Nat) (pos : Fin 8) (w : RegWrite) :
    (x.land lat pos w).gWait = x.gWait := rfl
@[simp] theorem defer_ctxLand (x : Context) (lat : Nat) (pos : Fin 8) (w : RegWrite) :
    (x.land lat pos w).defer = x.defer := rfl
@[simp] theorem frozen_ctxLand (x : Context) (lat : Nat) (pos : Fin 8) (w : RegWrite) :
    (x.land lat pos w).frozen = x.frozen := rfl
@[simp] theorem uiQueue_ctxLand (x : Context) (lat : Nat) (pos : Fin 8) (w : RegWrite) :
    (x.land lat pos w).uiQueue = x.uiQueue := rfl
@[simp] theorem trap_ctxLand (x : Context) (lat : Nat) (pos : Fin 8) (w : RegWrite) :
    (x.land lat pos w).trap = x.trap := rfl
@[simp] theorem aq_ctxLand (x : Context) (lat : Nat) (pos : Fin 8) (w : RegWrite) :
    (x.land lat pos w).aq = x.aq := rfl
@[simp] theorem dq_ctxLand (x : Context) (lat : Nat) (pos : Fin 8) (w : RegWrite) :
    (x.land lat pos w).dq = x.dq := rfl
@[simp] theorem aqSeq_ctxLand (x : Context) (lat : Nat) (pos : Fin 8) (w : RegWrite) :
    (x.land lat pos w).aqSeq = x.aqSeq := rfl
@[simp] theorem aqFault_ctxLand (x : Context) (lat : Nat) (pos : Fin 8) (w : RegWrite) :
    (x.land lat pos w).aqFault = x.aqFault := rfl
@[simp] theorem failed_ctxLand (x : Context) (lat : Nat) (pos : Fin 8) (w : RegWrite) :
    (x.land lat pos w).failed = x.failed := rfl
@[simp] theorem engineFaulted_ctxLand (x : Context) (lat : Nat) (pos : Fin 8) (w : RegWrite) :
    (x.land lat pos w).engineFaulted = x.engineFaulted := rfl
@[simp] theorem atPoint_ctxLand (x : Context) (lat : Nat) (pos : Fin 8) (w : RegWrite) :
    (x.land lat pos w).atPoint = x.atPoint := rfl

/-! ## The fields of the state under `setCore` -/

@[simp] theorem campTlb_setCore (s : State) (i : Fin 64) (k : Core) : (s.setCore i k).campTlb = s.campTlb := rfl
@[simp] theorem cycle_setCore (s : State) (i : Fin 64) (k : Core) : (s.setCore i k).cycle = s.cycle := rfl
@[simp] theorem gptp_setCore (s : State) (i : Fin 64) (k : Core) : (s.setCore i k).gptp = s.gptp := rfl
@[simp] theorem dram_setCore (s : State) (i : Fin 64) (k : Core) : (s.setCore i k).dram = s.dram := rfl
@[simp] theorem l2_setCore (s : State) (i : Fin 64) (k : Core) : (s.setCore i k).l2 = s.l2 := rfl
@[simp] theorem versions_setCore (s : State) (i : Fin 64) (k : Core) : (s.setCore i k).versions = s.versions := rfl
@[simp] theorem gambits_setCore (s : State) (i : Fin 64) (k : Core) : (s.setCore i k).gambits = s.gambits := rfl
@[simp] theorem reqs_setCore (s : State) (i : Fin 64) (k : Core) : (s.setCore i k).reqs = s.reqs := rfl
@[simp] theorem decs_setCore (s : State) (i : Fin 64) (k : Core) : (s.setCore i k).decs = s.decs := rfl
@[simp] theorem walks_setCore (s : State) (i : Fin 64) (k : Core) : (s.setCore i k).walks = s.walks := rfl
@[simp] theorem launches_setCore (s : State) (i : Fin 64) (k : Core) : (s.setCore i k).launches = s.launches := rfl
@[simp] theorem handles_setCore (s : State) (i : Fin 64) (k : Core) : (s.setCore i k).handles = s.handles := rfl
@[simp] theorem ready_setCore (s : State) (i : Fin 64) (k : Core) : (s.setCore i k).ready = s.ready := rfl
@[simp] theorem lines_setCore (s : State) (i : Fin 64) (k : Core) : (s.setCore i k).lines = s.lines := rfl
@[simp] theorem fuse_setCore (s : State) (i : Fin 64) (k : Core) : (s.setCore i k).fuse = s.fuse := rfl
@[simp] theorem reserved_setCore (s : State) (i : Fin 64) (k : Core) : (s.setCore i k).reserved = s.reserved := rfl
@[simp] theorem bypass_setCore (s : State) (i : Fin 64) (k : Core) : (s.setCore i k).bypass = s.bypass := rfl
@[simp] theorem poolBase_setCore (s : State) (i : Fin 64) (k : Core) : (s.setCore i k).poolBase = s.poolBase := rfl
@[simp] theorem poolSize_setCore (s : State) (i : Fin 64) (k : Core) : (s.setCore i k).poolSize = s.poolSize := rfl
@[simp] theorem resid_setCore (s : State) (i : Fin 64) (k : Core) : (s.setCore i k).resid = s.resid := rfl
@[simp] theorem pk_setCore (s : State) (i : Fin 64) (k : Core) : (s.setCore i k).pk = s.pk := rfl
@[simp] theorem seats_setCore (s : State) (i : Fin 64) (k : Core) : (s.setCore i k).seats = s.seats := rfl
@[simp] theorem seatCtl_setCore (s : State) (i : Fin 64) (k : Core) : (s.setCore i k).seatCtl = s.seatCtl := rfl
@[simp] theorem seatTurn_setCore (s : State) (i : Fin 64) (k : Core) : (s.setCore i k).seatTurn = s.seatTurn := rfl
@[simp] theorem canopyC_setCore (s : State) (i : Fin 64) (k : Core) : (s.setCore i k).canopyC = s.canopyC := rfl
@[simp] theorem root_setCore (s : State) (i : Fin 64) (k : Core) : (s.setCore i k).root = s.root := rfl
@[simp] theorem assocs_setCore (s : State) (i : Fin 64) (k : Core) : (s.setCore i k).assocs = s.assocs := rfl
@[simp] theorem inbox_setCore (s : State) (i : Fin 64) (k : Core) : (s.setCore i k).inbox = s.inbox := rfl
@[simp] theorem deferred_setCore (s : State) (i : Fin 64) (k : Core) : (s.setCore i k).deferred = s.deferred := rfl
@[simp] theorem netWaits_setCore (s : State) (i : Fin 64) (k : Core) : (s.setCore i k).netWaits = s.netWaits := rfl
@[simp] theorem sent_setCore (s : State) (i : Fin 64) (k : Core) : (s.setCore i k).sent = s.sent := rfl
@[simp] theorem ports_setCore (s : State) (i : Fin 64) (k : Core) : (s.setCore i k).ports = s.ports := rfl
@[simp] theorem peers_setCore (s : State) (i : Fin 64) (k : Core) : (s.setCore i k).peers = s.peers := rfl
@[simp] theorem limitW_setCore (s : State) (i : Fin 64) (k : Core) : (s.setCore i k).limitW = s.limitW := rfl
@[simp] theorem standby_setCore (s : State) (i : Fin 64) (k : Core) : (s.setCore i k).standby = s.standby := rfl
@[simp] theorem mhz_setCore (s : State) (i : Fin 64) (k : Core) : (s.setCore i k).mhz = s.mhz := rfl
@[simp] theorem powered_setCore (s : State) (i : Fin 64) (k : Core) : (s.setCore i k).powered = s.powered := rfl
@[simp] theorem sensors_setCore (s : State) (i : Fin 64) (k : Core) : (s.setCore i k).sensors = s.sensors := rfl
@[simp] theorem firmware_setCore (s : State) (i : Fin 64) (k : Core) : (s.setCore i k).firmware = s.firmware := rfl
@[simp] theorem fwVersion_setCore (s : State) (i : Fin 64) (k : Core) : (s.setCore i k).fwVersion = s.fwVersion := rfl
@[simp] theorem fwSlot_setCore (s : State) (i : Fin 64) (k : Core) : (s.setCore i k).fwSlot = s.fwSlot := rfl
@[simp] theorem drives_setCore (s : State) (i : Fin 64) (k : Core) : (s.setCore i k).drives = s.drives := rfl
@[simp] theorem bad_setCore (s : State) (i : Fin 64) (k : Core) : (s.setCore i k).bad = s.bad := rfl
@[simp] theorem pfNext_setCore (s : State) (i : Fin 64) (k : Core) : (s.setCore i k).pfNext = s.pfNext := rfl
@[simp] theorem agenda_setCore (s : State) (i : Fin 64) (k : Core) : (s.setCore i k).agenda = s.agenda := rfl
@[simp] theorem choices_setCore (s : State) (i : Fin 64) (k : Core) : (s.setCore i k).choices = s.choices := rfl
@[simp] theorem fresh_setCore (s : State) (i : Fin 64) (k : Core) : (s.setCore i k).fresh = s.fresh := rfl
@[simp] theorem nextId_setCore (s : State) (i : Fin 64) (k : Core) : (s.setCore i k).nextId = s.nextId := rfl
@[simp] theorem focus_setCore (s : State) (i : Fin 64) (k : Core) : (s.setCore i k).focus = s.focus := rfl

/-! ## The fields of the state under `modCore` -/

@[simp] theorem campTlb_modCore (s : State) (i : Fin 64) (g : Core → Core) : (s.modCore i g).campTlb = s.campTlb := rfl
@[simp] theorem cycle_modCore (s : State) (i : Fin 64) (g : Core → Core) : (s.modCore i g).cycle = s.cycle := rfl
@[simp] theorem gptp_modCore (s : State) (i : Fin 64) (g : Core → Core) : (s.modCore i g).gptp = s.gptp := rfl
@[simp] theorem dram_modCore (s : State) (i : Fin 64) (g : Core → Core) : (s.modCore i g).dram = s.dram := rfl
@[simp] theorem l2_modCore (s : State) (i : Fin 64) (g : Core → Core) : (s.modCore i g).l2 = s.l2 := rfl
@[simp] theorem versions_modCore (s : State) (i : Fin 64) (g : Core → Core) : (s.modCore i g).versions = s.versions := rfl
@[simp] theorem gambits_modCore (s : State) (i : Fin 64) (g : Core → Core) : (s.modCore i g).gambits = s.gambits := rfl
@[simp] theorem reqs_modCore (s : State) (i : Fin 64) (g : Core → Core) : (s.modCore i g).reqs = s.reqs := rfl
@[simp] theorem decs_modCore (s : State) (i : Fin 64) (g : Core → Core) : (s.modCore i g).decs = s.decs := rfl
@[simp] theorem walks_modCore (s : State) (i : Fin 64) (g : Core → Core) : (s.modCore i g).walks = s.walks := rfl
@[simp] theorem launches_modCore (s : State) (i : Fin 64) (g : Core → Core) : (s.modCore i g).launches = s.launches := rfl
@[simp] theorem handles_modCore (s : State) (i : Fin 64) (g : Core → Core) : (s.modCore i g).handles = s.handles := rfl
@[simp] theorem ready_modCore (s : State) (i : Fin 64) (g : Core → Core) : (s.modCore i g).ready = s.ready := rfl
@[simp] theorem lines_modCore (s : State) (i : Fin 64) (g : Core → Core) : (s.modCore i g).lines = s.lines := rfl
@[simp] theorem fuse_modCore (s : State) (i : Fin 64) (g : Core → Core) : (s.modCore i g).fuse = s.fuse := rfl
@[simp] theorem reserved_modCore (s : State) (i : Fin 64) (g : Core → Core) : (s.modCore i g).reserved = s.reserved := rfl
@[simp] theorem bypass_modCore (s : State) (i : Fin 64) (g : Core → Core) : (s.modCore i g).bypass = s.bypass := rfl
@[simp] theorem poolBase_modCore (s : State) (i : Fin 64) (g : Core → Core) : (s.modCore i g).poolBase = s.poolBase := rfl
@[simp] theorem poolSize_modCore (s : State) (i : Fin 64) (g : Core → Core) : (s.modCore i g).poolSize = s.poolSize := rfl
@[simp] theorem resid_modCore (s : State) (i : Fin 64) (g : Core → Core) : (s.modCore i g).resid = s.resid := rfl
@[simp] theorem pk_modCore (s : State) (i : Fin 64) (g : Core → Core) : (s.modCore i g).pk = s.pk := rfl
@[simp] theorem seats_modCore (s : State) (i : Fin 64) (g : Core → Core) : (s.modCore i g).seats = s.seats := rfl
@[simp] theorem seatCtl_modCore (s : State) (i : Fin 64) (g : Core → Core) : (s.modCore i g).seatCtl = s.seatCtl := rfl
@[simp] theorem seatTurn_modCore (s : State) (i : Fin 64) (g : Core → Core) : (s.modCore i g).seatTurn = s.seatTurn := rfl
@[simp] theorem canopyC_modCore (s : State) (i : Fin 64) (g : Core → Core) : (s.modCore i g).canopyC = s.canopyC := rfl
@[simp] theorem root_modCore (s : State) (i : Fin 64) (g : Core → Core) : (s.modCore i g).root = s.root := rfl
@[simp] theorem assocs_modCore (s : State) (i : Fin 64) (g : Core → Core) : (s.modCore i g).assocs = s.assocs := rfl
@[simp] theorem inbox_modCore (s : State) (i : Fin 64) (g : Core → Core) : (s.modCore i g).inbox = s.inbox := rfl
@[simp] theorem deferred_modCore (s : State) (i : Fin 64) (g : Core → Core) : (s.modCore i g).deferred = s.deferred := rfl
@[simp] theorem netWaits_modCore (s : State) (i : Fin 64) (g : Core → Core) : (s.modCore i g).netWaits = s.netWaits := rfl
@[simp] theorem sent_modCore (s : State) (i : Fin 64) (g : Core → Core) : (s.modCore i g).sent = s.sent := rfl
@[simp] theorem ports_modCore (s : State) (i : Fin 64) (g : Core → Core) : (s.modCore i g).ports = s.ports := rfl
@[simp] theorem peers_modCore (s : State) (i : Fin 64) (g : Core → Core) : (s.modCore i g).peers = s.peers := rfl
@[simp] theorem limitW_modCore (s : State) (i : Fin 64) (g : Core → Core) : (s.modCore i g).limitW = s.limitW := rfl
@[simp] theorem standby_modCore (s : State) (i : Fin 64) (g : Core → Core) : (s.modCore i g).standby = s.standby := rfl
@[simp] theorem mhz_modCore (s : State) (i : Fin 64) (g : Core → Core) : (s.modCore i g).mhz = s.mhz := rfl
@[simp] theorem powered_modCore (s : State) (i : Fin 64) (g : Core → Core) : (s.modCore i g).powered = s.powered := rfl
@[simp] theorem sensors_modCore (s : State) (i : Fin 64) (g : Core → Core) : (s.modCore i g).sensors = s.sensors := rfl
@[simp] theorem firmware_modCore (s : State) (i : Fin 64) (g : Core → Core) : (s.modCore i g).firmware = s.firmware := rfl
@[simp] theorem fwVersion_modCore (s : State) (i : Fin 64) (g : Core → Core) : (s.modCore i g).fwVersion = s.fwVersion := rfl
@[simp] theorem fwSlot_modCore (s : State) (i : Fin 64) (g : Core → Core) : (s.modCore i g).fwSlot = s.fwSlot := rfl
@[simp] theorem drives_modCore (s : State) (i : Fin 64) (g : Core → Core) : (s.modCore i g).drives = s.drives := rfl
@[simp] theorem bad_modCore (s : State) (i : Fin 64) (g : Core → Core) : (s.modCore i g).bad = s.bad := rfl
@[simp] theorem pfNext_modCore (s : State) (i : Fin 64) (g : Core → Core) : (s.modCore i g).pfNext = s.pfNext := rfl
@[simp] theorem agenda_modCore (s : State) (i : Fin 64) (g : Core → Core) : (s.modCore i g).agenda = s.agenda := rfl
@[simp] theorem choices_modCore (s : State) (i : Fin 64) (g : Core → Core) : (s.modCore i g).choices = s.choices := rfl
@[simp] theorem fresh_modCore (s : State) (i : Fin 64) (g : Core → Core) : (s.modCore i g).fresh = s.fresh := rfl
@[simp] theorem nextId_modCore (s : State) (i : Fin 64) (g : Core → Core) : (s.modCore i g).nextId = s.nextId := rfl
@[simp] theorem focus_modCore (s : State) (i : Fin 64) (g : Core → Core) : (s.modCore i g).focus = s.focus := rfl

/-! ## The fields of the state under `setCtx` -/

@[simp] theorem campTlb_setCtx (s : State) (r : CtxRef) (x : Context) : (s.setCtx r x).campTlb = s.campTlb := rfl
@[simp] theorem cycle_setCtx (s : State) (r : CtxRef) (x : Context) : (s.setCtx r x).cycle = s.cycle := rfl
@[simp] theorem gptp_setCtx (s : State) (r : CtxRef) (x : Context) : (s.setCtx r x).gptp = s.gptp := rfl
@[simp] theorem dram_setCtx (s : State) (r : CtxRef) (x : Context) : (s.setCtx r x).dram = s.dram := rfl
@[simp] theorem l2_setCtx (s : State) (r : CtxRef) (x : Context) : (s.setCtx r x).l2 = s.l2 := rfl
@[simp] theorem versions_setCtx (s : State) (r : CtxRef) (x : Context) : (s.setCtx r x).versions = s.versions := rfl
@[simp] theorem gambits_setCtx (s : State) (r : CtxRef) (x : Context) : (s.setCtx r x).gambits = s.gambits := rfl
@[simp] theorem reqs_setCtx (s : State) (r : CtxRef) (x : Context) : (s.setCtx r x).reqs = s.reqs := rfl
@[simp] theorem decs_setCtx (s : State) (r : CtxRef) (x : Context) : (s.setCtx r x).decs = s.decs := rfl
@[simp] theorem walks_setCtx (s : State) (r : CtxRef) (x : Context) : (s.setCtx r x).walks = s.walks := rfl
@[simp] theorem launches_setCtx (s : State) (r : CtxRef) (x : Context) : (s.setCtx r x).launches = s.launches := rfl
@[simp] theorem handles_setCtx (s : State) (r : CtxRef) (x : Context) : (s.setCtx r x).handles = s.handles := rfl
@[simp] theorem ready_setCtx (s : State) (r : CtxRef) (x : Context) : (s.setCtx r x).ready = s.ready := rfl
@[simp] theorem lines_setCtx (s : State) (r : CtxRef) (x : Context) : (s.setCtx r x).lines = s.lines := rfl
@[simp] theorem fuse_setCtx (s : State) (r : CtxRef) (x : Context) : (s.setCtx r x).fuse = s.fuse := rfl
@[simp] theorem reserved_setCtx (s : State) (r : CtxRef) (x : Context) : (s.setCtx r x).reserved = s.reserved := rfl
@[simp] theorem bypass_setCtx (s : State) (r : CtxRef) (x : Context) : (s.setCtx r x).bypass = s.bypass := rfl
@[simp] theorem poolBase_setCtx (s : State) (r : CtxRef) (x : Context) : (s.setCtx r x).poolBase = s.poolBase := rfl
@[simp] theorem poolSize_setCtx (s : State) (r : CtxRef) (x : Context) : (s.setCtx r x).poolSize = s.poolSize := rfl
@[simp] theorem resid_setCtx (s : State) (r : CtxRef) (x : Context) : (s.setCtx r x).resid = s.resid := rfl
@[simp] theorem pk_setCtx (s : State) (r : CtxRef) (x : Context) : (s.setCtx r x).pk = s.pk := rfl
@[simp] theorem seats_setCtx (s : State) (r : CtxRef) (x : Context) : (s.setCtx r x).seats = s.seats := rfl
@[simp] theorem seatCtl_setCtx (s : State) (r : CtxRef) (x : Context) : (s.setCtx r x).seatCtl = s.seatCtl := rfl
@[simp] theorem seatTurn_setCtx (s : State) (r : CtxRef) (x : Context) : (s.setCtx r x).seatTurn = s.seatTurn := rfl
@[simp] theorem canopyC_setCtx (s : State) (r : CtxRef) (x : Context) : (s.setCtx r x).canopyC = s.canopyC := rfl
@[simp] theorem root_setCtx (s : State) (r : CtxRef) (x : Context) : (s.setCtx r x).root = s.root := rfl
@[simp] theorem assocs_setCtx (s : State) (r : CtxRef) (x : Context) : (s.setCtx r x).assocs = s.assocs := rfl
@[simp] theorem inbox_setCtx (s : State) (r : CtxRef) (x : Context) : (s.setCtx r x).inbox = s.inbox := rfl
@[simp] theorem deferred_setCtx (s : State) (r : CtxRef) (x : Context) : (s.setCtx r x).deferred = s.deferred := rfl
@[simp] theorem netWaits_setCtx (s : State) (r : CtxRef) (x : Context) : (s.setCtx r x).netWaits = s.netWaits := rfl
@[simp] theorem sent_setCtx (s : State) (r : CtxRef) (x : Context) : (s.setCtx r x).sent = s.sent := rfl
@[simp] theorem ports_setCtx (s : State) (r : CtxRef) (x : Context) : (s.setCtx r x).ports = s.ports := rfl
@[simp] theorem peers_setCtx (s : State) (r : CtxRef) (x : Context) : (s.setCtx r x).peers = s.peers := rfl
@[simp] theorem limitW_setCtx (s : State) (r : CtxRef) (x : Context) : (s.setCtx r x).limitW = s.limitW := rfl
@[simp] theorem standby_setCtx (s : State) (r : CtxRef) (x : Context) : (s.setCtx r x).standby = s.standby := rfl
@[simp] theorem mhz_setCtx (s : State) (r : CtxRef) (x : Context) : (s.setCtx r x).mhz = s.mhz := rfl
@[simp] theorem powered_setCtx (s : State) (r : CtxRef) (x : Context) : (s.setCtx r x).powered = s.powered := rfl
@[simp] theorem sensors_setCtx (s : State) (r : CtxRef) (x : Context) : (s.setCtx r x).sensors = s.sensors := rfl
@[simp] theorem firmware_setCtx (s : State) (r : CtxRef) (x : Context) : (s.setCtx r x).firmware = s.firmware := rfl
@[simp] theorem fwVersion_setCtx (s : State) (r : CtxRef) (x : Context) : (s.setCtx r x).fwVersion = s.fwVersion := rfl
@[simp] theorem fwSlot_setCtx (s : State) (r : CtxRef) (x : Context) : (s.setCtx r x).fwSlot = s.fwSlot := rfl
@[simp] theorem drives_setCtx (s : State) (r : CtxRef) (x : Context) : (s.setCtx r x).drives = s.drives := rfl
@[simp] theorem bad_setCtx (s : State) (r : CtxRef) (x : Context) : (s.setCtx r x).bad = s.bad := rfl
@[simp] theorem pfNext_setCtx (s : State) (r : CtxRef) (x : Context) : (s.setCtx r x).pfNext = s.pfNext := rfl
@[simp] theorem agenda_setCtx (s : State) (r : CtxRef) (x : Context) : (s.setCtx r x).agenda = s.agenda := rfl
@[simp] theorem choices_setCtx (s : State) (r : CtxRef) (x : Context) : (s.setCtx r x).choices = s.choices := rfl
@[simp] theorem fresh_setCtx (s : State) (r : CtxRef) (x : Context) : (s.setCtx r x).fresh = s.fresh := rfl
@[simp] theorem nextId_setCtx (s : State) (r : CtxRef) (x : Context) : (s.setCtx r x).nextId = s.nextId := rfl
@[simp] theorem focus_setCtx (s : State) (r : CtxRef) (x : Context) : (s.setCtx r x).focus = s.focus := rfl

/-! ## The fields of the state under `modCtx` -/

@[simp] theorem campTlb_modCtx (s : State) (r : CtxRef) (g : Context → Context) : (s.modCtx r g).campTlb = s.campTlb := rfl
@[simp] theorem cycle_modCtx (s : State) (r : CtxRef) (g : Context → Context) : (s.modCtx r g).cycle = s.cycle := rfl
@[simp] theorem gptp_modCtx (s : State) (r : CtxRef) (g : Context → Context) : (s.modCtx r g).gptp = s.gptp := rfl
@[simp] theorem dram_modCtx (s : State) (r : CtxRef) (g : Context → Context) : (s.modCtx r g).dram = s.dram := rfl
@[simp] theorem l2_modCtx (s : State) (r : CtxRef) (g : Context → Context) : (s.modCtx r g).l2 = s.l2 := rfl
@[simp] theorem versions_modCtx (s : State) (r : CtxRef) (g : Context → Context) : (s.modCtx r g).versions = s.versions := rfl
@[simp] theorem gambits_modCtx (s : State) (r : CtxRef) (g : Context → Context) : (s.modCtx r g).gambits = s.gambits := rfl
@[simp] theorem reqs_modCtx (s : State) (r : CtxRef) (g : Context → Context) : (s.modCtx r g).reqs = s.reqs := rfl
@[simp] theorem decs_modCtx (s : State) (r : CtxRef) (g : Context → Context) : (s.modCtx r g).decs = s.decs := rfl
@[simp] theorem walks_modCtx (s : State) (r : CtxRef) (g : Context → Context) : (s.modCtx r g).walks = s.walks := rfl
@[simp] theorem launches_modCtx (s : State) (r : CtxRef) (g : Context → Context) : (s.modCtx r g).launches = s.launches := rfl
@[simp] theorem handles_modCtx (s : State) (r : CtxRef) (g : Context → Context) : (s.modCtx r g).handles = s.handles := rfl
@[simp] theorem ready_modCtx (s : State) (r : CtxRef) (g : Context → Context) : (s.modCtx r g).ready = s.ready := rfl
@[simp] theorem lines_modCtx (s : State) (r : CtxRef) (g : Context → Context) : (s.modCtx r g).lines = s.lines := rfl
@[simp] theorem fuse_modCtx (s : State) (r : CtxRef) (g : Context → Context) : (s.modCtx r g).fuse = s.fuse := rfl
@[simp] theorem reserved_modCtx (s : State) (r : CtxRef) (g : Context → Context) : (s.modCtx r g).reserved = s.reserved := rfl
@[simp] theorem bypass_modCtx (s : State) (r : CtxRef) (g : Context → Context) : (s.modCtx r g).bypass = s.bypass := rfl
@[simp] theorem poolBase_modCtx (s : State) (r : CtxRef) (g : Context → Context) : (s.modCtx r g).poolBase = s.poolBase := rfl
@[simp] theorem poolSize_modCtx (s : State) (r : CtxRef) (g : Context → Context) : (s.modCtx r g).poolSize = s.poolSize := rfl
@[simp] theorem resid_modCtx (s : State) (r : CtxRef) (g : Context → Context) : (s.modCtx r g).resid = s.resid := rfl
@[simp] theorem pk_modCtx (s : State) (r : CtxRef) (g : Context → Context) : (s.modCtx r g).pk = s.pk := rfl
@[simp] theorem seats_modCtx (s : State) (r : CtxRef) (g : Context → Context) : (s.modCtx r g).seats = s.seats := rfl
@[simp] theorem seatCtl_modCtx (s : State) (r : CtxRef) (g : Context → Context) : (s.modCtx r g).seatCtl = s.seatCtl := rfl
@[simp] theorem seatTurn_modCtx (s : State) (r : CtxRef) (g : Context → Context) : (s.modCtx r g).seatTurn = s.seatTurn := rfl
@[simp] theorem canopyC_modCtx (s : State) (r : CtxRef) (g : Context → Context) : (s.modCtx r g).canopyC = s.canopyC := rfl
@[simp] theorem root_modCtx (s : State) (r : CtxRef) (g : Context → Context) : (s.modCtx r g).root = s.root := rfl
@[simp] theorem assocs_modCtx (s : State) (r : CtxRef) (g : Context → Context) : (s.modCtx r g).assocs = s.assocs := rfl
@[simp] theorem inbox_modCtx (s : State) (r : CtxRef) (g : Context → Context) : (s.modCtx r g).inbox = s.inbox := rfl
@[simp] theorem deferred_modCtx (s : State) (r : CtxRef) (g : Context → Context) : (s.modCtx r g).deferred = s.deferred := rfl
@[simp] theorem netWaits_modCtx (s : State) (r : CtxRef) (g : Context → Context) : (s.modCtx r g).netWaits = s.netWaits := rfl
@[simp] theorem sent_modCtx (s : State) (r : CtxRef) (g : Context → Context) : (s.modCtx r g).sent = s.sent := rfl
@[simp] theorem ports_modCtx (s : State) (r : CtxRef) (g : Context → Context) : (s.modCtx r g).ports = s.ports := rfl
@[simp] theorem peers_modCtx (s : State) (r : CtxRef) (g : Context → Context) : (s.modCtx r g).peers = s.peers := rfl
@[simp] theorem limitW_modCtx (s : State) (r : CtxRef) (g : Context → Context) : (s.modCtx r g).limitW = s.limitW := rfl
@[simp] theorem standby_modCtx (s : State) (r : CtxRef) (g : Context → Context) : (s.modCtx r g).standby = s.standby := rfl
@[simp] theorem mhz_modCtx (s : State) (r : CtxRef) (g : Context → Context) : (s.modCtx r g).mhz = s.mhz := rfl
@[simp] theorem powered_modCtx (s : State) (r : CtxRef) (g : Context → Context) : (s.modCtx r g).powered = s.powered := rfl
@[simp] theorem sensors_modCtx (s : State) (r : CtxRef) (g : Context → Context) : (s.modCtx r g).sensors = s.sensors := rfl
@[simp] theorem firmware_modCtx (s : State) (r : CtxRef) (g : Context → Context) : (s.modCtx r g).firmware = s.firmware := rfl
@[simp] theorem fwVersion_modCtx (s : State) (r : CtxRef) (g : Context → Context) : (s.modCtx r g).fwVersion = s.fwVersion := rfl
@[simp] theorem fwSlot_modCtx (s : State) (r : CtxRef) (g : Context → Context) : (s.modCtx r g).fwSlot = s.fwSlot := rfl
@[simp] theorem drives_modCtx (s : State) (r : CtxRef) (g : Context → Context) : (s.modCtx r g).drives = s.drives := rfl
@[simp] theorem bad_modCtx (s : State) (r : CtxRef) (g : Context → Context) : (s.modCtx r g).bad = s.bad := rfl
@[simp] theorem pfNext_modCtx (s : State) (r : CtxRef) (g : Context → Context) : (s.modCtx r g).pfNext = s.pfNext := rfl
@[simp] theorem agenda_modCtx (s : State) (r : CtxRef) (g : Context → Context) : (s.modCtx r g).agenda = s.agenda := rfl
@[simp] theorem choices_modCtx (s : State) (r : CtxRef) (g : Context → Context) : (s.modCtx r g).choices = s.choices := rfl
@[simp] theorem fresh_modCtx (s : State) (r : CtxRef) (g : Context → Context) : (s.modCtx r g).fresh = s.fresh := rfl
@[simp] theorem nextId_modCtx (s : State) (r : CtxRef) (g : Context → Context) : (s.modCtx r g).nextId = s.nextId := rfl
@[simp] theorem focus_modCtx (s : State) (r : CtxRef) (g : Context → Context) : (s.modCtx r g).focus = s.focus := rfl

/-! ## The fields of the state under `setMe` -/

@[simp] theorem campTlb_setMe (s : State) (x : Context) : (s.setMe x).campTlb = s.campTlb := rfl
@[simp] theorem cycle_setMe (s : State) (x : Context) : (s.setMe x).cycle = s.cycle := rfl
@[simp] theorem gptp_setMe (s : State) (x : Context) : (s.setMe x).gptp = s.gptp := rfl
@[simp] theorem dram_setMe (s : State) (x : Context) : (s.setMe x).dram = s.dram := rfl
@[simp] theorem l2_setMe (s : State) (x : Context) : (s.setMe x).l2 = s.l2 := rfl
@[simp] theorem versions_setMe (s : State) (x : Context) : (s.setMe x).versions = s.versions := rfl
@[simp] theorem gambits_setMe (s : State) (x : Context) : (s.setMe x).gambits = s.gambits := rfl
@[simp] theorem reqs_setMe (s : State) (x : Context) : (s.setMe x).reqs = s.reqs := rfl
@[simp] theorem decs_setMe (s : State) (x : Context) : (s.setMe x).decs = s.decs := rfl
@[simp] theorem walks_setMe (s : State) (x : Context) : (s.setMe x).walks = s.walks := rfl
@[simp] theorem launches_setMe (s : State) (x : Context) : (s.setMe x).launches = s.launches := rfl
@[simp] theorem handles_setMe (s : State) (x : Context) : (s.setMe x).handles = s.handles := rfl
@[simp] theorem ready_setMe (s : State) (x : Context) : (s.setMe x).ready = s.ready := rfl
@[simp] theorem lines_setMe (s : State) (x : Context) : (s.setMe x).lines = s.lines := rfl
@[simp] theorem fuse_setMe (s : State) (x : Context) : (s.setMe x).fuse = s.fuse := rfl
@[simp] theorem reserved_setMe (s : State) (x : Context) : (s.setMe x).reserved = s.reserved := rfl
@[simp] theorem bypass_setMe (s : State) (x : Context) : (s.setMe x).bypass = s.bypass := rfl
@[simp] theorem poolBase_setMe (s : State) (x : Context) : (s.setMe x).poolBase = s.poolBase := rfl
@[simp] theorem poolSize_setMe (s : State) (x : Context) : (s.setMe x).poolSize = s.poolSize := rfl
@[simp] theorem resid_setMe (s : State) (x : Context) : (s.setMe x).resid = s.resid := rfl
@[simp] theorem pk_setMe (s : State) (x : Context) : (s.setMe x).pk = s.pk := rfl
@[simp] theorem seats_setMe (s : State) (x : Context) : (s.setMe x).seats = s.seats := rfl
@[simp] theorem seatCtl_setMe (s : State) (x : Context) : (s.setMe x).seatCtl = s.seatCtl := rfl
@[simp] theorem seatTurn_setMe (s : State) (x : Context) : (s.setMe x).seatTurn = s.seatTurn := rfl
@[simp] theorem canopyC_setMe (s : State) (x : Context) : (s.setMe x).canopyC = s.canopyC := rfl
@[simp] theorem root_setMe (s : State) (x : Context) : (s.setMe x).root = s.root := rfl
@[simp] theorem assocs_setMe (s : State) (x : Context) : (s.setMe x).assocs = s.assocs := rfl
@[simp] theorem inbox_setMe (s : State) (x : Context) : (s.setMe x).inbox = s.inbox := rfl
@[simp] theorem deferred_setMe (s : State) (x : Context) : (s.setMe x).deferred = s.deferred := rfl
@[simp] theorem netWaits_setMe (s : State) (x : Context) : (s.setMe x).netWaits = s.netWaits := rfl
@[simp] theorem sent_setMe (s : State) (x : Context) : (s.setMe x).sent = s.sent := rfl
@[simp] theorem ports_setMe (s : State) (x : Context) : (s.setMe x).ports = s.ports := rfl
@[simp] theorem peers_setMe (s : State) (x : Context) : (s.setMe x).peers = s.peers := rfl
@[simp] theorem limitW_setMe (s : State) (x : Context) : (s.setMe x).limitW = s.limitW := rfl
@[simp] theorem standby_setMe (s : State) (x : Context) : (s.setMe x).standby = s.standby := rfl
@[simp] theorem mhz_setMe (s : State) (x : Context) : (s.setMe x).mhz = s.mhz := rfl
@[simp] theorem powered_setMe (s : State) (x : Context) : (s.setMe x).powered = s.powered := rfl
@[simp] theorem sensors_setMe (s : State) (x : Context) : (s.setMe x).sensors = s.sensors := rfl
@[simp] theorem firmware_setMe (s : State) (x : Context) : (s.setMe x).firmware = s.firmware := rfl
@[simp] theorem fwVersion_setMe (s : State) (x : Context) : (s.setMe x).fwVersion = s.fwVersion := rfl
@[simp] theorem fwSlot_setMe (s : State) (x : Context) : (s.setMe x).fwSlot = s.fwSlot := rfl
@[simp] theorem drives_setMe (s : State) (x : Context) : (s.setMe x).drives = s.drives := rfl
@[simp] theorem bad_setMe (s : State) (x : Context) : (s.setMe x).bad = s.bad := rfl
@[simp] theorem pfNext_setMe (s : State) (x : Context) : (s.setMe x).pfNext = s.pfNext := rfl
@[simp] theorem agenda_setMe (s : State) (x : Context) : (s.setMe x).agenda = s.agenda := rfl
@[simp] theorem choices_setMe (s : State) (x : Context) : (s.setMe x).choices = s.choices := rfl
@[simp] theorem fresh_setMe (s : State) (x : Context) : (s.setMe x).fresh = s.fresh := rfl
@[simp] theorem nextId_setMe (s : State) (x : Context) : (s.setMe x).nextId = s.nextId := rfl
@[simp] theorem focus_setMe (s : State) (x : Context) : (s.setMe x).focus = s.focus := rfl

/-! ## The fields of the state under `land` -/

@[simp] theorem campTlb_land (s : State) (lat : Nat) (w : RegWrite) : (s.land lat w).campTlb = s.campTlb := rfl
@[simp] theorem cycle_land (s : State) (lat : Nat) (w : RegWrite) : (s.land lat w).cycle = s.cycle := rfl
@[simp] theorem gptp_land (s : State) (lat : Nat) (w : RegWrite) : (s.land lat w).gptp = s.gptp := rfl
@[simp] theorem dram_land (s : State) (lat : Nat) (w : RegWrite) : (s.land lat w).dram = s.dram := rfl
@[simp] theorem l2_land (s : State) (lat : Nat) (w : RegWrite) : (s.land lat w).l2 = s.l2 := rfl
@[simp] theorem versions_land (s : State) (lat : Nat) (w : RegWrite) : (s.land lat w).versions = s.versions := rfl
@[simp] theorem gambits_land (s : State) (lat : Nat) (w : RegWrite) : (s.land lat w).gambits = s.gambits := rfl
@[simp] theorem reqs_land (s : State) (lat : Nat) (w : RegWrite) : (s.land lat w).reqs = s.reqs := rfl
@[simp] theorem decs_land (s : State) (lat : Nat) (w : RegWrite) : (s.land lat w).decs = s.decs := rfl
@[simp] theorem walks_land (s : State) (lat : Nat) (w : RegWrite) : (s.land lat w).walks = s.walks := rfl
@[simp] theorem launches_land (s : State) (lat : Nat) (w : RegWrite) : (s.land lat w).launches = s.launches := rfl
@[simp] theorem handles_land (s : State) (lat : Nat) (w : RegWrite) : (s.land lat w).handles = s.handles := rfl
@[simp] theorem ready_land (s : State) (lat : Nat) (w : RegWrite) : (s.land lat w).ready = s.ready := rfl
@[simp] theorem lines_land (s : State) (lat : Nat) (w : RegWrite) : (s.land lat w).lines = s.lines := rfl
@[simp] theorem fuse_land (s : State) (lat : Nat) (w : RegWrite) : (s.land lat w).fuse = s.fuse := rfl
@[simp] theorem reserved_land (s : State) (lat : Nat) (w : RegWrite) : (s.land lat w).reserved = s.reserved := rfl
@[simp] theorem bypass_land (s : State) (lat : Nat) (w : RegWrite) : (s.land lat w).bypass = s.bypass := rfl
@[simp] theorem poolBase_land (s : State) (lat : Nat) (w : RegWrite) : (s.land lat w).poolBase = s.poolBase := rfl
@[simp] theorem poolSize_land (s : State) (lat : Nat) (w : RegWrite) : (s.land lat w).poolSize = s.poolSize := rfl
@[simp] theorem resid_land (s : State) (lat : Nat) (w : RegWrite) : (s.land lat w).resid = s.resid := rfl
@[simp] theorem pk_land (s : State) (lat : Nat) (w : RegWrite) : (s.land lat w).pk = s.pk := rfl
@[simp] theorem seats_land (s : State) (lat : Nat) (w : RegWrite) : (s.land lat w).seats = s.seats := rfl
@[simp] theorem seatCtl_land (s : State) (lat : Nat) (w : RegWrite) : (s.land lat w).seatCtl = s.seatCtl := rfl
@[simp] theorem seatTurn_land (s : State) (lat : Nat) (w : RegWrite) : (s.land lat w).seatTurn = s.seatTurn := rfl
@[simp] theorem canopyC_land (s : State) (lat : Nat) (w : RegWrite) : (s.land lat w).canopyC = s.canopyC := rfl
@[simp] theorem root_land (s : State) (lat : Nat) (w : RegWrite) : (s.land lat w).root = s.root := rfl
@[simp] theorem assocs_land (s : State) (lat : Nat) (w : RegWrite) : (s.land lat w).assocs = s.assocs := rfl
@[simp] theorem inbox_land (s : State) (lat : Nat) (w : RegWrite) : (s.land lat w).inbox = s.inbox := rfl
@[simp] theorem deferred_land (s : State) (lat : Nat) (w : RegWrite) : (s.land lat w).deferred = s.deferred := rfl
@[simp] theorem netWaits_land (s : State) (lat : Nat) (w : RegWrite) : (s.land lat w).netWaits = s.netWaits := rfl
@[simp] theorem sent_land (s : State) (lat : Nat) (w : RegWrite) : (s.land lat w).sent = s.sent := rfl
@[simp] theorem ports_land (s : State) (lat : Nat) (w : RegWrite) : (s.land lat w).ports = s.ports := rfl
@[simp] theorem peers_land (s : State) (lat : Nat) (w : RegWrite) : (s.land lat w).peers = s.peers := rfl
@[simp] theorem limitW_land (s : State) (lat : Nat) (w : RegWrite) : (s.land lat w).limitW = s.limitW := rfl
@[simp] theorem standby_land (s : State) (lat : Nat) (w : RegWrite) : (s.land lat w).standby = s.standby := rfl
@[simp] theorem mhz_land (s : State) (lat : Nat) (w : RegWrite) : (s.land lat w).mhz = s.mhz := rfl
@[simp] theorem powered_land (s : State) (lat : Nat) (w : RegWrite) : (s.land lat w).powered = s.powered := rfl
@[simp] theorem sensors_land (s : State) (lat : Nat) (w : RegWrite) : (s.land lat w).sensors = s.sensors := rfl
@[simp] theorem firmware_land (s : State) (lat : Nat) (w : RegWrite) : (s.land lat w).firmware = s.firmware := rfl
@[simp] theorem fwVersion_land (s : State) (lat : Nat) (w : RegWrite) : (s.land lat w).fwVersion = s.fwVersion := rfl
@[simp] theorem fwSlot_land (s : State) (lat : Nat) (w : RegWrite) : (s.land lat w).fwSlot = s.fwSlot := rfl
@[simp] theorem drives_land (s : State) (lat : Nat) (w : RegWrite) : (s.land lat w).drives = s.drives := rfl
@[simp] theorem bad_land (s : State) (lat : Nat) (w : RegWrite) : (s.land lat w).bad = s.bad := rfl
@[simp] theorem pfNext_land (s : State) (lat : Nat) (w : RegWrite) : (s.land lat w).pfNext = s.pfNext := rfl
@[simp] theorem agenda_land (s : State) (lat : Nat) (w : RegWrite) : (s.land lat w).agenda = s.agenda := rfl
@[simp] theorem choices_land (s : State) (lat : Nat) (w : RegWrite) : (s.land lat w).choices = s.choices := rfl
@[simp] theorem fresh_land (s : State) (lat : Nat) (w : RegWrite) : (s.land lat w).fresh = s.fresh := rfl
@[simp] theorem nextId_land (s : State) (lat : Nat) (w : RegWrite) : (s.land lat w).nextId = s.nextId := rfl
@[simp] theorem focus_land (s : State) (lat : Nat) (w : RegWrite) : (s.land lat w).focus = s.focus := rfl

/-! ## The fields of the state under `due` -/

@[simp] theorem cores_due (s : State) (e : Instr) : (s.due e).cores = s.cores := rfl
@[simp] theorem campTlb_due (s : State) (e : Instr) : (s.due e).campTlb = s.campTlb := rfl
@[simp] theorem cycle_due (s : State) (e : Instr) : (s.due e).cycle = s.cycle := rfl
@[simp] theorem gptp_due (s : State) (e : Instr) : (s.due e).gptp = s.gptp := rfl
@[simp] theorem dram_due (s : State) (e : Instr) : (s.due e).dram = s.dram := rfl
@[simp] theorem l2_due (s : State) (e : Instr) : (s.due e).l2 = s.l2 := rfl
@[simp] theorem versions_due (s : State) (e : Instr) : (s.due e).versions = s.versions := rfl
@[simp] theorem gambits_due (s : State) (e : Instr) : (s.due e).gambits = s.gambits := rfl
@[simp] theorem reqs_due (s : State) (e : Instr) : (s.due e).reqs = s.reqs := rfl
@[simp] theorem decs_due (s : State) (e : Instr) : (s.due e).decs = s.decs := rfl
@[simp] theorem walks_due (s : State) (e : Instr) : (s.due e).walks = s.walks := rfl
@[simp] theorem launches_due (s : State) (e : Instr) : (s.due e).launches = s.launches := rfl
@[simp] theorem handles_due (s : State) (e : Instr) : (s.due e).handles = s.handles := rfl
@[simp] theorem ready_due (s : State) (e : Instr) : (s.due e).ready = s.ready := rfl
@[simp] theorem lines_due (s : State) (e : Instr) : (s.due e).lines = s.lines := rfl
@[simp] theorem fuse_due (s : State) (e : Instr) : (s.due e).fuse = s.fuse := rfl
@[simp] theorem reserved_due (s : State) (e : Instr) : (s.due e).reserved = s.reserved := rfl
@[simp] theorem bypass_due (s : State) (e : Instr) : (s.due e).bypass = s.bypass := rfl
@[simp] theorem poolBase_due (s : State) (e : Instr) : (s.due e).poolBase = s.poolBase := rfl
@[simp] theorem poolSize_due (s : State) (e : Instr) : (s.due e).poolSize = s.poolSize := rfl
@[simp] theorem resid_due (s : State) (e : Instr) : (s.due e).resid = s.resid := rfl
@[simp] theorem pk_due (s : State) (e : Instr) : (s.due e).pk = s.pk := rfl
@[simp] theorem seats_due (s : State) (e : Instr) : (s.due e).seats = s.seats := rfl
@[simp] theorem seatCtl_due (s : State) (e : Instr) : (s.due e).seatCtl = s.seatCtl := rfl
@[simp] theorem seatTurn_due (s : State) (e : Instr) : (s.due e).seatTurn = s.seatTurn := rfl
@[simp] theorem canopyC_due (s : State) (e : Instr) : (s.due e).canopyC = s.canopyC := rfl
@[simp] theorem root_due (s : State) (e : Instr) : (s.due e).root = s.root := rfl
@[simp] theorem assocs_due (s : State) (e : Instr) : (s.due e).assocs = s.assocs := rfl
@[simp] theorem inbox_due (s : State) (e : Instr) : (s.due e).inbox = s.inbox := rfl
@[simp] theorem deferred_due (s : State) (e : Instr) : (s.due e).deferred = s.deferred := rfl
@[simp] theorem netWaits_due (s : State) (e : Instr) : (s.due e).netWaits = s.netWaits := rfl
@[simp] theorem sent_due (s : State) (e : Instr) : (s.due e).sent = s.sent := rfl
@[simp] theorem ports_due (s : State) (e : Instr) : (s.due e).ports = s.ports := rfl
@[simp] theorem peers_due (s : State) (e : Instr) : (s.due e).peers = s.peers := rfl
@[simp] theorem limitW_due (s : State) (e : Instr) : (s.due e).limitW = s.limitW := rfl
@[simp] theorem standby_due (s : State) (e : Instr) : (s.due e).standby = s.standby := rfl
@[simp] theorem mhz_due (s : State) (e : Instr) : (s.due e).mhz = s.mhz := rfl
@[simp] theorem powered_due (s : State) (e : Instr) : (s.due e).powered = s.powered := rfl
@[simp] theorem sensors_due (s : State) (e : Instr) : (s.due e).sensors = s.sensors := rfl
@[simp] theorem firmware_due (s : State) (e : Instr) : (s.due e).firmware = s.firmware := rfl
@[simp] theorem fwVersion_due (s : State) (e : Instr) : (s.due e).fwVersion = s.fwVersion := rfl
@[simp] theorem fwSlot_due (s : State) (e : Instr) : (s.due e).fwSlot = s.fwSlot := rfl
@[simp] theorem drives_due (s : State) (e : Instr) : (s.due e).drives = s.drives := rfl
@[simp] theorem bad_due (s : State) (e : Instr) : (s.due e).bad = s.bad := rfl
@[simp] theorem pfNext_due (s : State) (e : Instr) : (s.due e).pfNext = s.pfNext := rfl
@[simp] theorem choices_due (s : State) (e : Instr) : (s.due e).choices = s.choices := rfl
@[simp] theorem fresh_due (s : State) (e : Instr) : (s.due e).fresh = s.fresh := rfl
@[simp] theorem nextId_due (s : State) (e : Instr) : (s.due e).nextId = s.nextId := rfl
@[simp] theorem focus_due (s : State) (e : Instr) : (s.due e).focus = s.focus := rfl

end Sys2Proof.Machine
end

