-- ==== Sys2Proof/Laws/Ops.lean ====
section
/-!
SUPPORT. The shared operations: what each can do, said once.
-/
namespace Sys2Proof.Machine

/-! ## Memory is left alone -/

theorem sameMemory_refl (s : State) : s.sameMemory s := ⟨fun _ => rfl, fun _ _ => ⟨rfl, rfl⟩⟩

theorem sameMemory_trans {s t u : State} (h : s.sameMemory t) (k : t.sameMemory u) : s.sameMemory u :=
  ⟨fun a => (k.1 a).trans (h.1 a),
    fun c a => ⟨((k.2 c a).1).trans (h.2 c a).1, ((k.2 c a).2).trans (h.2 c a).2⟩⟩

/-- A core that keeps its scratchpad and canopy keeps every memory. -/
theorem sameMemory_setCore (s : State) (i : Fin 64) (k : Core) (h1 : k.spad = (s.core i).spad)
    (h2 : k.canopy = (s.core i).canopy) : s.sameMemory (s.setCore i k) := by
  refine ⟨fun _ => rfl, fun c a => ?_⟩
  by_cases h : c = i
  · subst h; simp [h1, h2]
  · simp [core_setCore_other _ _ _ _ h]

theorem sameMemory_setCtx (s : State) (r : CtxRef) (x : Context) : s.sameMemory (s.setCtx r x) :=
  sameMemory_setCore _ _ _ rfl rfl

theorem sameMemory_modCtx (s : State) (r : CtxRef) (f : Context → Context) : s.sameMemory (s.modCtx r f) :=
  sameMemory_setCtx _ _ _

theorem sameMemory_due (s : State) (e : Instr) : s.sameMemory (s.due e) := sameMemory_refl s

theorem sameMemory_land (s : State) (lat : Nat) (w : RegWrite) : s.sameMemory (s.land lat w) :=
  sameMemory_setCtx _ _ _

/-! ## The canonical form -/

theorem memoriesWf_setCore (s : State) (i : Fin 64) (k : Core) (h : s.memoriesWf) (h1 : k.spad.wf = true)
    (h2 : k.canopy.wf = true) : (s.setCore i k).memoriesWf := by
  refine ⟨h.1, fun c => ?_, h.2.2.1, h.2.2.2⟩
  by_cases hc : c = i
  · subst hc; simp [h1, h2]
  · simpa [core_setCore_other _ _ _ _ hc] using h.2.1 c

theorem memoriesWf_setCtx (s : State) (r : CtxRef) (x : Context) (h : s.memoriesWf) : (s.setCtx r x).memoriesWf :=
  memoriesWf_setCore _ _ _ h (h.2.1 r.core).1 (h.2.1 r.core).2

theorem memoriesWf_modCtx (s : State) (r : CtxRef) (f : Context → Context) (h : s.memoriesWf) :
    (s.modCtx r f).memoriesWf := memoriesWf_setCtx _ _ _ h

theorem memoriesWf_due (s : State) (e : Instr) (h : s.memoriesWf) : (s.due e).memoriesWf := h

theorem memoriesWf_land (s : State) (lat : Nat) (w : RegWrite) (h : s.memoriesWf) : (s.land lat w).memoriesWf :=
  memoriesWf_setCtx _ _ _ h

/-- Device memory written at its home slices. -/
theorem memoriesWf_setDram (s : State) (m : Mem) (h : s.memoriesWf) (hm : m.wf = true) :
    State.memoriesWf { s with dram := m } := ⟨hm, h.2.1, h.2.2.1, h.2.2.2⟩

theorem reset_dram_wf : State.reset.dram.wf = true := by decide

theorem reset_core_memories_wf (i : Fin 64) :
    (State.reset.core i).spad.wf = true ∧ (State.reset.core i).canopy.wf = true := by
  have h : State.reset.core i = Core.reset := Vector.getElem_replicate _
  rw [h]
  exact ⟨mem_empty_wf 0, mem_empty_wf 0⟩

/-! ## Sets of contexts -/

theorem mem_tabulate {α : Type} (f : Nat → α) (n : Nat) (x : α) :
    x ∈ tabulate f n ↔ ∃ i < n, f i = x := by
  induction n with
  | zero => simp [tabulate]
  | succ n ih =>
    simp only [tabulate, List.mem_append, ih, List.mem_singleton]
    constructor
    · rintro (⟨i, hi, rfl⟩ | rfl)
      · exact ⟨i, by omega, rfl⟩
      · exact ⟨n, by omega, rfl⟩
    · rintro ⟨i, hi, rfl⟩
      by_cases h : i = n
      · right; rw [h]
      · left; exact ⟨i, by omega, rfl⟩

/-- A context is in its own fused set. -/
theorem self_mem_fusedSet (s : State) (r : CtxRef) : r ∈ s.fusedSet r := by
  rw [State.fusedSet, mem_tabulate]
  have hw : 0 < widthOf (s.ctx r).fusew := Nat.two_pow_pos _
  refine ⟨r.core.val % widthOf (s.ctx r).fusew, Nat.mod_lt _ hw, ?_⟩
  have h : r.core.val / widthOf (s.ctx r).fusew * widthOf (s.ctx r).fusew +
      r.core.val % widthOf (s.ctx r).fusew = r.core.val := Nat.div_add_mod' _ _
  rw [h]
  cases r
  simp [Fin.ofNat, Nat.mod_eq_of_lt (Fin.is_lt _)]

theorem self_mem_issueSet (s : State) (r : CtxRef) : r ∈ s.issueSet r := by
  unfold State.issueSet
  split
  · simp
  · exact self_mem_fusedSet _ _

/-- A context alone in its set issues alone. -/
theorem issueSet_alone (s : State) (r : CtxRef) (h : (s.ctx r).fusew = 0) : s.issueSet r = [r] := by
  have hw : widthOf (s.ctx r).fusew = 1 := by rw [h]; rfl
  unfold State.issueSet State.fusedSet
  rw [hw]
  cases r
  simp [tabulate, Fin.ofNat, Nat.mod_eq_of_lt (Fin.is_lt _)]

theorem fusedSet_alone (s : State) (r : CtxRef) (h : (s.ctx r).fusew = 0) : s.fusedSet r = [r] := by
  have hw : widthOf (s.ctx r).fusew = 1 := by rw [h]; rfl
  unfold State.fusedSet
  rw [hw]
  cases r
  simp [tabulate, Fin.ofNat, Nat.mod_eq_of_lt (Fin.is_lt _)]

/-- What contexts changed one by one does not reach. -/
theorem foldl_modCtx_keeps {α : Type} (p : State → α) (hp : ∀ s r x, p (State.setCtx s r x) = p s)
    (f : Context → Context) (l : List CtxRef) (s : State) : p (l.foldl (fun s m => s.modCtx m f) s) = p s := by
  induction l generalizing s with
  | nil => rfl
  | cons r l ih => rw [List.foldl_cons, ih]; exact hp _ _ _

/-- A context outside a list is not changed with it. -/
theorem ctx_foldl_modCtx_other (f : Context → Context) (l : List CtxRef) (s : State) (q : CtxRef) (h : q ∉ l) :
    (l.foldl (fun s m => s.modCtx m f) s).ctx q = s.ctx q := by
  induction l generalizing s with
  | nil => rfl
  | cons r l ih =>
    simp only [List.mem_cons, not_or] at h
    rw [List.foldl_cons, ih _ h.2, ctx_modCtx_other _ _ _ _ h.1]

/-- A context of a list is changed once, where a second change adds nothing. -/
theorem ctx_foldl_modCtx_mem (f : Context → Context) (hf : ∀ x, f (f x) = f x) (l : List CtxRef) (s : State)
    (q : CtxRef) (h : q ∈ l) : (l.foldl (fun s m => s.modCtx m f) s).ctx q = f (s.ctx q) := by
  induction l generalizing s with
  | nil => simp at h
  | cons r l ih =>
    rw [List.foldl_cons]
    by_cases hq : q ∈ l
    · rw [ih _ hq]
      by_cases hr : q = r
      · subst hr; rw [ctx_modCtx_same, hf]
      · rw [ctx_modCtx_other _ _ _ _ hr]
    · have hr : q = r := (List.mem_cons.mp h).resolve_right hq
      subst hr
      rw [ctx_foldl_modCtx_other _ _ _ _ hq, ctx_modCtx_same]

theorem sameMemory_foldl_modCtx (f : Context → Context) (l : List CtxRef) (s : State) :
    s.sameMemory (l.foldl (fun s m => s.modCtx m f) s) := by
  induction l generalizing s with
  | nil => exact sameMemory_refl s
  | cons r l ih => exact sameMemory_trans (sameMemory_modCtx s r f) (ih _)

theorem memoriesWf_foldl_modCtx (f : Context → Context) (l : List CtxRef) (s : State) (h : s.memoriesWf) :
    (l.foldl (fun s m => s.modCtx m f) s).memoriesWf := by
  induction l generalizing s with
  | nil => exact h
  | cons r l ih => exact ih _ (memoriesWf_modCtx s r f h)

/-! ## Holds and faults -/

/-- A hold marks the contexts that issue together, and nothing else. -/
theorem ctx_holdFor (s : State) (h : Hold) (q : CtxRef) :
    (s.holdFor h).ctx q = if q ∈ s.issueSet s.focus.c then { s.ctx q with run := .held h } else s.ctx q := by
  unfold State.holdFor
  split
  · rename_i hq
    exact ctx_foldl_modCtx_mem (fun x => { x with run := .held h }) (fun _ => rfl) _ s q hq
  · rename_i hq
    exact ctx_foldl_modCtx_other (fun x => { x with run := .held h }) _ s q hq

theorem sameMemory_holdFor (s : State) (h : Hold) : s.sameMemory (s.holdFor h) :=
  sameMemory_foldl_modCtx (fun x => { x with run := .held h }) (s.issueSet s.focus.c) s

theorem memoriesWf_holdFor (s : State) (h : Hold) (hs : s.memoriesWf) : (s.holdFor h).memoriesWf :=
  memoriesWf_foldl_modCtx (fun x => { x with run := .held h }) (s.issueSet s.focus.c) s hs

/-- A context that a fault has stopped takes no other. -/
theorem takeFault_of_faulted (s : State) (r : CtxRef) (pos : Fin 8) (cause : Cause) (detail : BitVec 8)
    (pc : PcWord) (faddr : DWord) (h : (s.ctx r).run = .faulted) :
    s.takeFault r pos cause detail pc faddr = s := if_pos h

/-- A fault stops the contexts that issue together, with its registers written, and the rest of their fused set;
and the retirement of their task is due. -/
theorem takeFault_eq (s : State) (r : CtxRef) (pos : Fin 8) (cause : Cause) (detail : BitVec 8) (pc : PcWord)
    (faddr : DWord) (h : (s.ctx r).run ≠ .faulted) :
    ∃ (l l' : List CtxRef) (e : Instr), s.takeFault r pos cause detail pc faddr =
      (l'.foldl (fun s m => s.modCtx m fun x => { x with run := .faulted })
        (l.foldl (fun s m => s.modCtx m fun x => x.stopWith pos cause detail pc faddr s.gptp) s)).due e :=
  ⟨_, _, _, if_neg h⟩

theorem sameMemory_stopAll (l : List CtxRef) (pos : Fin 8) (cause : Cause) (detail : BitVec 8) (pc : PcWord)
    (faddr : DWord) (s : State) :
    s.sameMemory (l.foldl (fun s m => s.modCtx m fun x => x.stopWith pos cause detail pc faddr s.gptp) s) := by
  induction l generalizing s with
  | nil => exact sameMemory_refl s
  | cons r l ih => rw [List.foldl_cons]; exact sameMemory_trans (sameMemory_modCtx s r _) (ih _)

theorem memoriesWf_stopAll (l : List CtxRef) (pos : Fin 8) (cause : Cause) (detail : BitVec 8) (pc : PcWord)
    (faddr : DWord) (s : State) (h : s.memoriesWf) :
    State.memoriesWf (l.foldl (fun s m => s.modCtx m fun x => x.stopWith pos cause detail pc faddr s.gptp) s) := by
  induction l generalizing s with
  | nil => exact h
  | cons r l ih => rw [List.foldl_cons]; exact ih _ (memoriesWf_modCtx s r _ h)

theorem sameMemory_takeFault (s : State) (r : CtxRef) (pos : Fin 8) (cause : Cause) (detail : BitVec 8)
    (pc : PcWord) (faddr : DWord) : s.sameMemory (s.takeFault r pos cause detail pc faddr) := by
  by_cases h : (s.ctx r).run = .faulted
  · rw [takeFault_of_faulted _ _ _ _ _ _ _ h]; exact sameMemory_refl s
  · obtain ⟨l, l', e, he⟩ := takeFault_eq s r pos cause detail pc faddr h
    rw [he]
    exact sameMemory_trans (sameMemory_trans (sameMemory_stopAll l pos cause detail pc faddr s)
      (sameMemory_foldl_modCtx _ l' _)) (sameMemory_due _ e)

theorem memoriesWf_takeFault (s : State) (r : CtxRef) (pos : Fin 8) (cause : Cause) (detail : BitVec 8)
    (pc : PcWord) (faddr : DWord) (h : s.memoriesWf) : (s.takeFault r pos cause detail pc faddr).memoriesWf := by
  by_cases hr : (s.ctx r).run = .faulted
  · rw [takeFault_of_faulted _ _ _ _ _ _ _ hr]; exact h
  · obtain ⟨l, l', e, he⟩ := takeFault_eq s r pos cause detail pc faddr hr
    rw [he]
    exact memoriesWf_due _ e (memoriesWf_foldl_modCtx _ l' _ (memoriesWf_stopAll l pos cause detail pc faddr s h))

/-! ## Waiting for g registers -/

/-- The first pending register of a list is one of it, and pending. -/
theorem gBusy_some (x : Context) (l : List (Fin 16)) (d : Fin 16) (h : x.gBusy l = some d) :
    d ∈ l ∧ x.gPending[d] = true := by
  induction l with
  | nil => simp [Context.gBusy] at h
  | cons i l ih =>
    simp only [Context.gBusy] at h
    split at h
    · rename_i hp
      cases h
      exact ⟨List.mem_cons_self, hp⟩
    · exact ⟨List.mem_cons_of_mem _ (ih h).1, (ih h).2⟩

theorem gBusy_none (x : Context) (l : List (Fin 16)) :
    x.gBusy l = none ↔ ∀ d ∈ l, x.gPending[d] = false := by
  induction l with
  | nil => simp [Context.gBusy]
  | cons i l ih =>
    simp only [Context.gBusy]
    split
    · rename_i hp
      refine ⟨fun h => (by cases h), fun h => ?_⟩
      rw [h i List.mem_cons_self] at hp
      cases hp
    · rename_i hp
      rw [ih, List.forall_mem_cons]
      exact ⟨fun h => ⟨Bool.eq_false_iff.mpr hp, h⟩, fun h => h.2⟩

/-- An operation over g registers goes on where none is pending. -/
theorem withG_free (s : State) (regs : List (Fin 16)) (k : Out) (h : s.gFree regs = true) : s.withG regs k = k := by
  unfold State.gFree at h
  unfold State.withG
  cases hb : s.me.gBusy regs with
  | none => rfl
  | some i => simp [hb] at h

/-! ## Open choices -/

/-- A choice among some is one of them, and only takes the tape's head. -/
theorem choose_lt (s : State) (n : Nat) (h : 0 < n) : (s.choose n).1 < n := by
  unfold State.choose
  split
  · exact h
  · exact Nat.mod_lt _ h

theorem choose_state (s : State) (n : Nat) : (s.choose n).2 = { s with choices := s.choices.tail } := by
  unfold State.choose
  split
  · rename_i h; cases s; simp_all
  · rename_i h; simp [h]

theorem ctx_choose (s : State) (n : Nat) (r : CtxRef) : (s.choose n).2.ctx r = s.ctx r := by
  rw [choose_state]; rfl

theorem sameMemory_choose (s : State) (n : Nat) : s.sameMemory (s.choose n).2 := by
  rw [choose_state]; exact sameMemory_refl s

theorem memoriesWf_choose (s : State) (n : Nat) (h : s.memoriesWf) : (s.choose n).2.memoriesWf := by
  rw [choose_state]; exact h

/-! ## Requests -/

/-- What the posting of a request leaves. -/
theorem post_agenda (s : State) (kind : ReqKind) (d d2 : Option (Fin 16)) (acq rel : Bool) (e : Nat → Instr) :
    (s.post kind d d2 acq rel e).agenda = s.agenda ++ [e s.nextId] := rfl

theorem post_nextId (s : State) (kind : ReqKind) (d d2 : Option (Fin 16)) (acq rel : Bool) (e : Nat → Instr) :
    (s.post kind d d2 acq rel e).nextId = s.nextId + 1 := rfl

theorem sameMemory_post (s : State) (kind : ReqKind) (d d2 : Option (Fin 16)) (acq rel : Bool) (e : Nat → Instr) :
    s.sameMemory (s.post kind d d2 acq rel e) := sameMemory_setCtx { s with nextId := s.nextId + 1 } _ _

theorem memoriesWf_post (s : State) (kind : ReqKind) (d d2 : Option (Fin 16)) (acq rel : Bool) (e : Nat → Instr)
    (h : s.memoriesWf) : (s.post kind d d2 acq rel e).memoriesWf :=
  memoriesWf_setCtx { s with nextId := s.nextId + 1 } _ _ h

end Sys2Proof.Machine
end

