-- ==== Sys2Proof/Laws/Link.lean ====
section
/-!
SUPPORT. Messages: what receiving one and acting on it can do, said once.
-/
namespace Sys2Proof.Machine

/-- An event that is no message answers as its meaning does. -/
theorem keepMessage_plain (e : Instr) (o : Out) (h : Instr.message e = none) : keepMessage e o = o := by
  cases o <;> simp [keepMessage, h]

/-- After a message's event, its meaning's state, with the event due again at most. -/
theorem keepMessage_cases (e : Instr) (o : Out) (t : State) (h : keepMessage e o = .next t) :
    ∃ u, o = .next u ∧ (t = u ∨ t = u.due e) := by
  cases o with
  | next s =>
    refine ⟨s, rfl, ?_⟩
    simp only [keepMessage] at h
    split at h
    · split at h <;> cases h
      · exact .inr rfl
      · exact .inl rfl
    · cases h; exact .inl rfl
  | fault f => cases h
  | refused r => cases h

/-- What receiving a datagram leaves: associations, the agenda and the module's sleep may change, no memory. -/
theorem sameMemory_received (s : State) (m : FltMsg) : s.sameMemory (s.received m) := by
  unfold State.received
  split
  · exact sameMemory_refl s
  · split
    · exact sameMemory_refl s
    · exact sameMemory_refl s
    · unfold State.ackSoon
      simp only
      split <;> split <;> exact sameMemory_refl s

/-- The message that is acted on has waited, or has come whole with this datagram; its turn has come, and so has what
its action waits for. -/
theorem takes_cases (s u : State) (type : BitVec 8) (room : State → FltMsg → Bool) (m p : FltMsg)
    (h : s.takes type room m = some (u, p)) :
    (∃ bs, s.parked m = some bs ∧ p = { m with payload := bs } ∧ s.mayAct (parkedBefore m s.inbox) m.assoc = true ∧
      room s p = true ∧ u = { s with inbox := s.inbox.filter fun x => x.1 != m }) ∨
    (∃ bs, s.parked m = none ∧ s.receipt m = .whole bs ∧ p = { m with payload := bs } ∧
      (header m.payload).type = type ∧ u = s.received m ∧ u.mayAct u.inbox m.assoc = true ∧ room u p = true) := by
  unfold State.takes at h
  split at h
  · rename_i bs hp
    simp only at h
    split at h
    · rename_i hc
      cases h
      exact .inl ⟨bs, hp, rfl, hc.1, hc.2, rfl⟩
    · cases h
  · rename_i hp
    split at h
    · rename_i bs hr
      simp only at h
      split at h
      · rename_i hc
        cases h
        exact .inr ⟨bs, hp, hr, rfl, hc.1, rfl, hc.2.1, hc.2.2⟩
      · cases h
    · cases h

/-- Acting on a message, or keeping it, changes no memory before its action does. -/
theorem sameMemory_takes (s u : State) (type : BitVec 8) (room : State → FltMsg → Bool) (m p : FltMsg)
    (h : s.takes type room m = some (u, p)) : s.sameMemory u := by
  obtain ⟨_, -, -, -, -, rfl⟩ | ⟨_, -, -, -, -, rfl, -⟩ := takes_cases s u type room m p h
  · exact sameMemory_refl s
  · exact sameMemory_received s m

/-- A message's event answers its action, or the state with the message kept. -/
theorem onMessage_cases (s : State) (type : BitVec 8) (room : State → FltMsg → Bool) (m : FltMsg) (k : FltMsg → State → Out) :
    (∃ u p, s.takes type room m = some (u, p) ∧ s.onMessage type room m k = k p u) ∨
    (s.takes type room m = none ∧ s.onMessage type room m k = .next (s.keeps type m)) := by
  unfold State.onMessage
  cases h : s.takes type room m with
  | none => exact .inr ⟨rfl, rfl⟩
  | some x => exact .inl ⟨x.1, x.2, rfl, rfl⟩

end Sys2Proof.Machine
end

