-- ==== Sys2Proof/Laws/Step.lean ====
section
/-!
SUPPORT. What one step can do, said once.
-/
namespace Sys2Proof.Machine

/-- A step that answers a next state: the reset of a module without power, a cycle in which nothing happens, a due
event, kept where its message waits, or a turn of a core's packet. The states before an event or a turn differ from the given one in the tape of
open choices and in the agenda only. -/
theorem stepWith_cases (run : Instr → State → Out) (s t : State) (h : stepWith run s = .next t) :
    (s.powered = false ∧ run .deviceReset s = .next t) ∨
    (s.powered = true ∧ t = s.atCycle (s.cycle + 1)) ∨
    (s.powered = true ∧ ∃ (n : Nat) (e : Instr) (cs : List Nat), s.agenda[n]? = some e ∧
      keepMessage e (run e { s with choices := cs, agenda := s.agenda.eraseIdx n }) = .next t) ∨
    (s.powered = true ∧ ∃ (c : CtxRef) (cyc : Nat) (cs : List Nat), (c, cyc) ∈ s.firstIssuers ∧
      State.takeTurn run c cyc { s with choices := cs } = .next t) ∨
    (s.powered = true ∧ ∃ cs : List Nat, t = { s with choices := cs }) := by
  unfold stepWith at h
  by_cases hp : s.powered = true
  · simp only [hp, Bool.not_true, Bool.false_eq_true, if_false] at h
    generalize (s.readyAt 0 s.agenda).length + (if s.firstIssuers.isEmpty = true then 0 else 1) = total at h
    split at h
    · right; left
      exact ⟨hp, by cases h; rfl⟩
    · rw [choose_state] at h
      simp only at h
      split at h
      · split at h
        · rename_i e he
          right; right; left
          exact ⟨hp, _, e, _, he, h⟩
        · right; right; right; right
          exact ⟨hp, _, by cases h; rfl⟩
      · rw [choose_state] at h
        simp only at h
        split at h
        · rename_i x hx
          right; right; right; left
          exact ⟨hp, x.1, x.2, _, List.mem_of_getElem? hx, h⟩
        · right; right; right; right
          exact ⟨hp, _, by cases h; rfl⟩
  · left
    simp only [hp] at h
    simp only [Bool.not_false, if_true] at h
    split at h
    · exact ⟨by simpa using hp, h⟩
    · cases h

end Sys2Proof.Machine
end

