-- ==== Sys2Proof/Tests/Slice0.lean ====
section
/-!
SUPPORT. Small checks: ill-formed terms that are refused, words written out from the spec's field layouts, and for
each statement states and operands that meet its hypotheses. Words and results are worked out from the spec by
hand.
-/
namespace Sys2Proof.Machine

set_option Elab.async false

/-! ## Ill-formed terms -/

theorem test_mtsr_of_a_read_only_register : Instr.wellFormed (.mtsr .cause 1) = false := by decide
theorem test_chk_past_the_file : Instr.wellFormed (.chk .p 7 0 1) = false := by decide
theorem test_chk_to_the_last_register : Instr.wellFormed (.chk .p 6 0 1) = true := by decide
theorem test_vcvt_to_tf32 : Instr.wellFormed (.vcvt (.det .rne) false 0 (.r 0) .fp32 .tf32 .all) = false := by decide
theorem test_vcvt_to_e8m0 : Instr.wellFormed (.vcvt (.det .rne) false 0 (.r 0) .fp32 .e8m0 .all) = false := by decide
theorem test_vcvt_e8m0_to_bf16 : Instr.wellFormed (.vcvt (.det .rne) false 0 (.r 0) .e8m0 .bf16 .all) = false := by
  decide
theorem test_vqnt_to_fp32 : Instr.wellFormed (.vqnt .rne false 0 (.r 0) 0 .fp32 .all) = false := by decide
theorem test_vqnt_to_tf32 : Instr.wellFormed (.vqnt .rne false 0 (.r 0) 0 .tf32 .all) = false := by decide
theorem test_vdqnt_mx_of_int8 : Instr.wellFormed (.vdqnt .rne true 0 (.r 0) 0 .int8 .all) = false := by decide
theorem test_vdqnt_of_fp32 : Instr.wellFormed (.vdqnt .rne false 0 (.r 0) 0 .fp32 .all) = false := by decide
theorem test_vrsum_rounding_of_integers : Instr.wellFormed (.vrsum .rz true 7 0 (.r 0) .all) = false := by decide
theorem test_vscan_rounding_of_integers : Instr.wellFormed (.vscan .ru false true 7 0 (.r 0) .all) = false := by decide
theorem test_vrmax_unsigned_floats : Instr.wellFormed (.vrmax false true false false 7 0 (.r 0) .all) = false := by
  decide
theorem test_vrmin_nan_of_integers : Instr.wellFormed (.vrmin false false true true 7 0 (.r 0) .all) = false := by
  decide
theorem test_vcmp48_of_e3m2 : Instr.wellFormed (.vcmp48 .mask 0 (.r 0) .e3m2 .all) = false := by decide
theorem test_mma_of_mixed_kinds : Instr.wellFormed (.mma false 0 1 .int8 .bf16) = false := by decide
theorem test_mma_mx_of_e4m3 : Instr.wellFormed (.mma true 0 1 .e4m3 .e4m3) = false := by decide
theorem test_mmas_of_bf16 : Instr.wellFormed (.mmas 0 1 .bf16 .e4m3) = false := by decide
theorem test_acpy_to_tf32 : Instr.wellFormed (.acpy .rne false false 0 (.r 0) .tf32) = false := by decide
theorem test_ald_of_int8 : Instr.wellFormed (.ald 0 (.r 0) .int8) = false := by decide
theorem test_atadd_unsigned : Instr.wellFormed (.atadd ⟨false, false, false, .u, 1, .r 2, 3⟩) = false := by decide
theorem test_atmin_fp32_of_8_bytes : Instr.wellFormed (.atmin ⟨false, false, false, .f, 1, .r 2, 3⟩) = false := by
  decide
theorem test_atxch_fp32 : Instr.wellFormed (.atxch ⟨false, false, true, .f, 1, .r 2, 3⟩) = false := by decide

/-! ## Words of the tables (R72, R73, R82) -/

/-- What a slot's word is read as. -/
def readAs (p : Pos) (w : Word) (h : Hdr) : Option Instr := (decodeSlot p w h).toOption

/-- The detail with which a slot's word is refused. -/
def refusedWith (p : Pos) (w : Word) (h : Hdr) : Option (BitVec 8) :=
  match decodeSlot p w h with
  | .error e => some e
  | .ok _ => none

/-- CMPI.LTU q2, s5, -1, in F0C. -/
theorem test_word_cmpi : readAs .S 0b0_000_011011_010_110_00101_11111111111#32 Hdr.none =
    some (.cmpi .ltu 2 5 (-1)) := by decide
/-- LI s31, -2, in F0L. -/
theorem test_word_li : readAs .S 0b0_000_011000_11111_11111111111111110#32 Hdr.none =
    some (.li 31 (-2)) := by
  decide
/-- LOOPI of 3 packets, 511 times, in F0P. -/
theorem test_word_loopi : readAs .B 0b0_000_000111_000000000010_0_111111111#32 Hdr.none =
    some (.loopi 2 false 511) := by decide
/-- BRN on q6 through b3, in F0T. -/
theorem test_word_brn : readAs .B 0b0_000_000100_011_110_1_000000000000000#32 Hdr.none =
    some (.brn 6 3) := by
  decide
/-- XADDI x4, x5 with an immediate of 20 bits, its EXT byte 0xFF above a field of zeros: -4096 (R68). -/
theorem test_word_xaddi_ext : readAs .X 0b001010_00100_00101_000000000000_0000#32 ⟨false, some 0xFF#8⟩ =
    some (.xaddi 4 (.r 5) (-4096)) := by decide
/-- XADDI x4, x5, -1 without a header, and the positive number that an EXT byte of 0 makes of it. -/
theorem test_word_xaddi : readAs .X 0b001010_00100_00101_111111111111_0000#32 Hdr.none =
    some (.xaddi 4 (.r 5) (-1)) ∧
    readAs .X 0b001010_00100_00101_111111111111_0000#32 ⟨false, some 0#8⟩ =
    some (.xaddi 4 (.r 5) 4095) := by
  decide
/-- VADD v1, k2, v3 under GRANT, guarded by p7. -/
theorem test_word_vadd_grant : readAs .V 0b000001_00001_00010_00011_0000000_0111#32 ⟨true, some 0#8⟩ =
    some (.vadd 1 (.k 2) 3 (.pos 6)) := by decide
/-- GRANT on a field that names a p register (R69). -/
theorem test_word_plog_grant : refusedWith .V 0b110000_00001_00010_00011_0001000_0000#32 ⟨true, some 0#8⟩ =
    some 0x15#8 := by decide
/-- Opcode 3 of the Q slot, which no table assigns. -/
theorem test_word_unassigned : refusedWith .Q 0b000011_00000_00000_000000000000_0000#32 Hdr.none =
    some 0x10#8 := by
  decide

/-- LDV v7, [a3-4] with MA, guarded by !p2, in F1I. -/
theorem test_word_ldv : readAs .L 0b000001_00111_00011_111111111111_1010#32 Hdr.none =
    some (.ldv 7 (.r 3) true (-1) (.neg 1)) := by decide
/-- MMA of E4M3 by E4M3 from m1 and m2, in F1M. -/
theorem test_word_mma : readAs .M 0b000001_0011_0011_0000_00001_00010_0000#32 Hdr.none =
    some (.mma false 1 2 .e4m3 .e4m3) := by decide
/-- PROM.neg of 128 rows of acc5 by sa1 and sb2, in F1C. -/
theorem test_word_prom : readAs .C 0b000011_0101_001_010_0_1111111_00000001#32 Hdr.none =
    some (.prom true 5 1 2 127) := by decide
/-- GLD.h.s g3, [g4-8], in F1I. -/
theorem test_word_gld : readAs .Q 0b000001_00011_00100_111111111000_0101#32 Hdr.none =
    some (.gld true 1 3 (.r 4) (-8)) := by decide
/-- ATCAS.acq.w g1, [g2], g3, g4, in F1R. -/
theorem test_word_atcas : readAs .Q 0b001010_00001_00010_00011_1010000_0100#32 Hdr.none =
    some (.atcas ⟨true, false, true, .s, 1, .r 2, 3⟩ 4) := by decide

/-! ## Small states -/

/-- Context 0 of core 0 about to execute its packet at address 0, its window the whole scratchpad and its page in
the TLB, with a change made to the context. -/
def seat (f : Context → Context) : State :=
  let s := State.reset.withFetchWord 32 0
  s.setMe (f s.me)

/-- The same with nothing changed. -/
def plain : State := seat id

/-- The newest result in flight after an operation. -/
def newest (o : Out) : Option RegWrite :=
  match o with
  | .next t => t.me.landings.getLast?.map (·.write)
  | _ => none

/-- Whether an outcome is a next state of which a test holds. -/
def nextWith (o : Out) (p : State → Bool) : Bool :=
  match o with
  | .next t => p t
  | _ => false

/-! ## Results worked out by hand -/

/-- R168: the sum wraps modulo 2^64. -/
theorem test_add_wraps : newest (exec (.add 3 (.ss 1 2)) (seat fun x =>
    { x with s := (x.s.set 1 0xFFFFFFFFFFFFFFFF#64).set 2 2#64 })) = some (.s 3 1#64) := by decide +kernel
/-- R168: the high half of (-1) × (-1) is 0 signed, and 2^64 - 2 unsigned. -/
theorem test_high_products : newest (exec (.mulhs 3 (.ss 1 1)) (seat fun x =>
    { x with s := x.s.set 1 0xFFFFFFFFFFFFFFFF#64 })) = some (.s 3 0#64) ∧
    newest (exec (.mulhu 3 (.ss 1 1)) (seat fun x => { x with s := x.s.set 1 0xFFFFFFFFFFFFFFFF#64 })) =
      some (.s 3 0xFFFFFFFFFFFFFFFE#64) := by decide +kernel
/-- R168: a shift count takes b[5:0] only, and SAR keeps the sign. -/
theorem test_sar_count : newest (exec (.sar 3 (.ss 1 2)) (seat fun x =>
    { x with s := (x.s.set 1 0x8000000000000000#64).set 2 0x43#64 })) = some (.s 3 0xF000000000000000#64) := by
  decide +kernel
/-- R168, R171: 64 leading zeros of 0, and a value built by LI and LIS. -/
theorem test_clz_of_zero : newest (exec (.clz 3 (.r 1)) plain) = some (.s 3 64#64) := by decide +kernel
theorem test_lis : newest (exec (.lis 1 0x1FFFF#17) (seat fun x => { x with s := x.s.set 1 1#64 })) =
    some (.s 1 0x3FFFF#64) := by decide +kernel
/-- R169: CMPI.LTU compares the extended immediate unsigned. -/
theorem test_cmpi_ltu : newest (exec (.cmpi .ltu 2 5 (-1)) plain) = some (.q 2 true) := by decide +kernel
/-- R180: PREP's target is its own packet's index plus the offset, modulo 2^43. -/
theorem test_prep_wraps : newest (exec (.prep 4 (-1)) plain) = some (.b 4 0x7FFFFFFFFFF#43) := by decide +kernel
/-- R199: a merge cursor advances on both sides of a tie, and marks it. -/
theorem test_xadv_tie : newest (exec (.xadv 1 (.r 2) 3) (seat fun x => { x with x := x.x.set 1 0x00020005#32 })) =
    some (.x 1 0x80030006#32) := by decide +kernel
/-- R220: 1.0 + 2^-24 is a tie, rounded to even by RNE and up by RU. -/
theorem test_fadd_rounds : fadd .rne 0x3F800000#32 0x33800000#32 = (0x3F800000#32, { nx := true }) ∧
    fadd .ru 0x3F800000#32 0x33800000#32 = (0x3F800001#32, { nx := true }) := by decide +kernel
/-- R250's examples: the K-blocks of E4M3 by E4M3, BF16 by E2M1 and E2M3 by E2M3. -/
theorem test_k_blocks : kBlock .e4m3 .e4m3 = (128, 0) ∧ kBlock .bf16 .e2m1 = (64, 2) ∧ kBlock .e2m3 .e2m3 = (256, 0) := by
  decide
/-- R116's example: a block whose largest magnitude is 7.9, in E2M1, has the scale 2^0, and 7.9 becomes 6. -/
theorem test_mx_saturates : mxQuant .e2m1 2 [0x40FCCCCD#32] = (127, [7]) := by decide +kernel
/-- R374's example: one absolute rule makes task 0 of 17 await 17 decrements, and a second one 18. -/
theorem test_dependency_pattern :
    let waits (rs : List DepRule) : Nat := (((List.range 17).flatMap (dependants rs 17)).filter fun d => d.2 == 0).length
    waits [⟨1, true, 0, 0, 0⟩] = 17 ∧ waits [⟨1, true, 0, 0, 0⟩, ⟨1, false, 0, 0x0FFFFFFF, 0⟩] = 18 := by decide

/-! ## Hypotheses that are met: encodings and steps -/

theorem witness_encoded : Instr.wellFormed (.xaddi 31 (.k 15) (-524288)) = true ∧
    encode (.xaddi 31 (.k 15) (-524288)) = some ⟨.X, 0b001010_11111_01111_000000000000_0000#32, true, 0x80#8⟩ := by
  decide
theorem witness_decoded : readAs .V 0b010000_00001_00010_00011_0100000_0001#32 Hdr.none =
    some (.vfadd .rz 1 (.r 2) 3 (.pos 0)) := by decide
theorem witness_opcodes : opcodeOf .S 0x0A000000#32 = 0x28 ∧ 0x28 ∉ assignedOpcodes .S ∧
    opcodeOf .Q 0xFC000000#32 = 0x3F ∧ 0x3F ∉ assignedOpcodes .Q ∧ opcodeOf .S 1#32 = 0 ∧ opcodeOf .X 1#32 = 0 := by decide

/-- The word of XLI x7, 5, and the packet that holds it alone, at position 1. -/
def oneWord : Nat := 0b001101_00111_000000000000000000101
def onePacket : BitVec 256 := BitVec.ofNat 256 (oneWord * 2 ^ 32)

/-- The premises of StepRunsTheDecodedOperation, of a packet fetched from memory. -/
theorem witness_step : let s := State.reset.withFetchWord 32 oneWord
    let c : CtxRef := ⟨0, 0⟩
    let s1 := s.atTurn c 0
    let s2 := (s1.readHome 0#8 0 32).2.modCore 0 fun k => k.keepPacket 0 onePacket
    s.powered = true ∧ s.readyAt 0 s.agenda = [] ∧ s.firstIssuers = [(c, 0)] ∧
    ((((s.choose 1).2.choose 1).2.atCycle 0).startSegment c).uiReady c = false ∧
    (s1.ctx c).fusew = 0 ∧ (s1.ctx c).run = .ready ∧ (s1.ctx c).orphan = false ∧ (s.ctx c).gWait = none ∧
    s1.tlbLookup 0 ((s1.ctx c).pc.toNat * 32) = some openPage ∧ openPage.x = true ∧ s1.isBad .dram 0 32 = false ∧
    (s1.core 0).cached 0 = none ∧ onePacket = BitVec.ofNat 256 (leNat (s1.dram.bytes 0 32)) ∧
    (s2.ctx c).decodeFails onePacket = none ∧ s2.scoreFails [c] [(1, .xli 7 5#29)] = none ∧
    realOps (slotOps onePacket) = [(1, .xli 7 5#29)] ∧
    (s2.aim c 1).readsBad c (.xli 7 5#29) = false := by decide +kernel
theorem witness_due_event : let s := { State.reset with agenda := [.thermalThrottle] }
    s.readyAt 0 s.agenda = [0] ∧ s.firstIssuers = [] ∧ s.agenda[0]? = some .thermalThrottle := by decide +kernel
theorem witness_idle : State.reset.powered = true ∧ State.reset.readyAt 0 State.reset.agenda = [] ∧
    State.reset.firstIssuers = [] := by decide +kernel
theorem witness_no_landings : plain.me.landings = [] ∧ plain.me.clock = 0 := by decide +kernel
theorem witness_landing_order : let x := { Context.reset with clock := 5 }
    risingNat Core.reset.tiles = true ∧ 4 < 5 ∧ 5 ≤ x.clock ∧ (5 = 5 ∧ 1 < 2) ∧ (5 = 5 ∧ 2 = 2 ∧ (0 : Fin 8) < 7) := by decide
theorem witness_pending_g : let s := seat fun x => { x with gPending := x.gPending.set 15 true }
    s.me.gBusy [2, 15] = some 15 ∧ s.me.gPending[(15 : Fin 16)] = true ∧ s.me.gPending[(2 : Fin 16)] = false := by
  decide +kernel

/-! ## Hypotheses that are met: the S and B slots -/

theorem witness_sel : (seat fun x => { x with q := x.q.set 7 true }).me.q[(7 : Fin 8)] = true ∧
    plain.me.q[(7 : Fin 8)] = false := by decide +kernel
theorem witness_register_moves : plain.me.landings = [] ∧ SReg.writable .gid = false ∧ SReg.writable .dctrl = true ∧
    plain.me.gPending[(15 : Fin 16)] = false := by decide +kernel
/-- CHK of two pairs: all equal; and the second pair alone differing. -/
theorem witness_chk : plain.gFree (chkG .s 1 5 1) = true ∧
    (∀ i ≤ 1, plain.me.sameReg .s (1 + i) (5 + i) = true) ∧
    (let s := seat fun x => { x with s := x.s.set 6 1#64 }
     s.me.sameReg .s 1 5 = true ∧ s.me.sameReg .s 2 6 = false) := by decide +kernel
theorem witness_uiret : (seat fun x => { x with frozen := some ⟨7#43, 3, [], [], 0#64⟩ }).me.frozen =
    some ⟨7#43, 3, [], [], 0#64⟩ := by decide +kernel
theorem witness_transfers : let s := seat fun x => { x with b := x.b.set 7 ⟨9#43, true, none⟩ }
    s.me.b[(7 : Fin 8)].prepared = true ∧ s.me.b[(0 : Fin 8)].prepared = false := by decide +kernel
/-- BRV over a predicate of ones, one of zeros, and a mixed one. -/
theorem witness_brv : let s := seat fun x => { x with
      b := x.b.set 1 ⟨9#43, true, none⟩, p := (x.p.set 1 (BitVec.allOnes 128)).set 2 1#128 }
    let ps (p : Fin 8) := (s.issueSet s.focus.c).map fun m => (s.ctx m).p[p]
    s.me.b[(1 : Fin 8)].prepared = true ∧ ps 1 = [BitVec.allOnes 128] ∧ ps 0 = [0#128] ∧ ps 2 = [1#128] ∧
    1#128 ≠ BitVec.allOnes 128 ∧ 1#128 ≠ 0#128 := by decide +kernel
theorem witness_skipz : plain.me.z[(0 : Fin 8)] = 0#24 ∧
    (seat fun x => { x with z := x.z.set 0 1#24 }).me.z[(0 : Fin 8)] ≠ 0#24 := by decide +kernel

/-- A loop level. -/
def level (n : Nat) : Loop := ⟨1#43, 3#43, BitVec.ofNat 24 n, none, false⟩

theorem witness_loop_entry : (seat fun x => { x with loops := List.replicate 5 (level 1) }).me.loops.length ≠ 6 ∧
    (seat fun x => { x with loops := List.replicate 6 (level 1) }).me.loops.length = 6 := by decide +kernel
theorem witness_loop_levels : let s := seat fun x => { x with loops := List.replicate 3 (level 1) }
    (2 : Fin 8).val < s.me.loops.length ∧ s.me.loops.length ≤ (3 : Fin 8).val := by decide +kernel
theorem witness_loop_count : 16777215 < 2 ^ 24 ∧ ∀ l ∈ [({ level 0 with last := 4#43 } : Loop)], l.last ≠ 3#43 := by
  decide

/-- VFSGN of mode 3, of a stray function bit, and sound; VSEL of a stray function bit, and sound. -/
theorem witness_signs : let f (n : Nat) : Word := BitVec.ofNat 32 (0x16 * 2 ^ 26 + n)
    let e (n : Nat) : Word := BitVec.ofNat 32 (0x1E * 2 ^ 26 + n)
    opcodeOf .V (f 48) = 0x16 ∧ (f 48).extractLsb' 4 2 = 3#2 ∧ (f 1024).extractLsb' 4 2 ≠ 3#2 ∧
    (f 1024).extractLsb' 6 5 ≠ 0#5 ∧ readAs .V (f 32) Hdr.none = some (.vfsgn .xor 0 (.r 0) 0 .all) ∧
    opcodeOf .V (e 1024) = 0x1E ∧ (e 1024).extractLsb' 7 4 ≠ 0#4 ∧
    readAs .V (e 112) Hdr.none = some (.vsel 0 7 (.r 0) 0 .all) := by decide
/-! ## Hypotheses that are met: the X, V and L slots -/

/-- The last word of the window. -/
theorem witness_xldw : let s := seat fun x => { x with x := x.x.set 1 0x1FFFFC#32 }
    let o := (s.me.xSrc (.r 1) + BitVec.ofInt 32 (4 * (0#20).toInt)).toInt
    o = 0x1FFFFC ∧ s.windowOk 4 4 false [o] = true ∧ s.soundAt 4 [o] = true ∧ s.banksIdle = true := by decide +kernel

/-- A pushed scatter entry that waits for data. -/
def waitingEntry (n : Word) : AqEntry :=
  ⟨n, .scatter, false, 0#48, 64, 0#8, none, 5, false, [], [], none, 0, false⟩

theorem witness_pushes : let p : PushArgs := ⟨some 1, .r 2, 3, 0#2, 0#4⟩
    (p.cond = some 1 ∧ plain.me.x[(1 : Fin 32)].getLsbD 31 = false) ∧
    (seat fun x => { x with aq := List.replicate 64 (waitingEntry 0#32) }).me.aq.length = 64 ∧
    (seat fun x => { x with aq := List.replicate 63 (waitingEntry 0#32) }).me.aq.length < 64 := by decide +kernel
theorem witness_vqnt : fmtWidth .bf16 = 16 ∧ fmtWidth .e2m1 = 4 := by decide
theorem witness_rounding : ((-150 : Int) < -149) ∧ isNan32 0x7F800000#32 = false ∧ isNan32 0x80000001#32 = false := by
  decide +kernel
/-- GATE's candidate, and VDESC's first lane above the residue: lane 0, and lane 127 alone. -/
theorem witness_gate_and_vdesc :
    let a := lanes fun n => if n = 127 then 0x3F800000#32 else 0#32
    let s := seat fun x => { x with v := (x.v.set 1 (splat 0x3F800000#32)).set 2 a }
    let x (n : Nat) : Word := lane s.me.v[(1 : Fin 32)] n
    let y (n : Nat) : Word := lane s.me.v[(2 : Fin 32)] n
    s.me.active .all 127 = true ∧ isNan32 (x 127) = false ∧ gt32 (x 0) (lane s.me.v[(0 : Fin 32)] 0) = true ∧
      gt32 (y 127) (lane s.me.v[(0 : Fin 32)] 0) = true ∧
      ∀ j < 127, gt32 (y j) (lane s.me.v[(0 : Fin 32)] 0) = false := by decide +kernel
/-- DICE at draw index 65,535 with DSATTRAP set and clear, and at 65,534. -/
theorem witness_dice :
    let s (i : Nat) (t : Bool) := seat fun x =>
      { x with dctrl := BitVec.ofNat 64 (i * 2 ^ 32), control := if t then 4#4 else 0#4 }
    ((s 65535 true).me.dctrl.extractLsb' 32 16).toNat = 65535 ∧ (s 65535 true).me.dsattrap = true ∧
    (s 65535 false).me.dsattrap = false ∧ ((s 65534 true).me.dctrl.extractLsb' 32 16).toNat = 65534 := by
  decide +kernel
/-- VPOP of a row landed in slot 31, and VPUSHD to an entry that waits. -/
theorem witness_queues :
    let s := seat fun x => { x with dq := x.dq.set 31 (some ⟨0#32, some (splat 7#32)⟩), aqSeq := 2#32,
                                    aq := [waitingEntry 1#32] }
    s.me.dq[(31 : Fin 32)] = some ⟨0#32, some (splat 7#32)⟩ ∧ s.me.gathersOut = [] ∧
    (∀ j : Fin 32, j ≠ 31 → s.me.dq[j] = none) ∧
    s.me.aq = [] ++ waitingEntry 1#32 :: [] ∧ (waitingEntry 1#32).at_ ≠ s.cycle ∧
    (∀ i : Fin 32, plain.me.dq[i] = none) ∧ plain.me.aq = [] := by decide +kernel
/-- Each of the checks of an access, as the first that fails, at the value next to one that passes. -/
theorem witness_access_checks : let s := seat fun x => { x with splim := 8#22 }
    ((2 : Int) % 4 ≠ 0 ∧ (4 : Int) % 4 = 0) ∧ (4 : Int) < s.me.splim.toNat ∧ ¬ (8 : Int) < s.me.splim.toNat ∧
    ((-4 : Int) < 0) ∧ (s.me.spsize.toNat : Int) < 0x200000 + 4 ∧ ¬ (s.me.spsize.toNat : Int) < 0x1FFFFC + 4 := by
  decide +kernel
/-- A row that ends at the window's end, and the guard that takes no lane. -/
theorem witness_row_access : let s := seat fun x => { x with a := x.a.set 1 0x1FFE00#32 }
    let on := (List.range 128).filter (s.me.active .all)
    let o (l : Nat) : Int := (s.me.aSrc (.r 1) + BitVec.ofInt 32 (4 * (0#19).toInt)).toInt + 4 * l
    s.windowOk 4 4 false (on.map o) = true ∧ s.windowOk 4 4 true (on.map o) = true ∧ s.soundAt 4 (on.map o) = true ∧
    s.me.pendchk = false ∧ s.banksIdle = true ∧ s.me.vWrites 0 &&& s.me.mask .all = 0#128 ∧
    (seat fun x => { x with landings := [⟨2, 0, 2, .v 0 (splat 0#32) 1#128⟩] }).me.vWrites 0 &&& s.me.mask .all ≠ 0#128 := by
  decide +kernel
theorem witness_pend_check : State.unpended (seat fun x => { x with control := 2#4 }) false 4 [0, 4] := by
  unfold State.unpended; decide +kernel
theorem witness_one_word : let s := seat fun x => { x with p := x.p.set 1 1#128, a := x.a.set 1 0x1FFFF8#32 }
    s.me.active (.pos 0) 0 = true ∧ s.me.active (.neg 0) 0 = false ∧ s.windowOk 8 8 false [0x1FFFF8] = true ∧
    s.soundAt 8 [0x1FFFF8] = true ∧ s.windowOk 8 8 true [0x1FFFF8] = true := by decide +kernel

/-! ## Hypotheses that are met: the M and C slots -/

theorem witness_descriptors : let s := seat fun x =>
      { x with m := ((x.m.set 1 0x4000000000000000#64).set 2 0x8000000000000000#64) }
    (s.me.mSrc (.r 0)).extractLsb' 62 2 = 0#2 ∧ (s.me.mSrc (.r 1)).extractLsb' 62 2 = 1#2 ∧
    (s.me.mSrc (.r 2)).getLsbD 63 = true ∧ s.windowOk 4 4 false [0x1FFFFC] = true ∧ s.soundAt 4 [0x1FFFFC] = true ∧
    s.windowOk 1 128 false [0x1FFF80] = true ∧ s.soundAt 128 [0x1FFF80] = true ∧
    s.windowOk 4 512 false [0x1FFE00] = true ∧ s.soundAt 512 [0x1FFE00] = true := by decide +kernel

/-- A context whose template reserves two handles, the first of them holding slot 7. -/
def holder (x : Context) : Context := { x with task := some ⟨0, 0#28, 2⟩, acc := x.acc.set 0 (some 7) }

/-- Handles at the template's bound, free and held; and the descriptor of a whole tile. -/
theorem witness_handles : let s := seat holder
    (2 ≤ (2 : Fin 16).val ∧ (s.me.task.map fun t => t.h) = some 2) ∧ s.me.acc[(0 : Fin 16)] = some 7 ∧
    s.me.acc[(1 : Fin 16)] = none ∧ (s.me.acc.toList.filter (·.isSome)).length < min 2 8 ∧
    s.mine.slotTaken[(0 : Fin 8)] = false ∧
    min 1 8 ≤ ((seat fun x => { holder x with task := some ⟨0, 0#28, 1⟩ }).me.acc.toList.filter (·.isSome)).length ∧
    tileDesc 0xFE020000000#64 = some ⟨0, 128, 256, 0⟩ := by decide +kernel
theorem witness_tile_rows : let os := (List.range 128).map fun n => ((0 + n * 256 : Nat) : Int)
    plain.windowOk 1 256 false os = true ∧ plain.soundAt 256 os = true ∧ plain.banksIdle = true := by decide +kernel
/-- An MMA of one row by the last frame, and one in an MX format whose side array stands in the metadata cache. -/
theorem witness_mma : let s := seat fun x => { x with m := x.m.set 2 0x40000000000003FF#64 }
    rowDesc s.me.m[(1 : Fin 16)] = some ⟨0, 1, 0, 0⟩ ∧ blockDesc s.me.m[(2 : Fin 16)] = some ⟨0, false, 1023⟩ ∧
    s.banksIdle = true ∧ s.mine.canopyIn.all (·.isEmpty) = true ∧ s.me.streamFits 1 8 0 = true ∧
    s.blockFrame ⟨0, false, 1023⟩ ((16384 + 16383) / 16384) = some 1023 ∧
    s.windowOk 1 128 false [0] = true ∧ s.soundAt 128 [0] = true ∧
    s.isBad (.canopy 0) (1023 * 16384) 16384 = false := by decide +kernel

/-- A state whose metadata cache holds the side array at address 0: masks of four kept elements each. -/
def sided : State :=
  plain.modCore 0 fun k => { k with metaCache := (List.range 128).map fun i => (i, List.replicate 32 0x0F#8) }

theorem witness_side_arrays : sided.sideCached 0 128 ∧ sided.sideCached 0 32 ∧
    ((List.range 128).all fun i => ((lookupNat sided.mine.metaCache ((0 + 32 * i) % 2 ^ 48 / 32)).getD []).all
      fun b => (maskPlaces b).length == 4) = true := by
  unfold State.sideCached; decide +kernel
/-- Promotes at the cycle on which a stream of floats, and one of integers, reaches the port; and without one. -/
theorem witness_promotes : let st (i : Bool) : Stream := ⟨0, 8, 0, i, [], false⟩
    let s (i : Bool) := seat fun x => { holder x with streams := [st i] }
    (s false).me.acc[(0 : Fin 16)] = some 7 ∧ (s false).me.streamNow false = some (st false) ∧
    (s true).me.streamNow true = some (st true) ∧ (s true).me.streamNow false = none ∧
    risingNat plain.mine.tiles = true := by decide +kernel

/-! ## Hypotheses that are met: the Q slot at issue -/

/-- A state whose window begins with some bytes at an offset. -/
def filled (o : Nat) (bs : List Byte) (f : Context → Context) : State :=
  (seat f).modCore 0 fun k => { k with spad := k.spad.setBytes o bs }

/-- An access at the last bytes of the page that the TLB holds, one beyond it, and a misaligned one; and a page
that may only be read. -/
theorem witness_gld : let s := seat fun x => { x with g := x.g.set 1 0x3FFFFFF8#64 }
    s.gFree [3, 1] = true ∧ (0x3FFFFFF8 % 8 = 0 ∧ 0x3FFFFFF9 % 8 ≠ 0) ∧
    s.pageFor 0x3FFFFFF8 8 .read .load = some 0x3FFFFFF8 ∧ s.oddKeyWrite 0x3FFFFFF8 8 = false ∧
    s.pageFor 0x3FFFFFF8 8 .write .store = some 0x3FFFFFF8 ∧ s.inPipe 0x40000000 8 = false ∧
    s.tlbLookup 0 0x40000000 = none ∧
    (let t := plain.modCore 0 fun k => { k with tlb := [⟨0, 0, 16, true, false, false⟩] }
     t.tlbLookup 0 64 = some ⟨0, 0, 16, true, false, false⟩ ∧
       TlbEntry.allows ⟨0, 0, 16, true, false, false⟩ .write = false) := by decide +kernel
theorem witness_atomics : let s := seat fun x => { x with g := (x.g.set 1 64#64).set 2 128#64 }
    s.gFree [3, 4, 1] = true ∧ s.gFree [5] = true ∧ 64 % 8 = 0 ∧ 68 % 8 ≠ 0 ∧
    s.pageFor 64 8 .readWrite .atomic = some 64 ∧ s.pageFor 128 8 .readWrite .atomic = some 128 ∧
    s.gFree ([0, 1, 2, 2, 3, 4, 5] ++ RK.gReg (.r 1)) = true := by decide +kernel
theorem witness_counters : let s := seat fun x => { x with g := (x.g.set 1 0x0FFFFFFF#64).set 2 0x10000000#64 }
    s.gFree (3 :: RK.gReg (.r 1) ++ decG (.reg 2)) = true ∧ (s.me.gSrc (.r 1)).toNat < 2 ^ 28 ∧
    2 ^ 28 ≤ (s.me.gSrc (.r 2)).toNat := by decide +kernel

/-- A well-formed record in the window, as bytes. -/
def goodRecord : List Byte := (redRecord false 0x1000 0 64).toList.flatMap fun w => leBytes 4 w.toNat

theorem witness_qcpy : let s := filled 0x1FFFC0 goodRecord fun x => { x with g := x.g.set 1 0x1FFFC0#64 }
    let w := recOf (s.windowBytes 0x1FFFC0 64)
    s.gFree (3 :: RK.gReg (.r 1)) = true ∧ s.banksIdle = true ∧ s.windowOk 64 64 false [0x1FFFC0] = true ∧
    s.soundAt 64 [0x1FFFC0] = true ∧ recBad w = none ∧ recMisaligned w = none ∧ s.recPipe w = none ∧ recDst w ≠ 4 ∧
    recMode w ≠ 4 ∧ s.mine.copyq[(3 : Fin 4)].elems.length < 32 := by decide +kernel
/-- A record of zeros breaks the rule of its first word. -/
theorem witness_qcpy_bad : recBad (recOf (plain.windowBytes 0 64)) = some 0 := by decide +kernel
theorem witness_queue_full :
    let e := plain.newElem (redRecord false 0x1000 0 64) false 0
    let s := plain.modCore 0 fun k => { k with copyq := k.copyq.set 0 ⟨List.replicate 32 e, 32#32, 0#32⟩ }
    32 ≤ s.mine.copyq[(0 : Fin 4)].elems.length := by decide +kernel
theorem witness_qred : plain.windowOk 64 512 false [0x1FFE00] = true ∧ 0x1000 % 512 = 0 := by decide +kernel
/-- Operands of the units at the ends of their ranges. -/
theorem witness_units : let s := filled 64 [0#8, 0#8, 0#8, 0x10#8] fun x => { x with
      g := (((x.g.set 1 7#64).set 2 0x0F0FFFFF#64).set 3 0x10000000#64).set 4 0x730#64 }
    s.gFree [0, 1, 2, 3, 4] = true ∧ (s.me.g[(1 : Fin 16)]).toNat < 8 ∧
    ((s.me.g[(2 : Fin 16)]).toNat / 2 ^ 28 = 0 ∧ bits (s.me.g[(2 : Fin 16)]).toNat 20 4 = 0) ∧
    ¬ ((s.me.g[(3 : Fin 16)]).toNat / 2 ^ 28 = 0) ∧ seatOperandBad (s.me.g[(4 : Fin 16)]).toNat 4 = false ∧
    seatValueBad (s.me.g[(4 : Fin 16)]).toNat 0 4 = false ∧
    s.windowOk 512 512 false [0] = true ∧ s.soundAt 512 [0] = true ∧ rowBad (s.windowBytes 0 512) 0 = false ∧
    (0x0FFFFFFF : Nat) < 2 ^ 48 ∧ (2 ^ 20 - 1 < 2 ^ 20) := by decide +kernel
theorem witness_a2a : a2aBad (recOf ([0#8, 0#8, 0#8, 1#8] ++ List.replicate 16 0#8 ++ [64#8, 0#8, 0#8, 0#8] ++ [64#8, 0#8, 0#8, 0#8] ++
    List.replicate 32 0#8)) = none := by decide +kernel
theorem witness_tkcmt : plain.leaderOf plain.focus.c = plain.focus.c ∧ plain.windowOk 64 2048 false [0x1FF800] = true ∧
    plain.soundAt 2048 [0x1FF800] = true ∧ strayBits (0x1FF800 + 7 * 2 ^ 32) [(0, 22), (32, 3)] = false ∧
    tableBad 0xFFFFFFFFFFFFFFFF (plain.windowBytes 0x1FF800 2048) = false := by decide +kernel
/-- A follower of a pair, which waits for its leader's TKCMT. -/
theorem witness_follower : let c : CtxRef := ⟨1, 0⟩
    let s := { plain.modCtx c fun x => { x with fusew := 1 } with focus := { plain.focus with c := c } }
    s.leaderOf s.focus.c ≠ s.focus.c ∧ s.me.decoup = false := by decide +kernel
theorem witness_product_keys : let s := { filled 0 [0x40#8, 0#8, 0#8, 1#8] id with pk := some ⟨0, 0, 0, 1, 128, false⟩ }
    s.pk.isSome = true ∧ s.pkWidth = 128 ∧ s.banksIdle = true ∧ selBad (s.windowBytes 0 1024) true = false ∧
    strayBits (0x1000 * 2 ^ 32 + 0x1FFE00) [(0, 22), (32, 22)] = false ∧ s.isBad (.spad 0) 0 1024 = false := by
  decide +kernel

/-! ## Hypotheses that are met: requests and tasks -/

/-- Request 9 of context 0, whose result goes to g3. -/
def req (kind : ReqKind) : Req :=
  { id := 9, c := ⟨0, 0⟩, task := some ⟨0, 0#28, 16⟩, d := some 3, d2 := none, kind, gid := 0#8, acq := false, rel := false
    cycle := 0, state := .waiting, res := 0#64, res2 := 0#64, orphaned := false, voided := false, ui := false
    outs := [], pageFailed := [], started := false }

/-- A state in which it alone is under way. -/
def asking (r : Req) : State := { plain with reqs := [r], nextId := 10 }

theorem witness_load : let r := req (.load 0x40 0x40 8 true)
    let s := asking r
    s.req? 9 = some r ∧ r.ui = (s.ctx r.c).uiact ∧ s.mayPerform r = true ∧ s.isBad .dram 0x40 8 = false ∧
    (s.reqs.all fun q => !q.kind.isStore) = true ∧ (s.core r.c.core).l1Sector 0#8 0x40 r.cycle = none := by decide +kernel
theorem witness_formed : let r := { req (.load 0x40 0x40 8 true) with state := .formed }
    (asking r).req? 9 = some r ∧ r.state = .formed ∧ r.ui = ((asking r).ctx r.c).uiact := by decide +kernel
theorem witness_store : let r := req (.store 0x40 0x40 8 5#64)
    let s := asking r
    s.dram.wf = true ∧ s.req? 9 = some r ∧ s.mayPerform r = true := by decide +kernel
/-- A store of the last 8 bytes of a sector under gambit 1, which has a version of it. -/
theorem witness_tagged_store : let r := { req (.store 0x58 0x58 8 5#64) with gid := 1#8 }
    let v : Version := ⟨1#8, 2, List.replicate 32 0#8⟩
    let s := { asking r with gambits := [(1, ⟨0#8, 1⟩)], versions := [v] }
    s.req? 9 = some r ∧ s.mayPerform r = true ∧ 0x58 % 32 + 8 = 32 ∧ v.data.length = 32 ∧
    lookupNat s.gambits r.gid.toNat = some ⟨0#8, 1⟩ ∧
    s.versions.find? (fun v => v.gid == r.gid && v.sector == 0x58 / 32) = some v := by decide +kernel
theorem witness_atomic : let r := req (.atomic .add 0x40 0x40 false .s 1#64 0#64)
    let s := asking r
    s.dram.wf = true ∧ s.req? 9 = some r ∧ s.atomicReady r = true ∧ s.reqBad r = none := by decide +kernel
theorem witness_dcas : let r := req (.dcas 0x40 0x40 0x48 0x48 0#64 0#64 1#64 2#64)
    let q := req (.amov 0x40 0x40 0x48 0x48 1#64)
    (asking r).atomicReady r = true ∧ (asking r).reqBad r = none ∧ (asking q).atomicReady q = true ∧
    (asking q).reqBad q = none ∧ 0x40 + 8 ≤ 0x48 := by decide +kernel
/-- A DRAIN that may complete, and one that an older load of its context holds up. -/
theorem witness_drain : let r := req (.drain .dev)
    let s := { asking r with reqs := [{ req (.load 0x40 0x40 8 true) with id := 8 }, r] }
    (asking r).released r .dev = true ∧ s.req? 9 = some r ∧ s.released r .dev = false := by decide +kernel
theorem witness_qfence : let e := plain.newElem (redRecord false 0x1000 0 64) false 0
    let r := req (.qfence 1#4 [(0, 0#32)])
    let s := (asking r).modCore 0 fun k => { k with copyq := k.copyq.set 0 ⟨[e], 1#32, 0#32⟩ }
    (asking r).mine.allElems = [] ∧ (s.core r.c.core).allElems = [(0, e)] ∧ e.seq = 0#32 := by decide +kernel
theorem witness_late_fault : let r := req (.load 0x40 0x40 8 true)
    let s := { asking r with bad := [(.dram, 0x47)] }
    s.req? 9 = some r ∧ (s.reqBad r).isSome = true := by decide +kernel

/-- A launch of one task, running, and its record. -/
def task0 : Task :=
  { num := 0, state := .running, tmpl := 1#8, counter := 0#32, arg := 0#48, deps := [], overflow := 0#48, tile := 0#48
    ctx := some ⟨0, 0⟩, progress := 0#32, retire := 0#8, member := 0, memTask := 0, cls := 1, slot := none, saved := [] }
def template1 : Template := ⟨1#8, 0, 16, 0, 0x200000, 0x1000, 0#4, 0, false, 0⟩
def launch0 : Launch :=
  { num := 0, assoc := 0, state := .running, order := 0, image := 0, code := 0, pclass := 0, cls := 1, budget := 0#32
    used := 0, remain := 0, watchdog := 1000#32, timer := some 0, started := true, lastSink := 0, argBase := 0#48, stride := 0, count := 1
    templates := [template1], members := [], groups := [], places := [], placed := false, pipes := [], handles := []
    args := [], area := 0#48, tasks := [task0], teardown := none, abortAt := 0, saveBase := 0, saveImages := 0
    waits := [], waitMsgs := [] }

/-- A state in which a launch stands, context 0 bound to its task 0. -/
def running (l : Launch) (f : Context → Context) : State := { seat f with launches := [(0, l)] }

/-- A decrement of a pending task to 0, of a retired task, and one sent by a TDEC. -/
theorem witness_decrements : let t := { task0 with state := .pending, counter := 1#32, ctx := none }
    let s := running { launch0 with tasks := [t] } id
    let d : Dec := ⟨4, 0, 0, 1#32, none, none⟩
    s.task? 0 0 = some t ∧ t.state.retired = false ∧ t.num = 0 ∧ 0 < t.counter.toInt ∧ (t.counter - d.amt).toInt ≤ 0 ∧
    (running { launch0 with tasks := [{ t with state := .done }] } id).task? 0 0 = some { t with state := .done } ∧
    TState.retired .done = true ∧
    (let r := req (.tdec 0 1#32)
     let u := { s with reqs := [r], decs := [{ d with req := some 9 }] }
     (u.decs.find? fun d => d.id == 4) = some { d with req := some 9 } ∧ u.decReady { d with req := some 9 } = true ∧
       u.isBad .task ((0 : Fin 256).val * 2 ^ 28 + 0) 1 = false ∧
       ({ u with decs := [] }.applyDec { d with req := some 9 }).1.req? 9 = some r) := by decide +kernel
/-- A TSPAWN of template 1 with a counter of 1, and one of a template that the launch does not have. -/
theorem witness_tspawn : let r := req (.tspawn 0x0001000000000000#64 1#64)
    let s := { running launch0 id with reqs := [r] }
    s.req? 9 = some r ∧ s.released r .dev = true ∧ s.unfenced r = true ∧ r.task = some ⟨0, 0#28, 16⟩ ∧ s.launch? 0 = some launch0 ∧
    launch0.spawnErrs 0x0001000000000000#64 = [] ∧ launch0.teardown = none ∧ launch0.spawnErrs 0#64 = [1] ∧
    0 < ((1#64).extractLsb' 0 32).toInt := by decide +kernel

/-! ## Hypotheses that are met: packet kinds, faults, interrupts and the dispatcher -/

/-- A placed launch's group 0, of contexts 0 and 8 on camp line 0. -/
def group0 : Group := ⟨[0, 8], ⟨some 0, 0⟩⟩

theorem witness_sync : (running { launch0 with groups := [group0] } id).groupOf ⟨0, 0⟩ = some (0, 0#8, group0) ∧
    plain.groupOf plain.focus.c = none := by decide +kernel
theorem witness_alone_and_fused : plain.me.fusew = 0 ∧
    (seat fun x => { x with fusew := 1 }).me.fusew ≠ 0 ∧ (seat fun x => { x with fusew := 1 }).me.decoup = false ∧
    (seat fun x => { x with fusew := 1, decoup := true }).me.decoup = true := by decide +kernel
theorem witness_yield : let s := running launch0 fun x => { x with run := .draining .yield, arm := 1#32 }
    (s.ctx ⟨0, 0⟩).run = .draining .yield ∧ s.taskOf ⟨0, 0⟩ = some (0, task0) ∧ s.tornDown ⟨0, 0⟩ = none ∧
    0 < (task0.counter + (s.ctx ⟨0, 0⟩).arm).toInt := by decide +kernel
theorem witness_arrival : (running { launch0 with groups := [group0] } fun x =>
    { x with run := .syncWait 0#8 false }).groupOf ⟨0, 0⟩ = some (0, 0#8, group0) := by decide +kernel
/-- An episode whose two members have both arrived. -/
theorem witness_episode : let as : List Arrival := [⟨0, 0#8, ⟨0, 0⟩, 3⟩, ⟨0, 0#8, ⟨1, 0⟩, 5⟩]
    let s := { running { launch0 with groups := [group0] } id with
      lines := [⟨⟨some 0, 0⟩, 4, some (0, 0#8), as⟩] }
    s.episode (s.lineAt ⟨some 0, 0⟩) = some (0, 0#8, group0) ∧
    (group0.members.all fun m => as.any fun a => CtxRef.num a.c == m) = true := by decide +kernel
theorem witness_rejoin : let c : CtxRef := ⟨0, 0⟩
    let f (x : Context) : Context := { x with fusew := 1, decoup := true, run := .rejoinWait 0#43 }
    let s := (plain.modCtx c f).modCtx ⟨1, 0⟩ f
    (s.fusedSet c).all (fun m => (s.ctx m).run == .rejoinWait 0#43) = true := by decide +kernel
theorem witness_end : let s := running launch0 fun x => { x with run := .endWait }
    (s.ctx ⟨0, 0⟩).run = .endWait ∧ s.endBusy ⟨0, 0⟩ = false ∧ s.taskOf ⟨0, 0⟩ = some (0, task0) := by decide +kernel
theorem witness_fault : (plain.ctx ⟨0, 0⟩).run ≠ .faulted := by decide +kernel

/-- A walk of a packet of context 0. -/
def walk7 (va : Nat) : Walk := ⟨7, .packet ⟨0, 0⟩, 7, va, .read, some 0, none⟩

/-- A root table in memory whose first entry is a leaf, and states whose walks find it, find nothing, and find a
malformed entry. -/
def tables (entry : Nat) : State :=
  { plain with root := some 0, dram := plain.dram.setBytes 0 (leBytes 8 entry), walks := [walk7 0] }

/-- A formed request whose register holds its context. -/
theorem witness_formed_hold : let r := { req (.load 0x40 0x40 8 true) with state := .formed }
    let s := (asking r).modCtx ⟨0, 0⟩ fun x => { x with run := .held (.g 3), gPending := x.gPending.set 3 true }
    s.req? 9 = some r ∧ r.d = some 3 ∧ r.ui = (s.ctx r.c).uiact ∧ (s.ctx r.c).run = .held (.g 3) ∧
    s.me.gPending[(3 : Fin 16)] = true ∧ s.me.gPending[(4 : Fin 16)] = false := by decide +kernel
/-- A level-1 table at 4096 with one entry, below the root at 0. -/
def twoLevels (entry : Nat) : State :=
  { tables (1 + 4096 / 256 * 2 ^ 8) with dram := ((plain.dram.setBytes 0 (leBytes 8 (1 + 4096 / 256 * 2 ^ 8))).setBytes 4096
      (leBytes 8 entry)) }

theorem witness_walks : let waits (s : State) := s.walks.find? (fun w => w.id == 7 && w.fault.isNone) = some (walk7 0)
    waits (twoLevels 0b11111) ∧ (twoLevels 0b11111).walk (walk7 0).va = .leaf ⟨0, 0, 30, true, true, true⟩ ∧
    waits (tables 0) ∧ (tables 0).walk (walk7 0).va = .invalid ∧
    waits (tables 0b11) ∧ (tables 0b11).walk (walk7 0).va = .malformed ∧
    waits (tables 0b100000) ∧ (tables 0b100000).walk (walk7 0).va = .hostFault := by decide +kernel
theorem witness_shadow_returns : let s := seat fun x => { x with run := .held (.walk 7) }
    let u := seat fun x => { x with run := .held (.side 64#48) }
    (s.ctx ⟨0, 0⟩).run = .held (.walk 7) ∧ s.walks = [] ∧ (u.ctx ⟨0, 0⟩).run = .held (.side 64#48) ∧
    (u.tlbLookup 0 64).map (·.phys 64) = some 64 ∧ u.isBad .dram 64 32 = false := by
  decide +kernel
theorem witness_retires : let s := running launch0 fun x => { x with run := .faulted }
    (s.ctx ⟨0, 0⟩).run = .faulted ∧ s.entriesBusy ⟨0, 0⟩ = false ∧ s.taskOf ⟨0, 0⟩ = some (0, task0) := by decide +kernel
theorem witness_entry_faults : let f : EngFault := ⟨0x0B#8, 0x01#8, 0x40#64, false, .read⟩
    let s := seat fun x => { x with aqFault := some (3#32, f) }
    (s.ctx ⟨0, 0⟩).aqFault = some (3#32, f) ∧ (s.ctx ⟨0, 0⟩).run ≠ .faulted ∧ f.waits = false := by decide +kernel

/-- A context with a cookie waiting, and one with a trap and no handler. -/
theorem witness_interrupts : let s := seat fun x => { x with uiQueue := [5#32], control := 8#4, uivec := (1#44 : BitVec 44) ||| 64#44 }
    let u := seat fun x => { x with trap := some 9#17, atPoint := true }
    (s.ctx ⟨0, 0⟩).fusew = 0 ∧ s.uiReady ⟨0, 0⟩ = true ∧ (s.ctx ⟨0, 0⟩).trap = none ∧
    (s.ctx ⟨0, 0⟩).uiQueue = [5#32] ∧ (s.ctx ⟨0, 0⟩).uien = true ∧ (s.ctx ⟨0, 0⟩).uiValid = true ∧
    (s.ctx ⟨0, 0⟩).uiact = false ∧
    (u.ctx ⟨0, 0⟩).fusew = 0 ∧ u.uiReady ⟨0, 0⟩ = true ∧ (u.ctx ⟨0, 0⟩).trap = some 9#17 ∧
    (u.ctx ⟨0, 0⟩).uiValid = false ∧ Context.reset.uiact = false ∧ Context.reset.frozen = none := by decide +kernel

/-! ## Hypotheses that are met: the dispatcher -/

/-- A ready task of launch 0 in camp 0's queue of its class, and context 0 of core 1 free. -/
def offering (t : Task) : State :=
  { running { launch0 with tasks := [t] } id with ready := (plain.ready).set 1 [⟨0, 0, 0⟩] }

theorem witness_bind : let t := { task0 with state := .ready, ctx := none }
    (offering t).pickTask ⟨1, 0⟩ = some (1, ⟨0, 0, 0⟩, { launch0 with tasks := [t] }, template1, t) ∧ t.state ≠ .saved := by
  decide +kernel
theorem witness_restore : let t := { task0 with state := .saved, ctx := none, saved := [Context.reset] }
    (offering t).pickTask ⟨1, 0⟩ = some (1, ⟨0, 0, 0⟩, { launch0 with tasks := [t] }, template1, t) := by decide +kernel
theorem witness_preempt : let l := { launch0 with saveImages := 1 }
    let s := { running l fun x => { x with atPoint := true } with reserved := [(⟨0, 0⟩, 1, some 0)] }
    s.preemptReady ⟨0, 0⟩ = true ∧ s.taskOf ⟨0, 0⟩ = some (0, task0) ∧ s.launch? 0 = some l ∧
    s.freeSlot l task0 = some 0 := by decide +kernel
theorem witness_admission : let t := { task0 with state := .pending, ctx := none }
    let l := { launch0 with state := .queued, pclass := 2, tasks := [t] }
    let s := running l id
    s.launch? 0 = some l ∧ s.plans 0 l = true ∧
    (let y := { l with state := .admitted }
     let u := running y id
     u.launch? 0 = some y ∧ u.mayDispatch 0 = true) := by decide +kernel
theorem witness_watchdog : let s := { running launch0 id with gptp := 1000000 }
    s.launch? 0 = some launch0 ∧ launch0.timer = some 0 ∧ launch0.state ≠ .over ∧
    0 + launch0.watchdog.toNat * 1000 = s.gptp ∧ launch0.budget = 0#32 ∧
    3 < { launch0 with budget := 10#32, remain := 4 }.remain := by decide +kernel
theorem witness_teardown : let s := running { launch0 with teardown := some false } fun x => { x with run := .parked }
    let u := { running { launch0 with teardown := some true } id with cycle := 65536 }
    (s.tornDown ⟨0, 0⟩).isSome = true ∧ s.stopReady ⟨0, 0⟩ = true ∧
    u.tornDown ⟨0, 0⟩ = some true ∧ u.abortDue ⟨0, 0⟩ = true ∧ (u.ctx ⟨0, 0⟩).run ≠ .faulted ∧
    u.entriesBusy ⟨0, 0⟩ = false ∧ { u with cycle := 65535 }.abortDue ⟨0, 0⟩ = false := by decide +kernel
/-! ## Hypotheses that are met: engines and gambits -/

/-- An entry of 64 bytes at address 128 of device memory or of the window. -/
def entry3 (kind : AqKind) (spad : Bool) : AqEntry :=
  { seq := 3#32, kind, spad, addr := 128#48, size := 64, gid := 0#8, data := some (splat 7#32, 0xFFFF#128), at_ := 0
    begun := false, got := [], after := [], slot := none, pa := 0, voided := false }

/-- Context 0 with that entry alone. -/
def queued (e : AqEntry) : State := seat fun x => { x with aq := [e] }

theorem witness_entry_begins : let e := { entry3 .gather false with data := none }
    let s := { queued e with campTlb := plain.campTlb.set 0 [openPage] }
    s.entryReady ⟨0, 0⟩ = true ∧ (s.ctx ⟨0, 0⟩).aq.find? (fun e => !e.begun) = some e ∧
    (match (s.checkEntry ⟨0, 0⟩ e).1 with | .ok pa => pa == 128 | _ => false) = true ∧
    (s.ctx ⟨0, 0⟩).freeSlot = some 0 := by decide +kernel
/-- Whether the entry may go on, as the context's only one. -/
def goesOn (e : AqEntry) : Bool :=
  (queued e).entryMay ⟨0, 0⟩ 3#32 && decide (((queued e).ctx ⟨0, 0⟩).entry? 3#32 = some e)
theorem witness_gathers : ([false, true].all fun sp =>
      goesOn { entry3 .gather sp with begun := true, slot := some 0, data := none }) = true ∧
    ([false, true].all fun sp => goesOn { entry3 .scatter sp with begun := true, pa := 128 }) = true ∧
    plain.dram.wf = true ∧ (entry3 .scatter false).size ≤ 512 := by decide +kernel

/-- A block of copy queue 0's element in bank 2's queue, and one of a gather. -/
theorem witness_port : let x : BankAcc := ⟨.entry ⟨0, 0⟩ 3#32, 128, some [(130, 7#8)], []⟩
    let s := plain.modCore 0 fun k => { k with bankq := k.bankq.set 2 [x] }
    (s.core 0).bankq[2] = [x] ∧ (s.core 0).spad.wf = true ∧ (plain.core 0).copyq[0].elems = [] := by decide +kernel
/-- An element that may begin, one whose fence holds it, one that a pipe suspended, one that has finished with a
decrement and one with an interrupt, and one that reads a drive. -/
theorem witness_elements : let e := plain.newElem (redRecord false 0x1000 0 64) false 0
    let s (e : CopyElem) := plain.modCore 0 fun k => { k with copyq := k.copyq.set 0 ⟨[e], 1#32, 0#32⟩ }
    let held := { e with fence := [(0, 0#32)] }
    let piped := { e with susp := .pipe }
    let flagged (f : Word) := { e with phase := .finished, words := e.words.set 0 f }
    ((s e).core 0).copyq[0].elems = [e] ∧ (s e).mayBegin 0 0 = true ∧ (s held).mayBegin 0 0 = false ∧
    piped.susp = .pipe ∧ (s piped).elemPipe piped = none ∧
    recFlag (flagged 0x40#32).words 6 = true ∧ recFlag (flagged 0x40#32).words 5 = false ∧
    recFlag (flagged 0x20#32).words 5 = true ∧ recFlag (flagged 0x20#32).words 6 = false ∧
    ((s (flagged 0x20#32)).ctx (flagged 0x20#32).owner).uiQueue.length < 16 ∧ (flagged 0x20#32).silent = false ∧
    recSrc ({ e with words := e.words.set 0 0x01014000#32 }).words = 4 := by decide +kernel

/-- A request of the gambit controller, in a state with gambit 1 below the root. -/
def gam (kind : ReqKind) : State := { asking (req kind) with gambits := [(1, ⟨0#8, 1⟩)] }

theorem witness_gopen : let r (n : DWord) := req (.unit .gopen n 0#64 [])
    let k (n : DWord) := (r n).kind
    ((gam (k 1#64)).req? 9 = some (r 1#64) ∧ (gam (k 1#64)).gambitReady (r 1#64) = true) ∧
    (gam (k 256#64)).gambitReady (r 256#64) = true ∧
    (gam (k 2#64)).live 2 = false ∧ (gam (k 255#64)).live 255 = false ∧
    (gam (k 1#64)).live 1 = true ∧ (gam (k 1#64)).depth 1 ≠ 15 ∧ (gam (k 1#64)).live 2 = false ∧
    ((List.range 2).all fun h => (gam (k 1#64)).live h) = true ∧
    (let s := { gam (k 1#64) with gambits := [(1, ⟨0#8, 15⟩)] }
     s.live 1 = true ∧ s.depth 1 = 15 ∧ (s.ctx ⟨0, 0⟩).run ≠ .faulted) := by decide +kernel
/-- All 256 identifiers live. -/
theorem witness_full_gambits : let r := req (.unit .gopen 1#64 0#64 [])
    let s := { asking r with gambits := (List.range 255).map fun i => (i + 1, ⟨0#8, 1⟩) }
    s.req? 9 = some r ∧ s.gambitReady r = true ∧ s.depth 1 ≠ 15 ∧ ((List.range 256).all fun g => s.live g) = true := by
  decide +kernel
theorem witness_genter : let r := req (.unit .genter 1#64 0#64 [])
    (gam r.kind).gambitReady r = true ∧ (gam r.kind).req? 9 = some r ∧ (gam r.kind).live 1 = true := by decide +kernel
theorem witness_gres : let r (n : DWord) := req (.unit (.gres true) n 0#64 [])
    let s (n : DWord) := gam (r n).kind
    ([0#64, 1#64, 2#64, 255#64, 256#64].all fun n => (s n).gambitReady (r n) && (s n).released (r n) .dev) = true ∧
    (s 1#64).req? 9 = some (r 1#64) ∧ (s 1#64).live 1 = true ∧ (s 1#64).live 2 = false ∧ (s 1#64).live 255 = false ∧
    risingNat (s 1#64).gambits = true ∧ (s 1#64).parent 1 = 0 ∧ (s 1#64).versions = [] := by decide +kernel
/-! ## Hypotheses that are met: units -/

/-- One request, in a state whose first GiB is mapped. -/
def served (kind : ReqKind) : State := { twoLevels 0b11111 with walks := [], reqs := [req kind], nextId := 10 }

/-- An XROUTE of no pairs, of a model context that is not bound. -/
theorem witness_unbound_route : let r := req (.unit .xroute 0#64 0#64 [])
    let s := served r.kind
    s.req? 9 = some r ∧ s.residReady r = true ∧ (match s.route r 0 0 [] with | .error _ => true | _ => false) = true := by
  decide +kernel
/-- An expert's record that lists one copy, FMT 3, with the frame plan at 0x8000. -/
def record1 : List Byte :=
  leBytes 4 0x01000001 ++ List.replicate 12 0#8 ++ leBytes 8 0x03000000 ++ leBytes 8 0 ++ leBytes 8 0x8000 ++ List.replicate 88 0#8
/-- A copy of expert 0 without a frame, and with 64 bytes of sides. -/
def tag0 : Tag := ⟨0x100000, 0#20, 0, 3, false, false, false, .fetching, 0, 0, List.replicate 64 (0, 0), 64⟩
/-- Reading zeros: bytes above every listed one, and a number of them. -/
theorem bytes_zero (m : Mem) (b : Nat) (h : m.cells.all (fun c => decide (c.1 < b)) = true) (ht : m.tag = 0) (n : Nat) :
    ∀ a, b ≤ a → m.bytes a n = List.replicate n 0#8 := by
  have get (cs : List Host.Cell) (hc : cs.all (fun c => decide (c.1 < b)) = true) (a : Nat) (ha : b ≤ a) :
      cellAt cs a = none := by
    induction cs with
    | nil => rfl
    | cons c cs ih =>
      simp only [List.all_cons, Bool.and_eq_true, decide_eq_true_eq] at hc
      simp only [cellAt, ih hc.2]
      have : c.1 ≠ a := by omega
      simp [this]
  induction n with
  | zero => intros; rfl
  | succ n ih =>
    intro a ha
    simp [Mem.bytes, Mem.get, get m.cells h a ha, Mem.unlisted, ht, ih (a + 1) (by omega), List.replicate_succ]
theorem bytes_append (m : Mem) (n k : Nat) : ∀ a, m.bytes a (n + k) = m.bytes a n ++ m.bytes (a + n) k := by
  induction n with
  | zero => intro a; simp [Mem.bytes]
  | succ n ih =>
    intro a
    simp only [show n + 1 + k = (n + k) + 1 by omega, Mem.bytes, ih, List.cons_append, show a + 1 + n = a + (n + 1) by omega]
theorem leAt_zero (xs : List Byte) (n i k : Nat) (hi : xs.length ≤ i) : leAt (xs ++ List.replicate n 0#8) i k = 0 := by
  have z (m : Nat) : leNat (List.replicate m 0#8) = 0 := by
    induction m with
    | zero => rfl
    | succ m ih => simp [List.replicate_succ, leNat, ih]
  simp [leAt, List.drop_append, List.drop_eq_nil_of_le hi, z]
/-- An XROUTE's policy and its one row: PREF 3, and one pair, expert 0 with weight 1.0. -/
def oneRow : List Byte :=
  leBytes 4 0x30000000 ++ leBytes 4 0x3F800000 ++ List.replicate 28 0#8 ++ leBytes 4 0x80000000 ++ List.replicate 28 0#8 ++
    leBytes 4 0x10000000 ++ List.replicate 444 0#8
/-- A batch table whose first entry takes one token, listed at 0x30000. -/
def entry0 : List Byte := leBytes 4 0x01000001 ++ leBytes 8 0x30000 ++ List.replicate 20 0#8

theorem checkWrites_ok (s : State) : ∀ l : List (Nat × Nat), (∀ x ∈ l, s.resWritable x.1 x.2 = .ok ()) →
    s.checkWrites l = .ok () := by
  intro l
  induction l with
  | nil => intro _; rfl
  | cons x l ih =>
    intro h
    simp only [State.checkWrites, h x (by simp)]
    exact ih fun y hy => h y (by simp [hy])

theorem batchEntry_zero (tb : List Byte) (h : ∀ i, 32 ≤ i → ∀ k, leAt tb i k = 0) (e : Nat) (he : e ≠ 0) :
    (batchEntry 0x20000 tb e).amt = 0 := by
  unfold batchEntry
  simp only
  rw [h (32 * e + 4 * 3) (by omega)]
  decide

theorem route_pair (s : State) (r : Req) (tb record : List Byte) (h : MapHdr) (x : ExpRec) (k : Nat) (hm : s.mapHdr 0 = .ok h)
    (hh : h.has 0 = true) (hx : s.expRecOf h 0 = .ok (x, record)) (hs : x.subs = [])
    (ht : s.resBytes 0x20000 16384 = .ok tb) (h0 : batchEntry 0x20000 tb 0 = ⟨0x20000, 1, 0x30000, 0, 0, false⟩)
    (hz : ∀ i, 32 ≤ i → ∀ k, leAt tb i k = 0) (w1 : s.resWritable 0x20010 16 = .ok ()) (w2 : s.resWritable 0x30000 8 = .ok ())
    (hr : s.resid.resolve h (policyOf 0x30000000) 0 [] = .hit k) :
    ∃ t w, s.route r 0 0x20000 oneRow = .ok (t, w) := by
  have p1 : leAt oneRow 0 4 = 0x30000000 := by decide +kernel
  have p2 : bits (rowLane (oneRow.drop 4) 0 16) 9 11 * 512 = 0 := by decide +kernel
  have p3 : tablePairs (0 / 2 ^ 32) (oneRow.drop 4) (bits 0 24 8 + 1) = [(0, 0#32, 0x3F800000#32)] := by decide +kernel
  have p4 : expertMc 0 = 0 := by decide
  unfold State.route
  simp only [p1, p2, p3, p4, hm, show 0x20000 % 2 ^ 48 = 0x20000 from rfl, ht, List.map_cons, List.map_nil, Nat.zero_add,
    show ([0] : List Nat).eraseDups = [0] from by decide, List.filter_cons, hh, if_true, List.filter_nil, State.nameAll, hx, hs,
    List.any_nil, Bool.false_eq_true, if_false, hr, List.foldl_cons, List.foldl_nil, List.find?_cons, beq_self_eq_true,
    Option.map_some]
  have hp : (Routing.pair ⟨[], [], [], [], 0, 0, 0, 0, 0⟩ s.resid h (policyOf 0x30000000) (fun e => batchEntry 0x20000 tb e)
      (some (⟨0, .hit k, [], (x.copy? (policyOf 0x30000000).pref).isSome, record⟩, s.resid.fetching 0 (policyOf 0x30000000).pref true))
      (0#32, 0x3F800000#32)) = ⟨[⟨0, 1, k, [(0#32, 0x3F800000#32)]⟩], [], [], [], 1, 0, 0, 0, 0⟩ := by
    simp [Routing.pair, Routing.note, Routing.append, Routing.given, h0, lookupNat]
  have hw (z : List Nat) (y : Nat × Nat × Option Nat × List (Word × Word))
      (hy : y ∈ Routing.writes ⟨[⟨0, 1, k, [(0#32, 0x3F800000#32)]⟩], [], [], [], 1, 0, 0, 0, 0⟩
        (fun e => batchEntry 0x20000 tb e) [0] z) : y = (0, 1, some k, [(0#32, 0x3F800000#32)]) := by
    unfold Routing.writes at hy
    simp only [List.mem_filterMap, lookupNat] at hy
    obtain ⟨e, _, he⟩ := hy
    rcases Decidable.em (e = 0) with rfl | hne
    · simpa using he.symm
    · simp [batchEntry_zero tb hz e hne, beq_eq_false_iff_ne.mpr (Ne.symm hne)] at he
  simp only [hp]
  rw [checkWrites_ok]
  · exact ⟨_, _, rfl⟩
  · intro y hy
    simp only [List.mem_filter, List.mem_append, List.mem_flatMap, List.flatMap_nil, List.not_mem_nil, or_false] at hy
    obtain ⟨⟨z, hz', hy⟩, -⟩ := hy
    have := hw _ z hz'
    subst this
    simp only [h0, List.length_cons, List.length_nil, List.mem_cons, List.not_mem_nil, or_false] at hy
    rcases hy with rfl | rfl
    · exact w1
    · exact w2
theorem route_wait (s : State) (r : Req) (tb record : List Byte) (h : MapHdr) (x : ExpRec) (hm : s.mapHdr 0 = .ok h)
    (hh : h.has 0 = true) (hx : s.expRecOf h 0 = .ok (x, record)) (hs : x.subs = [])
    (ht : s.resBytes 0x20000 16384 = .ok tb) (h0 : batchEntry 0x20000 tb 0 = ⟨0x20000, 1, 0x30000, 0, 0, false⟩)
    (hz : ∀ i, 32 ≤ i → ∀ k, leAt tb i k = 0) (w1 : s.resWritable 0x20010 16 = .ok ()) (w2 : s.resWritable 0x30000 8 = .ok ())
    (hr : s.resid.resolve h (policyOf 0x30000000) 0 [] = .wait) (hc : (x.copy? (policyOf 0x30000000).pref).isSome = true)
    (hn : s.resid.waits = []) (hp : 0 < s.resid.spillPlaces) (hf : s.resid.fetching 0 (policyOf 0x30000000).pref true = none) :
    ∃ t w, s.route r 0 0x20000 oneRow = .ok (t, w) := by
  have p1 : leAt oneRow 0 4 = 0x30000000 := by decide +kernel
  have p2 : bits (rowLane (oneRow.drop 4) 0 16) 9 11 * 512 = 0 := by decide +kernel
  have p3 : tablePairs (0 / 2 ^ 32) (oneRow.drop 4) (bits 0 24 8 + 1) = [(0, 0#32, 0x3F800000#32)] := by decide +kernel
  have p4 : expertMc 0 = 0 := by decide
  unfold State.route
  simp only [p1, p2, p3, p4, hm, show 0x20000 % 2 ^ 48 = 0x20000 from rfl, ht, List.map_cons, List.map_nil, Nat.zero_add,
    show ([0] : List Nat).eraseDups = [0] from by decide, List.filter_cons, hh, if_true, List.filter_nil, State.nameAll, hx, hs,
    List.any_nil, Bool.false_eq_true, if_false, hr, List.foldl_cons, List.foldl_nil, List.find?_cons, beq_self_eq_true,
    Option.map_some]
  have hq : (Routing.pair ⟨[], [], [], [], 0, 0, 0, 0, 0⟩ s.resid h (policyOf 0x30000000) (fun e => batchEntry 0x20000 tb e)
      (some (⟨0, .wait, [], (x.copy? (policyOf 0x30000000).pref).isSome, record⟩, none))
      (0#32, 0x3F800000#32)) = ⟨[], [(0, [(0#32, 0x3F800000#32)])], [0], [], 0, 0, 0, 1, 0⟩ := by
    simp [Routing.pair, Routing.note, Routing.enqueue, Routing.given, h0, lookupNat, hc, hn, insertNat, Nat.ne_of_gt hp]
  have hw (z : List Nat) (y : Nat × Nat × Option Nat × List (Word × Word))
      (hy : y ∈ Routing.writes ⟨[], [(0, [(0#32, 0x3F800000#32)])], [0], [], 0, 0, 0, 1, 0⟩
        (fun e => batchEntry 0x20000 tb e) [0] z) : False := by
    unfold Routing.writes at hy
    simp only [List.mem_filterMap, lookupNat] at hy
    obtain ⟨e, _, he⟩ := hy
    rcases Decidable.em (e = 0) with rfl | hne
    · simp at he
    · simp [batchEntry_zero tb hz e hne] at he
  simp only [hf, hq]
  rw [checkWrites_ok]
  · exact ⟨_, _, rfl⟩
  · intro y hy
    simp only [List.mem_filter, List.mem_append, List.mem_flatMap, List.mem_cons, List.not_mem_nil, or_false] at hy
    obtain ⟨⟨z, hz', -⟩ | ⟨z, rfl, hy⟩, -⟩ := hy
    · exact (hw _ z hz').elim
    · simp only [h0, List.length_cons, List.length_nil] at hy
      rcases hy with rfl | rfl
      · exact w1
      · exact w2
/-- An XROUTE of that pair, whose batch table stands at 0x20000; model context 0 is bound at 0x10000 to a map of one
expert, whose record lists a copy at PREF, which the tag store holds or does not hold. -/
def routed (held : Bool) : State :=
  let s := served (.unit .xroute 0#64 0x20000#64 oneRow)
  { s with dram := (((s.dram.setBytes 0x10000 (leBytes 8 0x0001000101000000 ++ leBytes 8 0x18000)).setBytes 0x18000
                      record1).setBytes 0x20000 entry0)
           resid := { s.resid with bases := s.resid.bases.set 0 (some 0x10000), wsBase := 0x100000, wsSize := 0x100000
                                   tags := if held then [(0, { tag0 with state := .resident })] else [] } }
def hdr1 : MapHdr := ⟨1, 1, 0x18000, 0⟩
def rec1 : ExpRec := ⟨[], [⟨3, false, false, 0, 0, 0x8000⟩]⟩
/-- What both kinds of XROUTE have. -/
theorem routed_table (held : Bool) : ∃ tb, (routed held).resBytes 0x20000 16384 = .ok tb ∧
    batchEntry 0x20000 tb 0 = ⟨0x20000, 1, 0x30000, 0, 0, false⟩ ∧ ∀ i, 32 ≤ i → ∀ k, leAt tb i k = 0 := by
  have h2 : (match (routed held).unitSpan .read 0x20000 16384 with | .ok ps => decide (ps = [(0x20000, 16384)]) | _ => false) =
    true := by cases held <;> decide +kernel
  have h3 : (routed held).isBad .dram 0x20000 16384 = false := by cases held <;> decide +kernel
  have h4 : (routed held).dram.cells.all (fun c => decide (c.1 < 0x20020)) = true := by cases held <;> decide +kernel
  have h5 : (routed held).dram.tag = 0 := by cases held <;> decide +kernel
  have h6 : (routed held).dram.bytes 0x20000 32 = entry0 := by cases held <;> decide +kernel
  refine ⟨entry0 ++ List.replicate 16352 0#8, ?_, by decide +kernel, fun i hi k => leAt_zero _ _ _ _ hi⟩
  unfold State.resBytes State.unitBytes
  split at h2
  · rename_i ps hp
    simp only [decide_eq_true_eq] at h2
    subst h2
    simp only [hp, List.any_cons, List.any_nil, h3, Bool.or_false, Bool.false_eq_true, if_false, List.flatMap_cons,
      List.flatMap_nil, List.append_nil, bytes_append _ 32 16352, h6, bytes_zero _ _ h4 h5 16352 _ (Nat.le_refl _)]
  · cases h2
/-- An outcome is a given result. -/
def isOk {ε α : Type} [DecidableEq α] (e : Except ε α) (a : α) : Bool :=
  match e with
  | .ok x => decide (x = a)
  | .error _ => false
theorem eq_of_isOk {ε α : Type} [DecidableEq α] {e : Except ε α} {a : α} (h : isOk e a = true) : e = .ok a := by
  cases e with
  | ok x => exact congrArg _ (of_decide_eq_true h)
  | error _ => cases h
/-- A pair whose expert hits, and one whose expert is not there and waits for its copy. -/
theorem witness_route : (routed true).resid.resolve hdr1 (policyOf 0x30000000) 0 [] = .hit 0 ∧
    (routed false).resid.resolve hdr1 (policyOf 0x30000000) 0 [] = .wait ∧ (routed false).resid.waits = [] ∧
    0 < (routed false).resid.spillPlaces ∧ (routed false).resid.fetching 0 3 true = none ∧ (rec1.copy? 3).isSome = true ∧
    ∀ held, ∃ t w, (routed held).route (req (.unit .xroute 0#64 0x20000#64 oneRow)) 0 0x20000 oneRow = .ok (t, w) := by
  refine ⟨by decide +kernel, by decide +kernel, by decide +kernel, by decide +kernel, by decide +kernel, by decide +kernel, ?_⟩
  intro held
  have hm : isOk ((routed held).mapHdr 0) hdr1 = true := by cases held <;> decide +kernel
  have hx : isOk ((routed held).expRecOf hdr1 0) (rec1, record1) = true := by cases held <;> decide +kernel
  have w1 : isOk ((routed held).resWritable 0x20010 16) () = true := by cases held <;> decide +kernel
  have w2 : isOk ((routed held).resWritable 0x30000 8) () = true := by cases held <;> decide +kernel
  obtain ⟨tb, ht, h0, hz⟩ := routed_table held
  cases held with
  | true =>
    exact route_pair _ _ tb record1 hdr1 rec1 0 (eq_of_isOk hm) (by decide) (eq_of_isOk hx) rfl ht h0 hz (eq_of_isOk w1)
      (eq_of_isOk w2) (by decide +kernel)
  | false =>
    exact route_wait _ _ tb record1 hdr1 rec1 (eq_of_isOk hm) (by decide) (eq_of_isOk hx) rfl ht h0 hz (eq_of_isOk w1)
      (eq_of_isOk w2) (by decide +kernel) (by decide) (by decide +kernel) (by decide +kernel) (by decide +kernel)
/-- A message of 64 bytes to this member, one to a member outside the peer set, one to a member with no link, and
one whose address has bits above its member number. -/
theorem witness_msg : let r := req (.unit (.msg false 64) 0x20000#64 0#64 (List.replicate 64 1#8))
    let s := served r.kind
    let u := { s with peers := { s.peers with members := 6#8 } }
    let m (n : Nat) : DWord := BitVec.ofNat 64 (0x20000 + n * 2 ^ 48)
    s.netReady r = true ∧ s.unitWaits 9 = false ∧ s.req? 9 = some r ∧
    (match s.deliver 0x20000 (List.replicate 64 1#8) none with | (.ok _, _) => true | _ => false) = true ∧
    ((m 0).extractLsb' 48 3).toNat = s.peers.own.val ∧ (m 0).extractLsb' 51 13 = 0#13 ∧
    ((m 7).extractLsb' 48 3).toNat = 7 ∧ u.peers.members.getLsbD 7 = false ∧
    u.peers.members.getLsbD 1 = true ∧ u.peerAssoc 1 = none ∧
    { u with assocs := u.assocs.set 9 (some (newAssoc 9 3)) }.peerAssoc 1 = some 9 ∧
    { r with state := .served }.state = .served ∧ s.netWaits = [] ∧ (m 8).extractLsb' 51 13 ≠ 0#13 := by decide +kernel
/-- An exchange that sends this member one row of 64 bytes. -/
def exchange : List Byte :=
  leBytes 4 0x01010000 ++ leBytes 8 0x20000 ++ leBytes 8 0x30000 ++ leBytes 8 (64 + 2 ^ 32 * 128) ++ leBytes 8 1 ++
    List.replicate 28 0#8
theorem witness_a2a_delivered : let r := req (.unit .a2a 0#64 0#64 exchange)
    let s := served r.kind
    let apart := { s with peers := ⟨1, 5#8, []⟩, assocs := s.assocs.set 8 (some (newAssoc 8 3)) }
    let sent (s : State) : BitVec 8 :=
      (s.a2aRun 9 (recOf exchange) (List.replicate 64 0#8) (a2aPeers (recOf exchange)) ⟨9, 0#8, 0#4, 0#8⟩ none).1.peers
    apart.a2aHost (recOf exchange) = none ∧ apart.netReady r = true ∧ sent s = 0#8 ∧ sent apart = 1#8 ∧
    let w := recOf exchange
    s.netReady r = true ∧ s.unitWaits 9 = false ∧ s.req? 9 = some r ∧ a2aTotal w = 64 ∧ s.a2aHost w = none ∧
    (w[1].toNat + 2 ^ 32 * w[2].toNat) % 2 ^ 48 = 0x20000 ∧
    (match s.transSpan none .read 0x20000 (64 / 65536 + 2) 64 [] with
      | (.inr ps, _, t) => ps == [(0x20000, 64)] && !t.inPipe 0x20000 64 && !t.isBad .dram 0x20000 64
      | _ => false) = true := by decide +kernel

/-- Room for a copy with a frame of core 0; and a span that a unit writes. -/
theorem witness_room : let u := { (routed true).resid with wsSize := 0x200000 }
    u.room 512 true [1, 0] 64 = some (0x100800, [(0, 1), (0, 0)]) ∧ u.wsBase % 1024 = 0 ∧
    (match (routed true).unitSpan .write 0x2FFFC 8 with | .ok ps => ps == [(0x2FFFC, 4), (0x30000, 4)] | _ => false) = true ∧
    (routed true).dram.wf = true := by decide +kernel
/-- A fill of the canopy copy of expert 0, its way 0, and the LPDDR6 copy from which it comes, at 0x40000. -/
def fill0 : Fill := ⟨9, 0#20, 3, true, false, false, false, record1, some 0, some 9, false, true, 0, []⟩
def filling (f : Fill) : State :=
  let s := { twoLevels 0b11111 with walks := [] }
  { s with resid := { s.resid with tags := [(0, tag0), (1, { tag0 with tier := 1, loc := 0x40000, state := .resident })]
                                   wsBase := 0x100000, wsSize := 0x200000, fills := [f] } }
theorem witness_fills : let s := filling fill0
    let f := { fill0 with going := false }
    s.resid.fills.find? (fun f => f.id == 9) = some fill0 ∧ lookupNat s.resid.tags 0 = some tag0 ∧
    s.unitWaits 9 = false ∧ tag0.frames.length = 64 ∧ s.resid.waits = [] ∧ risingNat s.resid.tags = true ∧
    isOk (s.resWritable tag0.loc (1024 + tag0.side)) () = true ∧
    (match s.fillData fill0 with
      | .ok (bs, flash) => !flash && bs.length == imageBytes (tag0.frames.map fun x => x.2) tag0.side
      | _ => false) = true ∧
    (filling f).fetchReady 9 = true ∧ (filling f).unitWaits 9 = false ∧
    (match (filling f).fillSize f with
      | .ok x => decide (x = (List.replicate 64 0, 64)) && ((filling f).resid.room 512 f.canopy x.1 x.2).isSome
      | _ => false) = true ∧ { f with reason := 2 }.reason ≠ 0 := by
  decide +kernel
/-! ## Hypotheses that are met: the host link and the platform -/

/-- A state with a host's association 0 and peer 1's association 9 open. -/
def linked : State :=
  let s := { twoLevels 0b11111 with walks := [], peers := ⟨0, 6#8, []⟩ }
  { s with assocs := (s.assocs.set 0 (some (newAssoc 0 3))).set 9 (some (newAssoc 9 3)) }
/-- Message 4 of association 0, with its payload alone: what is acted on. -/
def msg (bs : List Byte) : FltMsg := ⟨0, 4, bs⟩
/-- A datagram: its flags (4: LAST), type, number and payload (Table 1 of 35_link_platform.md). -/
def datagram (flags type : Byte) (seq : Nat) (bs : List Byte) : List Byte :=
  [flags, type, 3#8, 1#8] ++ leBytes 4 seq ++ leBytes 4 0 ++ leBytes 2 bs.length ++ [0#8, 0#8] ++ leBytes 8 0 ++ bs
/-- The one datagram of message 4 of association 0, number 1, arriving. -/
def arrives (type : Byte) (bs : List Byte) : FltMsg := ⟨0, 4, datagram 4#8 type 1 bs⟩
/-- The message is acted on, in a state that meets what is asked. -/
def acts (s : State) (type : Byte) (room : State → FltMsg → Bool) (m p : FltMsg) (f : State → Bool) : Bool :=
  match s.takes type room m with
  | some (u, q) => decide (q = p) && f u
  | none => false
def acted (s : State) (type : Byte) (bs : List Byte) (f : State → Bool) : Bool :=
  acts s type anyTime (arrives type bs) (msg bs) fun u => u.hostOpen 0 && u.firmwareUp && f u
/-- A locator and its bytes. -/
def located (space handle addr n : Nat) (bs : List Byte) : List Byte :=
  leBytes 4 space ++ leBytes 4 handle ++ leBytes 8 addr ++ leBytes 4 n ++ leBytes 4 0 ++ bs

theorem witness_hello : headerBad (datagram 4#8 1#8 0 [1#8, 1#8, 3#8]) = false ∧
    (header (datagram 4#8 1#8 0 [1#8, 1#8, 3#8])).last = true ∧ (header (datagram 4#8 1#8 0 [1#8, 1#8, 3#8])).seq = 0#32 ∧
    (header (datagram 4#8 1#8 0 [1#8, 1#8, 3#8])).type = 0x01#8 ∧ helloMinor [1#8, 1#8, 3#8] = some 3 ∧
    helloMinor [2#8, 2#8, 0#8] = none ∧ peerOfAssoc 0 = none ∧ linked.assocs[(0 : Fin 16)] ≠ none ∧
    peerOfAssoc 9 = some 1 ∧ linked.hasPeer 1 = true ∧ peerOfAssoc 11 = some 3 ∧ linked.hasPeer 3 = false ∧
    linked.assocs[(11 : Fin 16)] = none := by decide +kernel
theorem witness_writes : let w := located 2 0 (2 ^ 38 - 4) 4 [1#8, 2#8, 3#8, 4#8]
    let h := located 0 7 0 1 [1#8]
    let l := { launch0 with handles := [(7, false, true)] }
    let u := { linked with handles := [(7, ⟨0x40000, 65536, none, [], false⟩)], launches := [(0, l)] }
    locatorBad true w = false ∧ (locator w).space = 2 ∧ (locator w).addr + (locator w).count = 2 ^ 38 ∧
    linked.dram.wf = true ∧ locatorBad true [] = true ∧ locatorBad true h = false ∧ (locator h).space = 0 ∧
    locatorBad false (located 1 0 0 4 []) = false ∧ (locator (located 1 0 0 4 [])).space = 1 ∧
    acted linked 3#8 w (fun u => (u.choose 2).1 == 0) = true ∧ acted { linked with choices := [1] } 3#8 w (fun u => (u.choose 2).1 != 0) = true ∧
    acted linked 3#8 [] (fun _ => true) = true ∧ acted linked 3#8 h (fun u => (u.launchesOn 7).isEmpty) = true ∧
    acted u 3#8 h (fun u => !(u.launchesOn 7).isEmpty) = true ∧
    acted linked 4#8 (located 1 0 0 4 []) (fun _ => true) = true ∧ acted linked 4#8 [] (fun _ => true) = true := by decide +kernel
theorem witness_fences : let f := leBytes 4 1 ++ leBytes 4 0
    findDeferred ((0 : Fin 16), 4) Deferred.isFence linked.deferred = none ∧
    acted linked 5#8 f (fun u => !anyOf 0 u.deferred &&
      u.fencePerformed (.fence (msg f) (u.fenceMarks (fenceNames f)).1 (u.fenceMarks (fenceNames f)).2.1
        (u.fenceMarks (fenceNames f)).2.2)) = true := by decide +kernel
theorem witness_teardown_messages : let u := { linked with launches := [(0, launch0)] }
    acted u 7#8 (leBytes 4 0) (fun u => u.teardownStatus (leBytes 4 0) == 0) = true ∧
    acted u 7#8 (leBytes 4 1) (fun u => u.teardownStatus (leBytes 4 1) == 1) = true ∧
    framingBad [] = true ∧ framingBad (List.replicate 132 0#8) = false ∧
    acts u 2#8 launchRoom (arrives 2#8 (List.replicate 132 0#8)) (msg (List.replicate 132 0#8)) (fun u =>
      u.hostOpen 0 && u.firmwareUp && u.freeLaunch == some 1) = true ∧
    acts u 2#8 launchRoom (arrives 2#8 []) (msg []) (fun u => u.hostOpen 0 && u.firmwareUp) = true ∧
    acted u 0x0A#8 [] (fun _ => true) = true ∧ (header (arrives 0x0A#8 []).payload).type = 0x0A#8 := by decide +kernel

/-- A peer's payload, and its result of the MSG that waits for it. -/
theorem witness_peer_messages : let p := leBytes 8 9 ++ leBytes 8 0x20000 ++ leBytes 8 (2 ^ 64 - 1) ++ [1#8]
    let x := leBytes 8 9 ++ leBytes 4 2
    let r := req (.unit (.msg false 0) 0#64 0#64 [])
    let s := { linked with netWaits := [⟨9, 2#8, 0#4, 0#8⟩], reqs := [r] }
    peerOfAssoc 9 = some 1 ∧
    acts linked 9#8 anyTime ⟨9, 4, datagram 4#8 9#8 1 p⟩ ⟨9, 4, p⟩ (fun u => u.firmwareUp && u.isOpen 9 &&
      match u.deliver 0x20000 [1#8] none with | (.ok _, _) => true | _ => false) = true ∧
    acts s 0x89#8 anyTime ⟨9, 4, datagram 4#8 0x89#8 1 x⟩ ⟨9, 4, x⟩ (fun u => u.firmwareUp &&
      decide ((u.netWaits.filter fun w => w.id == leAt x 0 8) = [⟨9, 2#8, 0#4, 0#8⟩]) && u.req? 9 == some r) = true ∧
    (2#8 : BitVec 8).getLsbD 1 = true := by decide +kernel
theorem witness_deferred : let s := { linked with deferred := [.write (msg []) 7 []] }
    let r := { linked with deferred := [.read (msg []) 7 []] }
    let i := { linked with deferred := [.invalidate (msg []) 0 4096] }
    findDeferred ((0 : Fin 16), 4) Deferred.isWrite s.deferred = some ([], .write (msg []) 7 []) ∧
    s.mayStart ((0 : Fin 16), 4) Deferred.isWrite = true ∧
    findDeferred ((0 : Fin 16), 4) Deferred.isRead r.deferred = some ([], .read (msg []) 7 []) ∧
    r.mayStart ((0 : Fin 16), 4) Deferred.isRead = true ∧
    findDeferred ((0 : Fin 16), 4) Deferred.isInvalidate i.deferred = some ([], .invalidate (msg []) 0 4096) := by
  decide +kernel
/-- Datagrams in each place of their association's sequence; a message that waits behind another, and one that waited. -/
theorem witness_receipts : let s := { linked with inbox := [(arrives 3#8 [], [])] }
    let m : FltMsg := ⟨0, 5, datagram 4#8 4#8 1 [7#8]⟩
    linked.receipt (msg []) = .dropped ∧ headerBad (msg []).payload = true ∧
    linked.receipt ⟨0, 4, datagram 4#8 3#8 0 []⟩ = .again ∧ linked.receipt ⟨0, 4, datagram 4#8 3#8 2 []⟩ = .early ∧
    linked.receipt ⟨0, 4, datagram 0#8 3#8 1 []⟩ = .part ∧ linked.receipt (arrives 3#8 [7#8]) = .whole [7#8] ∧
    headerBad (arrives 3#8 [7#8]).payload = false ∧ linked.parked (arrives 3#8 [7#8]) = none ∧
    (linked.received (arrives 3#8 [7#8])).mayAct [] 0 = true ∧
    s.parked m = none ∧ s.receipt m = .whole [7#8] ∧ (s.received m).mayAct (s.received m).inbox 0 = false ∧
    (s.takes 4#8 anyTime m).isNone = true ∧
    s.parked (arrives 3#8 []) = some [] ∧ s.mayAct (parkedBefore (arrives 3#8 []) s.inbox) 0 = true := by decide +kernel
/-- Datagrams at the bounds of their times and counts, and a queue whose gates stand open. -/
theorem witness_datagrams : let o : OutMsg := ⟨0, 0x83#8, 1#8, 3#8, 1#32, true, []⟩
    let x : Assoc := { newAssoc 0 3 with rxUnacked := 16, unacked := [⟨o, 0, 63, some 5⟩] }
    let s := { linked with assocs := linked.assocs.set 0 (some x), gptp := 100005 }
    let y := { x with rxUnacked := 1, rxSince := 80005, unacked := [⟨o, 0, 64, some 5⟩] }
    s.assocs[(0 : Fin 16)] = some x ∧ 0 < x.rxUnacked ∧ 16 ≤ x.rxUnacked ∧
    (x.unacked.all fun u => u.late s.gptp && decide (u.retries < 64)) = true ∧ y.rxSince + 20000 ≤ s.gptp ∧
    (y.unacked.any fun u => u.late s.gptp && decide (64 ≤ u.retries)) = true ∧
    (let p := { s.ports[(0 : Fin 2)] with waiting := [(1, 5#3, o), (2, 0#3, { o with seq := 2#32 })] }
     p.open_ 2 s.gptp = true ∧ p.waiting = [(1, 5#3, o)] ++ (2, 0#3, { o with seq := 2#32 }) :: []) := by decide +kernel

/-- A setting's payload, sound for a length and fields. -/
def setting (code : Nat) (body : List Byte) : List Byte :=
  leBytes 2 body.length ++ [BitVec.ofNat 8 code, 1#8] ++ leBytes 4 0 ++ body
/-- What the statement about a setting asks of its message. -/
def sound (code need : Nat) (fields : List (Nat × Nat)) (body : List Byte) : Bool :=
  acted linked 8#8 (setting code body) fun _ => !mgmtBad code need fields (setting code body)
theorem witness_settings : linked.hostOpen 9 = false ∧ mgmtBad 1 30 [] [] = true ∧
    acted linked 8#8 [] (fun _ => true) = true ∧
    acts linked 8#8 anyTime ⟨9, 4, datagram 4#8 8#8 1 []⟩ ⟨9, 4, []⟩ (fun _ => true) = true ∧
    (sound 1 30 [(0, 32), (64, 48), (128, 48)] (leBytes 8 7 ++ leBytes 8 65536 ++ leBytes 8 65536) &&
      sound 1 30 [(0, 32), (64, 48), (128, 48)] (leBytes 8 7 ++ leBytes 8 65536 ++ leBytes 8 0) &&
      decide (linked.launchesOn 7 = []) && sound 2 10 [(0, 10)] (leBytes 8 512) && linked.noLaunch && linked.noCanopyFill &&
      sound 3 22 [(0, 3), (8, 1), (64, 48)] (leBytes 8 7 ++ leBytes 8 0x40000) && linked.modelFree 7 &&
      decide (linked.resid.bases[(7 : Fin 8)] = none) && decide ((routed true).resid.bases[(0 : Fin 8)] = some 0x10000) &&
      sound 3 22 [(0, 3), (8, 1), (64, 48)] (leBytes 8 256 ++ leBytes 8 0) && (routed true).modelFree 0) = true := by decide +kernel
theorem witness_unit_settings :
    (sound 4 40 [(0, 48), (64, 64), (128, 48), (192, 64)]
        (leBytes 8 65536 ++ leBytes 8 65536 ++ leBytes 8 131072 ++ leBytes 8 65536) &&
      (List.finRange 8).all (fun i => linked.resid.bases[i].isNone) &&
      sound 5 38 [(0, 48), (64, 48), (128, 48), (192, 21), (224, 3), (232, 1)]
        (leBytes 8 4096 ++ leBytes 8 8192 ++ leBytes 8 12288 ++ leBytes 8 (2 ^ 20 + 2 ^ 32 * 4)) && linked.pkIdle &&
      decide (2 ^ 20 * (128 * 2 ^ 4) * 2 = 2 ^ 32) &&
      sound 6 10 [(0, 9), (64, 48), (128, 64)] (leBytes 2 255) &&
      sound 7 13 [(0, 38)] (leBytes 8 (2 ^ 38 - 4096)) && sound 8 22 [(0, 48), (64, 48)] (leBytes 8 0 ++ leBytes 8 4096) &&
      sound 9 13 [(0, 32), (32, 1)] (leBytes 8 0) && sound 0x0A 16 [(0, 8), (32, 28)] (leBytes 8 0) &&
      sound 0x0B 258 peerFields (leBytes 8 0x0601 ++ List.replicate 242 0#8) && linked.netIdle) = true ∧
    (let w := { walk7 0 with fault := some 0#32 }
     ({ linked with walks := [w] }.walks.find? fun w => w.fault == some 0#32) = some w) ∧
    (seat fun x => { x with run := .held .brk }).brokenAt 0 0 = some ⟨0, 0⟩ := by decide +kernel
theorem witness_platform_settings :
    let gates := leBytes 8 3 ++ leBytes 8 0 ++ leBytes 8 (1000 + 2 ^ 32) ++ leBytes 8 (255 + 2 ^ 32 * 1000)
    (sound 0x0C 40 (linkFields (setting 0x0C gates)) gates && decide (gateCount (setting 0x0C gates) = 1) &&
      decide (mgmtField (setting 0x0C gates) 128 32 = 1000) &&
      sound 0x0D 11 [(0, 9), (16, 2)] (leBytes 4 150) && sound 0x0D 11 [(0, 9), (16, 2)] (leBytes 4 380) &&
      sound 0x0E 8 [] [] && sound 0x0F 40 [(0, 256)] (List.replicate 32 1#8) &&
      sound 0x10 25 [(0, 1), (32, 32), (64, 32), (128, 8)] (leBytes 8 1 ++ leBytes 8 1 ++ [7#8]) &&
      decide (linked.fwSlot ≠ some 1) &&
      sound 0x11 80 [(0, 2), (64, 512), (576, 32768)] (leBytes 8 0 ++ List.replicate 64 0#8) &&
      decide (leAt (setting 0x11 (leBytes 8 0 ++ List.replicate 64 0#8)) 40 16 = 0) &&
      (List.finRange 64).all fun k => ((linked.core k).allElems.all fun e => !e.2.onDrive 0)) = true ∧
    ({ linked with drives := [⟨0, 1, true, 4096, Mem.empty⟩] }.drives.map fun (d : Namespace) => d.drive.val) = [0] := by decide +kernel
theorem witness_platform : 1000 ≤ 1000 ∧ 2000 ≤ 2100 ∧ 2000 % 100 = 0 ∧ 2000 < plain.mhz ∧ 380 ≤ plain.limitW ∧
    { plain with limitW := 375 }.limitW < 380 ∧ { plain with mhz := 1000 }.mhz < 2000 ∧
    { plain with powered := false }.powered = false ∧ plain.agenda = [] := by decide +kernel

/-! ## Hypotheses that are met: frames and invariants -/

theorem witness_frame : (encode (.add 3 (.ss 1 2))).isSome = true ∧ plain.banksIdle = true ∧ plain.quiet = true ∧
    nextWith (exec (.add 3 (.ss 1 2)) plain) (fun _ => true) = true := by decide +kernel
theorem witness_canonical : State.reset.memoriesWf ∧ nextWith (step State.reset) (fun _ => true) = true :=
  ⟨⟨by decide, by decide +kernel⟩, by decide +kernel⟩

/-! ## Hypotheses that are met: clauses over several events -/

/-- A message that arrives behind a deferred WRITE of its association waits, and its event with it. -/
theorem witness_waiting_message : let m := arrives 3#8 []
    let s := { State.reset with agenda := [.write m], assocs := State.reset.assocs.set 0 (some (newAssoc 0 3))
                                deferred := [.write (msg []) 7 [0]] }
    s.readyAt 0 s.agenda = [0] ∧ s.firstIssuers = [] ∧ Instr.message (.write m) = some m ∧
    nextWith (exec (.write m) { (s.choose 1).2 with agenda := [] }) (fun t => (t.parked m).isSome) = true ∧
    Instr.message .thermalThrottle = none := by decide +kernel
/-- Policies of PREF 3, 9 and 10, and one with a reserved bit. -/
theorem witness_policies : let w (n : Nat) : DWord := BitVec.ofNat 64 n
    let pref (n : Nat) : Nat := ((w n).extractLsb' 28 4).toNat
    w 0x30000000 &&& 0x1FFFFFFF07030000#64 = 0#64 ∧ pref 0x30000000 = 3 ∧ pref 0x90000000 = 9 ∧ pref 0xA0000000 = 10 ∧
    w 0x30010000 &&& 0x1FFFFFFF07030000#64 ≠ 0#64 := by decide
/-- A tie between two numbers, the least overflow to BF16 by RNE, and an integer beyond its bound. -/
theorem witness_conversions : let r := roundGrid (.det .rne) false 1 3 0 false 0
    2 * (r.n * 2) = 2 * 3 + 2 ∧ r.n % 2 = 0 ∧ ((cvt (.fin false 511 120) .bf16 (.det .rne) false 0).2.ovf = true) ∧
    (cvt (.fin false 255 120) .bf16 (.det .rne) false 0).2.ovf = false ∧ floatSpec .bf16 ≠ none ∧
    (cvt (.fin false 8 0) .e2m1 (.det .rne) false 0).2.ovf = true ∧ (fval .bf16 0x3F80).isNan = false ∧
    f32 0x3F800000#32 = .fin false 0x800000 (-23) ∧ f32 0xFF800000#32 = .inf true ∧ isNan32 0x7FC00000#32 = true ∧
    f32 0x80000000#32 = .fin true 0 (-149) := by decide +kernel
/-- A loop level below the top, a register that is not prepared, and one whose stream is still its own. -/
theorem witness_prepared : let s := seat fun x => { x with b := x.b.set 1 ⟨9#43, true, some 0⟩, clock := 16 }
    let u := s.modCore 0 fun k => { k with pstreams := [{ ctx := 0, reg := 1, first := 9#43, packets := [] }] }
    s.me.b[(1 : Fin 8)].since ≠ none ∧ u.readyTarget 1 = true ∧ s.readyTarget 1 = false ∧
    plain.me.b[(1 : Fin 8)].prepared = false := by decide +kernel

/-- VPOP with its gather under way, and with its gather behind a scatter that awaits data. -/
theorem witness_pop_holds : let g : AqEntry := { entry3 .gather false with data := none, at_ := 5 }
    let x := { waitingEntry 4#32 with at_ := 5 }
    let s (es : List AqEntry) := seat fun y => { y with aq := es }
    let before (es : List AqEntry) := es.filter fun e => e.data.isSome || e.at_ != (s es).cycle
    (s [g]).me.poppable = [] ∧ before [g] = [] ++ g :: [] ∧ g.kind = .gather ∧
    (s [x, g]).me.poppable = [] ∧ before [x, g] = [x] ++ g :: [] ∧ x.kind ≠ .gather ∧ x.data = none := by decide +kernel
/-- Promotes by codes at 255 and below it. -/
theorem witness_promx : let x : VReg := lanes fun n => if n = 0 then 255#32 else 127#32
    (lane x 0).toNat % 256 = 255 ∧ (lane x 1).toNat % 256 ≠ 255 ∧ (127#32).toNat % 256 ≠ 255 ∧
    f32 0x3F800000#32 = .fin false 0x800000 (-23) ∧ f32 0x7F800000#32 = .inf false ∧ isNan32 0x7FC00000#32 = true := by
  decide +kernel
/-- LDA and LDB of an inactive lane 0, nothing in flight. -/
theorem witness_inactive_loads : plain.me.active (.pos 0) 0 = false ∧ plain.me.landings = [] := by decide +kernel
theorem witness_memories : plain.memoriesWf := ⟨by decide +kernel, by decide +kernel⟩

/-- A gather with some units read, all of them, and none with an open choice; a choice of lanes; a scatter-add. -/
theorem witness_units_apart : let e := { entry3 .gather false with begun := true, slot := some 0, data := none, pa := 128 }
    let part := { e with got := [(128, 1#8)] }
    let all := { e with got := (List.range 8).map fun i => (128 + 8 * i, 1#8) }
    let w (e : AqEntry) (ks : List Nat) := { queued e with choices := ks }
    goesOn part = true ∧ part.unread ≠ [] ∧ goesOn all = true ∧ all.unread = [] ∧ 1 < e.unread.length ∧
    ((w e [1]).choose (e.unread.length + 1)).1 ≠ 0 ∧
    ([AqKind.addI, .addF].all fun k => goesOn { entry3 k false with begun := true, pa := 128 }) = true ∧
    (let s := { entry3 .scatter false with begun := true, pa := 128 }
     let on := (List.range 16).filter (laneOn 0xFFFF#128)
     ((w s [2]).chooseLanes s on).1 ≠ on ∧ on ≠ [] ∧ (plain.core 0).accesses (.entry ⟨0, 0⟩ 3#32) = [] ∧
     goesOn { entry3 .scatter true with begun := true } = true) := by decide +kernel

/-- A record of one row of 64 bytes from a source space to a destination space, in a kind. -/
def rowRecord (kind src dst from_ to_ : Nat) : Vector Word 16 :=
  #v[BitVec.ofNat 32 (0x01000000 + kind * 2 ^ 16 + src * 2 ^ 12 + dst * 2 ^ 8), BitVec.ofNat 32 from_,
    BitVec.ofNat 32 (from_ / 2 ^ 32), BitVec.ofNat 32 to_, BitVec.ofNat 32 (to_ / 2 ^ 32), 0x10010#32, 0#32, 0#32, 0x10010#32,
    0xDD#32, 0#32, 0#32, 0#32, 0#32, 0#32, 0#32]
/-- Its element, begun, alone in copy queue 0. -/
def rowElem (kind src dst from_ to_ : Nat) : CopyElem :=
  { plain.newElem (rowRecord kind src dst from_ to_) false 0 with begun := true, size := 0x200000 }
def moving (s : State) (e : CopyElem) : State :=
  { s.modCore 0 fun k => { k with copyq := k.copyq.set 0 ⟨[e], 1#32, 0#32⟩ } with campTlb := s.campTlb.set 0 [openPage] }
def zeros64 : List Byte := List.replicate 64 0#8
theorem witness_row_starts : let e := rowElem 1 0 1 0x1000 0
    let s := { moving plain { e with begun := false } with choices := [0] }
    let u := { s.putElem 0 0 e with choices := [] }
    s.mayBegin 0 0 = true ∧ e.susp = .none ∧ e.phase = .start ∧ e.row < recRows e.words ∧ recCols e.words ≠ 0 ∧
    s.fromDevice e = true ∧
    (match (u.rowSource 0 e e.row).1 with | .ok (some bs) => decide (bs = zeros64) | _ => false) = true ∧
    (let r := { rowElem 1 1 0 0 0x1000 with phase := .reading [] }
     let v := moving plain r
     v.mayBegin 0 0 = true ∧ v.outstanding (.copy 0 0 r.seq) = false ∧
     isOk (v.spadSpan 0 r (recSrc r.words) (recSrcAddr r.words) (r.row * recSrcStride r.words) (r.srcBytes r.row)) (0, 0) =
       true) := by decide +kernel
/-- Rows that reach the window, a canopy, device memory, a reduction's words, and a drive. -/
theorem witness_row_delivered : let win := rowElem 1 0 1 0x1000 0
    let can := rowElem 1 0 2 0x1000 0
    let dev := rowElem 1 1 0 0 0x1000
    let red := rowElem 3 1 5 0 0x1000
    let nvm := rowElem 1 1 4 0 (2 ^ 43)
    let out (e : CopyElem) := e.rowOut (fun i => zeros64.getD i 0#8) e.row
    let s (e : CopyElem) := { moving plain e with canopyC := 16, drives := [⟨0, 1, false, 65536, Mem.empty⟩] }
    ([win, can, dev, red, nvm].all fun e => (s e).elemPipe e == none && (s e).firstElem 0 0 == some e &&
      recFlag e.words 0 == false && (e.count e.row == 16) && (runs (out e) == [(0, zeros64)])) = true ∧
    isOk ((s win).spadSpan 0 win 1 0 0 64) (0, 0) = true ∧ ((s win).core 0).accesses (.copy 0 0 win.seq) = [] ∧
    recDst can.words = 2 ∧ recKind can.words ≠ 4 ∧ ((s dev).choose 2).1 = 0 ∧ (s dev).dram.wf = true ∧
    (match ((s dev).engSpan 0 .engWrite .write 0x1000 64).1 with | .ok ps => decide (ps = [(0x1000, 64)]) | _ => false) = true ∧
    (s dev).oddKeyWrite 0x1000 64 = false ∧ recKind red.words = 3 ∧ recDst red.words = 5 ∧ recBad red.words = none ∧ recDst dev.words = 0 ∧
    recKind dev.words = 1 ∧ (s red).isBad .dram 0x1000 64 = false ∧
    (match ((s red).engSpan 0 .engReduce .readWrite 0x1000 64).1 with | .ok ps => decide (ps = [(0x1000, 64)]) | _ => false) =
      true ∧
    recDst nvm.words = 4 ∧ (s nvm).namespaceAt (2 ^ 43) = some ⟨0, 1, false, 65536, Mem.empty⟩ ∧
    (s nvm).badBlocks ⟨0, 1, false, 65536, Mem.empty⟩ 0 64 = false ∧
    (let blk := rowElem 4 0 2 0x1000 0
     let turned := { win with words := win.words.set 0 (win.words[0] ||| 1#32) }
     recDst blk.words = 2 ∧ recKind blk.words = 4 ∧ blk.row < recRows blk.words ∧ fmtWidth (recDstFmt blk.words) = 32 ∧
       recRows blk.words = 1 ∧ blk.count blk.row = 16 ∧ (s blk).elemPipe blk = none ∧ recFlag turned.words 0 = true ∧
       (s turned).elemPipe turned = none) := by decide +kernel

/-- A store under gambit 1 that makes its version, and one that finds its line's four ways taken. -/
theorem witness_new_version : let r := { req (.store 0x58 0x58 8 5#64) with gid := 1#8 }
    let s := { asking r with gambits := [(1, ⟨0#8, 1⟩)] }
    let u := { s with versions := (List.range 4).map fun n => ⟨BitVec.ofNat 8 (n + 2), 2, List.replicate 32 0#8⟩ }
    s.req? 9 = some r ∧ s.mayPerform r = true ∧ lookupNat s.gambits r.gid.toNat = some ⟨0#8, 1⟩ ∧ s.uncached 0x58 8 = false ∧
    (s.taggedLines (l2Key 0x58)).length < 4 ∧ (u.taggedLines (l2Key 0x58)).length = 4 ∧
    (1#8, 0x58 / 256) ∉ u.taggedLines (l2Key 0x58) ∧ u.mayPerform r = true := by decide +kernel
/-- Confirmations into the root and into a parent, with versions of their own. -/
theorem witness_merge : let r (n : DWord) := req (.unit (.gres false) n 0#64 [])
    let s (n : DWord) := { gam (r n).kind with
      gambits := [(1, ⟨0#8, 1⟩), (2, ⟨1#8, 2⟩)]
      versions := [⟨1#8, 2, List.replicate 32 1#8⟩, ⟨2#8, 2, List.replicate 32 2#8⟩, ⟨2#8, 3, List.replicate 32 3#8⟩] }
    ([1#64, 2#64].all fun n => (s n).gambitReady (r n) && (s n).released (r n) .dev) = true ∧
    (s 1#64).live 1 = true ∧ (s 2#64).live 2 = true ∧ (s 1#64).parent 1 = 0 ∧ (s 2#64).parent 2 = 1 ∧
    risingNat (s 1#64).gambits = true ∧ (s 1#64).dram.wf = true ∧
    (∀ v ∈ (s 1#64).versions, ∀ w ∈ (s 1#64).versions, v.gid = w.gid → v.sector = w.sector → v = w) ∧
    ∀ v ∈ (s 1#64).versions, v.data.length = 32 := by decide +kernel
/-- The launch at the head of the admission queue. -/
theorem witness_admission_order : let t := { task0 with state := .pending, ctx := none }
    let s := running { launch0 with state := .queued, pclass := 2, tasks := [t] } id
    (s.admissionQueue.find? fun x => s.plans x.num x).map Launch.num = some 0 ∧ template1.width ≤ 2 := by decide +kernel

/-! ## The digest of R29 -/

/-- The digest of the three bytes "abc" (FIPS 180-4's example): its first eight bytes. -/
theorem test_sha512 : (sha512 [0x61#8, 0x62#8, 0x63#8]).take 8 =
    [0xDD#8, 0xAF#8, 0x35#8, 0xA1#8, 0x93#8, 0x61#8, 0x7A#8, 0xBA#8] := by decide +kernel
/-- R260: -1 less the most negative partial sum is exact. -/
theorem test_promi_neg : (promElem .promiNeg 0xFFFFFFFF#32 0x80000000#32 0#32).1 = 0x7FFFFFFF#32 := by decide +kernel

/-! ## Hypotheses that are met: single clauses -/

theorem witness_two_results : let r := { req (.dcas 0x40 0x40 0x48 0x48 0#64 0#64 1#64 2#64) with d2 := some 4, state := .formed }
    let s := (asking r).modCtx ⟨0, 0⟩ fun x => { x with run := .held (.g 4), gPending := x.gPending.set 4 true }
    s.req? 9 = some r ∧ r.d = some 3 ∧ r.d2 = some 4 ∧ (3 : Fin 16) ≠ 4 ∧ r.orphaned = false ∧
    r.ui = (s.ctx r.c).uiact ∧ r.state = .formed ∧ (s.ctx r.c).run = .held (.g 4) := by decide +kernel
/-- Special, exact and ordinary inputs of the functions of one operand, and of quantizing. -/
theorem witness_special_inputs : isNan32 0x7FC00000#32 = true ∧ isNan32 0#32 = false ∧ signed32 0x80000000#32 = 0 ∧
    f32 0xFF800000#32 = .inf true ∧ f32 0x80000000#32 = .fin true 0 (-149) ∧
    (f32 0x3F800000#32 = .fin false 0x800000 (-23) ∧ 0x800000 * 2 ^ ((-23 : Int) + 149).toNat = 1 * 2 ^ 149 ∧
      2 ^ 149 = 2 ^ ((0 : Int) + 149).toNat) ∧
    (f32 1#32 = .fin false 1 (-149) ∧ 1 * 2 ^ ((-149 : Int) + 149).toNat = 2 ^ ((-149 : Int) + 149).toNat) ∧
    f32 0x80000001#32 = .fin true 1 (-149) ∧ fval .e5m2 0x7C = .inf false ∧ (fval .e5m2 0x7E).isNan = true ∧
    fval .int8 0 = .fin false 0 0 ∧ (vbyte (splat 0xFF#32) (5 / 32)).toNat = 255 ∧ (vbyte (splat 127#32) 0).toNat ≠ 255 := by
  decide +kernel
theorem witness_stochastic : floatSpec .bf16 ≠ none ∧ ((-1 : Int) < 0) ∧
    (cvt (.fin false 511 120) .bf16 (.det .rne) false 0).2.ovf = true ∧
    (cvt (.fin false 257 0) .bf16 (.det .rne) false 0).2.ovf = false := by decide +kernel
/-- Accesses that each check refuses, at the bounds of the stack limit and of the window. -/
theorem witness_refused_accesses : let s := seat fun x => { x with splim := 16#22 }
    (2 : Int) % 4 ≠ 0 ∧ (12 : Int) % 4 = 0 ∧ (12 : Int) < s.me.splim.toNat ∧ (0x1FFFFC : Int) % 8 ≠ 0 ∧
    s.me.spsize.toNat = 0x200000 ∧ (0x200000 : Int) < 0x200000 + 4 ∧ (-4 : Int) < 0 ∧ s.me.active .all 0 = true := by
  decide +kernel
/-- Terms of a dot product: a NaN, the product of an infinity and a zero, infinities of both signs, and numbers. -/
theorem witness_dot_terms : (FVal.nan false false).isNan = true ∧ (FVal.inf false).isInf = true ∧
    (FVal.fin false 0 0).isZero = true ∧ (FVal.inf true).neg = true ∧ (FVal.inf false).neg = false ∧
    (-2 : Int) ≤ -1 + -1 ∧ 32 % 32 = 0 ∧ 127 ≠ 255 ∧ (-2 : Int) ≤ -1 + -1 + 127 - 127 ∧
    ((List.range 8).filter (0x0F#8 : BitVec 8).getLsbD).length = 4 := by decide
/-- A promote to a handle that takes slot 0, one that takes slot 1, one past the template's bound and one with all
handles' slots held; and sums beyond the range of an integer. -/
theorem witness_promote_slots : let s := seat fun x => { x with task := some ⟨0, 0#28, 2⟩, streams := [⟨0, 8, 0, false, [], false⟩] }
    let u := s.modCore 0 fun k => { k with slotTaken := k.slotTaken.set 0 true }
    let full := s.modCtx ⟨0, 0⟩ fun x => { x with acc := (x.acc.set 1 (some 3)).set 2 (some 4) }
    (s.me.streamNow false).isSome = true ∧ s.me.acc[(0 : Fin 16)] = none ∧ (s.me.task.map fun t => t.h) = some 2 ∧
    (s.me.acc.toList.filter fun x => x.isSome).length = 0 ∧ s.mine.slotTaken[(0 : Fin 8)] = false ∧
    u.mine.slotTaken[(0 : Fin 8)] = true ∧ u.mine.slotTaken[(1 : Fin 8)] = false ∧
    (full.me.acc.toList.filter fun x => x.isSome).length = 2 ∧ full.me.acc[(0 : Fin 16)] = none ∧
    (2147483647 : Int) < (0x7FFFFFFF#32).toInt + (1#32).toInt ∧ (0x80000000#32).toInt - (1#32).toInt < -2147483648 := by
  decide +kernel
/-- A store for GCAP; a DCAS whose second place is bad; a load before a later request of its context and its decrement,
a later element and a later entry. -/
theorem witness_discards : let r := req (.load 0x40 0x40 8 true)
    let q := { req (.tdec 0 1#32) with id := 11 }
    let old := { req (.load 0x80 0x80 8 true) with id := 8 }
    let d := req (.dcas 0x40 0x40 0x48 0x48 0#64 0#64 1#64 2#64)
    let st := req (.store 0x40 0x40 8 0#64)
    let e := { plain.newElem (redRecord false 0x1000 0 64) false 0 with id := 12 }
    let a := { entry3 .gather false with at_ := 5 }
    let s := { (moving { plain with nextId := 13 } e).modCtx ⟨0, 0⟩ (fun x => { x with aq := [a] }) with
      reqs := [old, r, q], decs := [⟨12, 0, 0, 1#32, none, some 11⟩], bad := [(.dram, 0x47)] }
    s.req? 9 = some r ∧ r.orphaned = false ∧ s.reqBad r = some 0x40 ∧ s.reqs = [old] ++ r :: [q] ∧
    (s.reqs.map fun q => q.id).Nodup ∧ q.c = r.c ∧ q.state = .waiting ∧ r.id < e.id ∧ e.owner = r.c ∧ e.phase ≠ .finished ∧
    r.cycle < a.at_ ∧ (asking st).req? 9 = some st ∧
    { asking d with bad := [(.dram, 0x48)] }.reqBad d = some 0x48 := by decide +kernel
/-- A load's MEMECC discards what was issued later, and keeps what was issued before. -/
theorem test_discards_later : let r := req (.load 0x40 0x40 8 true)
    let q := { req (.drain .dev) with id := 11 }
    let old := { req (.load 0x80 0x80 8 true) with id := 8 }
    let s := { plain with reqs := [old, r, q], nextId := 12, bad := [(.dram, 0x47)] }
    nextWith (exec (.memeccLoadFault 9) s) (fun t => t.reqs == [old] && t.me.faddr == 0x40#64 &&
      t.me.cause.extractLsb' 0 8 == 0x0E#8) = true := by decide +kernel
/-- A decrement at a record with an uncorrectable error, sent by nobody and by a TDEC. -/
theorem witness_bad_record : let d : Dec := ⟨4, 0, 0, 1#32, none, none⟩
    let s := { running launch0 id with decs := [d], bad := [(.task, 0)] }
    let r := req (.tdec 0 1#32)
    let u := { s with reqs := [r], decs := [{ d with req := some 9 }] }
    (s.decs.find? fun d => d.id == 4) = some d ∧ s.decReady d = true ∧ s.isBad .task ((0 : Fin 256).val * 2 ^ 28 + 0) 1 = true ∧
    u.decReady { d with req := some 9 } = true ∧ u.req? 9 = some r ∧ r.orphaned = false ∧ u.launch? 0 = some launch0 := by
  decide +kernel
/-- Contexts of a launch in teardown: at a SYNC of their group, in a decoupled set, held, and with an entry under way. -/
theorem witness_torn : let l := { launch0 with teardown := some true, groups := [group0] }
    let s := running l id
    let pair := running l fun x => { x with fusew := 1, decoup := true }
    let held := running l fun x => { x with run := .held .pop }
    let busy := running l fun x => { x with aq := [{ entry3 .scatter true with begun := true }] }
    (s.tornDown s.focus.c).isSome = true ∧ (s.groupOf s.focus.c).isSome = true ∧ pair.me.fusew ≠ 0 ∧ pair.me.decoup = true ∧
    (pair.tornDown pair.focus.c).isSome = true ∧ held.stopsHere ⟨0, 0⟩ = true ∧ plain.stopsHere ⟨0, 0⟩ = false ∧
    busy.entriesBusy ⟨0, 0⟩ = true ∧ s.entriesBusy ⟨0, 0⟩ = false ∧ s.taskOf ⟨0, 0⟩ = some (0, task0) := by decide +kernel
/-- A table entry with an uncorrectable error; faults of a copy queue's element, one that stops its context and one that
waits for the host, of a task at work and of one retired. -/
theorem witness_engine_faults : let e := plain.newElem (redRecord false 0x1000 0 64) false 0
    let f (w : Bool) : EngFault := ⟨if w then 0x0B#8 else 0x0C#8, 0x00#8, 0x40#64, w, .read⟩
    let x (w silent : Bool) : CopyElem := { e with begun := true, silent := silent, susp := .fault (f w) }
    let bad := { tables 0b11111 with bad := [(.dram, 7)] }
    bad.walks.find? (fun w => w.id == 7 && w.fault.isNone) = some (walk7 0) ∧ bad.walk 0 = .ecc 0 ∧
    ([false, true].all fun w => [false, true].all fun silent =>
      (moving plain (x w silent)).firstElem 0 0 == some (x w silent)) = true ∧ (plain.ctx e.owner).run ≠ .faulted ∧
    plain.walks = [] ∧ (f true).code ≠ 0x12#8 := by decide +kernel
/-- An element that pushes and one that pops, their pipe full, empty and with room. -/
theorem witness_pipe_rows : let l (n : Nat) := { launch0 with pipes := [⟨1#16, 0x1000#48, 0x1200#48, List.replicate n zeros64⟩] }
    let s (n : Nat) (e : CopyElem) := moving (running (l n) id) e
    let push := rowElem 1 1 0 0 0x1000
    let pop := rowElem 1 0 1 0x1200 0
    ([0, 31, 32].all fun n => (s n push).elemPipe push == some (0, 0, true) && (s n pop).elemPipe pop == some (0, 0, false) &&
      ((s n push).pipe? 0 0).any fun x => x.entries.length == n) = true := by decide +kernel
/-- A finished element whose interrupt finds the list full. -/
theorem witness_interrupts_full : let e := { rowElem 1 1 0 0 0x1000 with phase := .finished, words := (rowRecord 1 1 0 0 0x1000).set 0 0x01011020#32 }
    let s := (moving plain e).modCtx e.owner fun x => { x with uiQueue := List.replicate 16 0#32 }
    recFlag e.words 5 = true ∧ e.silent = false ∧ (s.ctx e.owner).uiQueue.length = 16 ∧ s.firstElem 0 0 = some e := by
  decide +kernel
/-- Deliveries that a page of the host's stops, and that a bell with an uncorrectable error stops. -/
theorem witness_failed_deliveries : let w : List Byte := List.replicate 64 1#8
    let away := { twoLevels 0b100000 with walks := [] }
    let odd := { twoLevels 0b11111 with walks := [], bad := [(.dram, 0x20044)] }
    let bell : List Byte := exchange.set 0 1#8 |>.set 48 0x40#8 |>.set 50 2#8
    (match away.deliver 0x20000 w none with | (.host, _) => true | _ => false) = true ∧
    (match odd.deliver 0x20000 w (some 0x20040) with | (.ecc a, _) => a == 0x20040 | _ => false) = true ∧
    (odd.a2aRun 9 (recOf bell) zeros64 (a2aPeers (recOf bell)) ⟨9, 0#8, 0#4, 0#8⟩ none).2.1.isSome = true ∧
    { req (.unit (.msg false 64) 0x20000#64 0#64 w) with pageFailed := [2] }.pageFailed ≠ [] := by decide +kernel
/-- READs of a handle without a writer, with one, and behind a WRITE that waits; the host's WRITE of a POISONED handle;
a datagram of a known type on which the module does not act. -/
theorem witness_reads : let r := located 0 7 0 4 []
    let h (w : Option (Fin 256)) (p : Bool) := { linked with handles := [(7, ⟨0x40000, 65536, w, [], p⟩)] }
    let w := located 0 7 0 1 [1#8]
    locatorBad false r = false ∧ (locator r).space = 0 ∧ (locator r).handle = 7 ∧
    acted (h none false) 4#8 r (fun u => ((lookupNat u.handles 7).bind fun h => h.writer).isNone && u.deferred.isEmpty) = true ∧
    acted (h (some 0) false) 4#8 r (fun u => ((lookupNat u.handles 7).bind fun h => h.writer).isSome) = true ∧
    acted { h none false with deferred := [.read ⟨1, 5, []⟩ 3 [], .writing ⟨1, 6, []⟩ (some 7) []] } 4#8 r
      (fun u => u.deferred.any (writesTo 7)) = true ∧
    acted (h none true) 3#8 w (fun u => (u.located (locator w)).isSome && ((u.locWalks (locator w)).choose 2).1 == 0 &&
      (u.launchesOn 7).isEmpty) = true ∧
    acted linked 4#8 (located 2 0 64 4 []) (fun u => (u.choose 2).1 == 0 && !u.isBad .dram 64 4) = true ∧
    2 ^ 38 < (locator (located 2 0 (2 ^ 38) 4 [])).addr + 4 ∧
    acted linked 6#8 [] (fun _ => true) = true ∧ acted linked 9#8 [] (fun _ => true) = true ∧ peerOfAssoc 0 = none ∧
    (header (arrives 1#8 []).payload).seq ≠ 0#32 ∧ acted linked 1#8 [] (fun _ => true) = true := by decide +kernel
/-- A READ of a handle that a launch writes waits. -/
theorem test_read_waits : let s := { linked with handles := [(7, ⟨0x40000, 65536, some 0, [], false⟩)] }
    nextWith (exec (.read (arrives 4#8 (located 0 7 0 4 []))) s) (fun t => t.deferred == [.read (msg (located 0 7 0 4 [])) 7 [0]]) =
      true := by decide +kernel
end Sys2Proof.Machine
end

/-! Two results on one register (R90): what is applied, in landing order, and what remains of it. -/
namespace Sys2Proof.Machine

/-! ## Landing order (R90) -/

/-- Two elements of which the order puts one first are sorted so, however they stand. -/
theorem sortBy_pair {α : Type} {lt : α → α → Bool} {a b : α} (hab : lt a b = true) (hba : lt b a = false)
    (swapped : Bool) : sortBy lt (if swapped then [a, b].reverse else [a, b]) = [a, b] := by
  cases swapped <;> simp [sortBy, insertBy, hab, hba]

/-- The landing order is that of the cycle, of the packet's issue and of the position, in turn. -/
theorem before_iff (a b : Landing) : a.before b = true ↔
    a.at_ < b.at_ ∨ a.at_ = b.at_ ∧ (a.issued < b.issued ∨ a.issued = b.issued ∧ a.pos < b.pos) := by
  simp [Landing.before]

theorem before_asymm {a b : Landing} (h : a.before b = true) : b.before a = false := by
  rw [before_iff] at h
  rw [Bool.eq_false_iff, ne_eq, before_iff]
  omega

theorem setCtx_setCtx (k : Core) (i : Fin 8) (x y : Context) : (k.setCtx i x).setCtx i y = k.setCtx i y := by
  simp [Core.setCtx]

/-- Where every result in flight has landed, all are applied in landing order and none stays in flight. -/
theorem landDue_of_all_due (k : Core) (i : Fin 8) (x : Context) (ls : List Landing)
    (hdue : ∀ l ∈ ls, l.at_ ≤ x.clock) :
    (k.setCtx i { x with landings := ls }).landDue i =
      (k.setCtx i { x with landings := [] }).landAll (k.setCtx i { x with landings := ls }) i x.clock
        (sortBy Landing.before ls) := by
  have hall : (ls.filter fun l => decide (l.at_ ≤ x.clock)) = ls :=
    List.filter_eq_self.2 fun l hl => decide_eq_true (hdue l hl)
  have hnone : (ls.filter fun l => !decide (l.at_ ≤ x.clock)) = [] :=
    List.filter_eq_nil_iff.2 fun l hl => by simp [hdue l hl]
  simp only [Core.landDue, core_setCtx_same, setCtx_setCtx, hall, hnone]

/-- Two results that have landed are applied in landing order, however they stand. The cores at the start
of their cycles matter to a promote row alone, and are left open. -/
theorem landDue_pair (k : Core) (i : Fin 8) (x : Context) {a b : Landing} (hab : a.before b = true)
    (ha : a.at_ ≤ x.clock) (hb : b.at_ ≤ x.clock) (swapped : Bool) :
    ∃ pre pre' : Core,
      (k.setCtx i { x with landings := if swapped then [a, b].reverse else [a, b] }).landDue i =
        ((k.setCtx i { x with landings := [] }).apply pre i a.at_ a.write).apply pre' i b.at_ b.write := by
  rw [landDue_of_all_due _ _ _ _ (by cases swapped <;> simp [ha, hb]), sortBy_pair hab (before_asymm hab)]
  exact ⟨_, _, rfl⟩

/-! ## What a result leaves in its context, and in the tiles of its core -/

section
variable (k pre : Core) (i : Fin 8) (cyc : Nat)

theorem ctx_apply_s (j : Fin 32) (w : DWord) : (k.apply pre i cyc (.s j w)).ctxs[i] =
    { k.ctxs[i] with s := k.ctxs[i].s.set j w } := core_setCtx_same _ _ _

theorem ctx_apply_k (j : Fin 16) (w : DWord) : (k.apply pre i cyc (.k j w)).ctxs[i] =
    { k.ctxs[i] with k := k.ctxs[i].k.set j w } := core_setCtx_same _ _ _

theorem ctx_apply_q (j : Fin 8) (w : Bool) : (k.apply pre i cyc (.q j w)).ctxs[i] =
    { k.ctxs[i] with q := k.ctxs[i].q.set j w } := core_setCtx_same _ _ _

theorem ctx_apply_x (j : Fin 32) (w : Word) : (k.apply pre i cyc (.x j w)).ctxs[i] =
    { k.ctxs[i] with x := k.ctxs[i].x.set j w } := core_setCtx_same _ _ _

theorem ctx_apply_a (j : Fin 16) (w : Word) : (k.apply pre i cyc (.a j w)).ctxs[i] =
    { k.ctxs[i] with a := k.ctxs[i].a.set j w } := core_setCtx_same _ _ _

theorem ctx_apply_m (j : Fin 16) (w : DWord) : (k.apply pre i cyc (.m j w)).ctxs[i] =
    { k.ctxs[i] with m := k.ctxs[i].m.set j w } := core_setCtx_same _ _ _

theorem ctx_apply_z (j : Fin 8) (w : BitVec 24) : (k.apply pre i cyc (.z j w)).ctxs[i] =
    { k.ctxs[i] with z := k.ctxs[i].z.set j w } := core_setCtx_same _ _ _

theorem ctx_apply_sa (j : Fin 8) (w : VReg) : (k.apply pre i cyc (.sa j w)).ctxs[i] =
    { k.ctxs[i] with sa := k.ctxs[i].sa.set j w } := core_setCtx_same _ _ _

theorem ctx_apply_sb (j : Fin 8) (w : Word) : (k.apply pre i cyc (.sb j w)).ctxs[i] =
    { k.ctxs[i] with sb := k.ctxs[i].sb.set j w } := core_setCtx_same _ _ _

theorem ctx_apply_g (j : Fin 16) (w : DWord) : (k.apply pre i cyc (.g j w)).ctxs[i] =
    { k.ctxs[i] with g := k.ctxs[i].g.set j w, gAcq := k.ctxs[i].gAcq.set j false } := core_setCtx_same _ _ _

theorem ctx_apply_b (j : Fin 8) (t : PcWord) : (k.apply pre i cyc (.b j t)).ctxs[i] =
    { k.ctxs[i] with b := k.ctxs[i].b.set j ⟨t, true, some cyc⟩ } := core_setCtx_same _ _ _

theorem ctx_apply_unprep (j : Fin 8) : (k.apply pre i cyc (.unprep j)).ctxs[i] =
    { k.ctxs[i] with b := k.ctxs[i].b.set j { k.ctxs[i].b[j] with prepared := false, since := none } } :=
  core_setCtx_same _ _ _

theorem ctx_apply_pend (lev : Fin 8) (n : BitVec 24) : (k.apply pre i cyc (.pend lev n)).ctxs[i] =
    { k.ctxs[i] with loops := putLoop (fun l => { l with pending := some n }) lev k.ctxs[i].loops } :=
  core_setCtx_same _ _ _

theorem ctx_apply_v (j : Fin 32) (w : VReg) (mask : Pred) : (k.apply pre i cyc (.v j w mask)).ctxs[i] =
    { k.ctxs[i] with v := k.ctxs[i].v.set j (mergeLanes (laneOn mask) w k.ctxs[i].v[j]) } := core_setCtx_same _ _ _

theorem ctx_apply_p (j : Fin 8) (w mask : Pred) : (k.apply pre i cyc (.p j w mask)).ctxs[i] =
    { k.ctxs[i] with p := k.ctxs[i].p.set j (w &&& mask ||| k.ctxs[i].p[j] &&& ~~~mask) } := core_setCtx_same _ _ _

theorem ctx_apply_sr (r : SReg) (w : DWord) :
    (k.apply pre i cyc (.sr r w)).ctxs[i] = k.ctxs[i].writeSr r w := core_setCtx_same _ _ _

theorem tiles_apply_aldRow (slot : Fin 8) (row : Fin 128) (w : VReg) :
    (k.apply pre i cyc (.aldRow slot row w)).tiles = setTileRow k.tiles slot row w := rfl

end

theorem lane_mergeLanes (m : Nat → Bool) (new old : VReg) {j : Nat} (hj : j < 128) :
    lane (mergeLanes m new old) j = if m j then lane new j else lane old j := by
  simp [mergeLanes, lanes, lane, Nat.mod_eq_of_lt hj]

theorem laneOn_merge (w mask old : Pred) {j : Nat} (hj : j < 128) :
    laneOn (w &&& mask ||| old &&& ~~~mask) j = if laneOn mask j then laneOn w j else laneOn old j := by
  by_cases h : mask[j] <;> simp [laneOn, hj, h]

/-! ## Vectors and lists -/

/-- Of two writes of one register, the later remains. -/
theorem getElem_set_set {α : Type} {n : Nat} (xs : Vector α n) (d : Fin n) (v w : α) :
    ((xs.set d v).set d w)[d] = w := Vector.getElem_set_self _

/-- The element that a change of a list reaches is the old one changed. -/
theorem getElem?_modifyAt {α : Type} (f : α → α) (n : Nat) (l : List α) : (modifyAt f n l)[n]? = l[n]?.map f := by
  induction n generalizing l with
  | zero => cases l <;> rfl
  | succ n ih =>
    cases l with
    | nil => rfl
    | cons a l => simpa [modifyAt] using ih l

theorem lookupNat_insertNat {α : Type} (a : Nat) (v : α) (l : List (Nat × α)) :
    lookupNat (insertNat a v l) a = some v := by
  induction l with
  | nil => simp [insertNat, lookupNat]
  | cons x l ih =>
    simp only [insertNat]
    split
    · simp [lookupNat]
    · split
      · simp [lookupNat]
      · simp [lookupNat, show x.1 ≠ a by omega, ih]

/-- Rising keys, as a relation of each key to those after it. -/
theorem risingNat_iff {α : Type} (l : List (Nat × α)) : risingNat l = true ↔ l.Pairwise fun x y => x.1 < y.1 := by
  rw [← List.isChain_iff_pairwise]
  induction l with
  | nil => simp [risingNat]
  | cons x l ih =>
    cases l with
    | nil => simp [risingNat]
    | cons y l => simpa [risingNat] using fun _ => ih

theorem eraseNat_sublist {α : Type} (a : Nat) (l : List (Nat × α)) : (eraseNat a l).Sublist l := by
  induction l with
  | nil => exact List.Sublist.refl _
  | cons x l ih =>
    simp only [eraseNat]
    split
    · exact List.sublist_cons_self x l
    · exact ih.cons_cons x

theorem mem_insertNat {α : Type} {a : Nat} {v : α} {y : Nat × α} {l : List (Nat × α)} (h : y ∈ insertNat a v l) :
    y = (a, v) ∨ y ∈ l := by
  induction l with
  | nil => exact .inl (List.mem_singleton.1 h)
  | cons x l ih =>
    simp only [insertNat] at h
    split at h
    · exact List.mem_cons.1 h
    · split at h
      · exact (List.mem_cons.1 h).imp_right (List.mem_cons_of_mem x)
      · obtain rfl | h := List.mem_cons.1 h
        · exact .inr List.mem_cons_self
        · exact (ih h).imp_right (List.mem_cons_of_mem x)

theorem risingNat_eraseNat {α : Type} (a : Nat) {l : List (Nat × α)} (h : risingNat l = true) :
    risingNat (eraseNat a l) = true :=
  (risingNat_iff _).2 (((risingNat_iff l).1 h).sublist (eraseNat_sublist a l))

theorem risingNat_insertNat {α : Type} (a : Nat) (v : α) {l : List (Nat × α)} (h : risingNat l = true) :
    risingNat (insertNat a v l) = true := by
  rw [risingNat_iff] at *
  induction l with
  | nil => exact List.pairwise_singleton _ _
  | cons x l ih =>
    obtain ⟨hx, hl⟩ := List.pairwise_cons.1 h
    simp only [insertNat]
    split
    · next ha =>
      refine List.pairwise_cons.2 ⟨fun y hy => ?_, h⟩
      obtain rfl | hy := List.mem_cons.1 hy
      · exact ha
      · exact ha.trans (hx y hy)
    · split
      · next ha => exact List.pairwise_cons.2 ⟨ha ▸ hx, hl⟩
      · refine List.pairwise_cons.2 ⟨fun y hy => ?_, ih hl⟩
        obtain rfl | hy := mem_insertNat hy
        · simp only; omega
        · exact hx y hy

theorem lookupNat_eq_none {α : Type} {a : Nat} {l : List (Nat × α)} (h : ∀ x ∈ l, x.1 ≠ a) : lookupNat l a = none := by
  induction l with
  | nil => rfl
  | cons x l ih =>
    rw [lookupNat, if_neg (h x List.mem_cons_self)]
    exact ih fun y hy => h y (List.mem_cons_of_mem x hy)

theorem lookupNat_eraseNat {α : Type} (a : Nat) {l : List (Nat × α)} (h : risingNat l = true) :
    lookupNat (eraseNat a l) a = none := by
  rw [risingNat_iff] at h
  induction l with
  | nil => rfl
  | cons x l ih =>
    obtain ⟨hx, hl⟩ := List.pairwise_cons.1 h
    simp only [eraseNat]
    split
    · next ha => exact lookupNat_eq_none fun y hy => by have := hx y hy; omega
    · next ha => rw [lookupNat, if_neg (Ne.symm ha), ih hl]

/-! ## Tile rows -/

theorem risingNat_setTileRow {tiles : List (Nat × VReg)} (slot : Fin 8) (row : Nat) (w : VReg)
    (h : risingNat tiles = true) : risingNat (setTileRow tiles slot row w) = true := by
  unfold setTileRow
  split
  · exact risingNat_eraseNat _ h
  · exact risingNat_insertNat _ _ h

theorem tileRow_setTileRow_same {tiles : List (Nat × VReg)} (slot : Fin 8) (row : Nat) (w : VReg)
    (h : risingNat tiles = true) : tileRow (setTileRow tiles slot row w) slot row = w := by
  unfold tileRow setTileRow
  split
  · next hw => rw [lookupNat_eraseNat _ h, hw]; rfl
  · rw [lookupNat_insertNat]; rfl

/-! ## Special registers -/

theorem control_writeSr (x : Context) (w : DWord) : (x.writeSr .control w).control = w.extractLsb' 0 4 :=
  BitVec.setWidth_eq_extractLsb' (x := w) (w := 4) (by decide)

theorem syncsel_writeSr (x : Context) (w : DWord) : (x.writeSr .syncsel w).syncsel = w.extractLsb' 0 8 :=
  BitVec.setWidth_eq_extractLsb' (x := w) (w := 8) (by decide)

theorem splim_writeSr (x : Context) (w : DWord) : (x.writeSr .splim w).splim = w.extractLsb' 0 22 :=
  BitVec.setWidth_eq_extractLsb' (x := w) (w := 22) (by decide)

theorem uiHandler_writeSr (x : Context) (w : DWord) : (x.writeSr .uivec w).uiHandler = w.extractLsb' 5 43 :=
  BitVec.extractLsb'_append_eq_left

theorem uiValid_writeSr (x : Context) (w : DWord) : (x.writeSr .uivec w).uiValid = w.getLsbD 0 := by
  simp only [Context.uiValid, Context.writeSr, BitVec.getLsbD_append, if_pos Nat.zero_lt_one]
  simp

theorem finfo_writeSr (x : Context) (w : DWord) :
    (x.writeSr .finfo w).finfo.extractLsb' 0 32 = w.extractLsb' 0 32 := by
  ext j hj
  simp [Context.writeSr, hj, show j < 36 by omega]

/-- Settles O7: two results that have landed are applied in landing order, and the later one overwrites what the
earlier one left, lane by lane where each has a mask. -/
theorem landingsAreOrdered : Obligations.LandingsAreOrdered := by
  intro x k i t1 t2 i1 i2 p1 p2 swapped hlt ht2 core after
  have hcore (w1 w2 : RegWrite) : ∃ pre pre' : Core, core w1 w2 =
      ((k.setCtx i { x with landings := [] }).apply pre i t1 w1).apply pre' i t2 w2 :=
    landDue_pair k i x (a := ⟨t1, i1, p1, w1⟩) (b := ⟨t2, i2, p2, w2⟩) ((before_iff _ _).2 hlt) (by simp only; omega)
      ht2 swapped
  choose pre pre' hcore using hcore
  simp only [after, hcore, ctx_apply_s, ctx_apply_k, ctx_apply_q, ctx_apply_x, ctx_apply_a, ctx_apply_m, ctx_apply_z,
    ctx_apply_g, ctx_apply_sa, ctx_apply_sb, ctx_apply_b, ctx_apply_unprep, ctx_apply_pend, ctx_apply_v, ctx_apply_p,
    ctx_apply_sr, tiles_apply_aldRow, tiles_coreSetCtx, core_setCtx_same]
  refine ⟨getElem_set_set x.s, getElem_set_set x.k, getElem_set_set x.q, getElem_set_set x.x, getElem_set_set x.a,
    getElem_set_set x.m, getElem_set_set x.z, getElem_set_set x.g, getElem_set_set x.sa, getElem_set_set x.sb,
    fun d v w => ?prepared, fun d v => ?unprepared, fun lev v w l hl => ?pending, fun v w => ?special,
    fun hrise slot row v w j hj => ?tile, fun d v w mv mw j hj => ?lanes, fun d v w mv mw j hj => ?predicate⟩
  case prepared => simp
  case unprepared => simp
  case pending => simp [putLoop, getElem?_modifyAt, hl]
  case special =>
    exact ⟨rfl, rfl, rfl, control_writeSr _ w, syncsel_writeSr _ w, splim_writeSr _ w, finfo_writeSr _ w,
      uiHandler_writeSr _ w, uiValid_writeSr _ w⟩
  case tile => rw [tileRow_setTileRow_same _ _ _ (risingNat_setTileRow _ _ _ hrise)]
  case lanes => simp [lane_mergeLanes, hj]
  case predicate => simp [laneOn_merge, hj]

end Sys2Proof.Machine

/-! Holds for g registers whose results have not landed, and the landing that ends them (R31, R91). -/
namespace Sys2Proof.Machine

/-! ## The hold -/

theorem focus_foldl_modCtx (f : Context → Context) (l : List CtxRef) (s : State) :
    (l.foldl (fun s m => s.modCtx m f) s).focus = s.focus :=
  foldl_modCtx_keeps State.focus (fun s r x => focus_setCtx s r x) f l s

/-- A held context keeps all but what it is doing. -/
theorem me_holdFor (s : State) (h : Hold) : (s.holdFor h).me = { s.me with run := .held h } := by
  have hf : (s.holdFor h).focus = s.focus := focus_foldl_modCtx _ _ s
  rw [State.me, hf, ctx_holdFor, if_pos (self_mem_issueSet s _)]
  rfl

theorem sameFiles_holdFor (s : State) (h : Hold) : s.me.sameFiles (s.holdFor h).me := by
  rw [me_holdFor]
  exact ⟨rfl, rfl, rfl, rfl, rfl, rfl, rfl, rfl, rfl, rfl, rfl, rfl, rfl, rfl, rfl⟩

theorem withG_busy {s : State} {regs : List (Fin 16)} {i : Fin 16} (k : Out) (h : s.me.gBusy regs = some i) :
    s.withG regs k = .next (s.holdFor (.g i)) := by
  simp only [State.withG, h]

theorem withG_none_pending {s : State} {regs : List (Fin 16)} (k : Out) (h : ∀ x ∈ regs, s.me.gPending[x] = false) :
    s.withG regs k = k :=
  withG_free s regs k (by rw [State.gFree, (gBusy_none s.me regs).2 h]; rfl)

/-- Where a register of a list is pending, some pending register is the first. -/
theorem gBusy_of_pending {x : Context} {regs : List (Fin 16)} {d : Fin 16} (hd : d ∈ regs)
    (hp : x.gPending[d] = true) : ∃ i, x.gBusy regs = some i := by
  cases h : x.gBusy regs with
  | some i => exact ⟨i, rfl⟩
  | none =>
    rw [(gBusy_none x regs).1 h d hd] at hp
    cases hp

/-! ## Operations that wait for g registers -/

/-- The operation is held for a pending g register, and does nothing else. -/
def State.heldForG (s : State) (i : Instr) : Prop :=
  ∃ x, s.me.gPending[x] = true ∧ exec i s = .next (s.holdFor (.g x))

/-- The operation waits for g registers, these among them, before anything else. -/
def State.waitsForG (s : State) (i : Instr) (regs : List (Fin 16)) : Prop :=
  ∃ (rs : List (Fin 16)) (k : Out), regs ⊆ rs ∧ exec i s = s.withG rs k

theorem State.waitsForG.heldForG {s : State} {i : Instr} {regs : List (Fin 16)} (h : s.waitsForG i regs) {d : Fin 16}
    (hd : d ∈ regs) (hp : s.me.gPending[d] = true) : s.heldForG i := by
  obtain ⟨rs, k, hsub, hexec⟩ := h
  obtain ⟨x, hx⟩ := gBusy_of_pending (hsub hd) hp
  exact ⟨x, (gBusy_some _ _ _ hx).2, hexec.trans (withG_busy k hx)⟩

section
variable {s : State} {d : Fin 16} (hp : s.me.gPending[d] = true) (a : RK 16) (b c : Fin 16)
include hp

/-- An operation over gD and a source g[a] is held where either is pending. -/
theorem heldForG_one {op : Fin 16 → RK 16 → Instr} (h : ∀ x y, s.waitsForG (op x y) (x :: RK.gReg y)) :
    s.heldForG (op d a) ∧ s.heldForG (op c (.r d)) :=
  ⟨(h d a).heldForG List.mem_cons_self hp, (h c (.r d)).heldForG (by simp [RK.gReg]) hp⟩

/-- The same with a second source g[b]. -/
theorem heldForG_two {op : Fin 16 → RK 16 → Fin 16 → Instr}
    (h : ∀ x y z, s.waitsForG (op x y z) (x :: z :: RK.gReg y)) :
    s.heldForG (op d a b) ∧ s.heldForG (op c (.r d) b) ∧ s.heldForG (op c a d) :=
  ⟨(h d a b).heldForG List.mem_cons_self hp, (h c (.r d) b).heldForG (by simp [RK.gReg]) hp,
    (h c a d).heldForG (by simp) hp⟩

end

theorem waitsForG_of_exec {s : State} {i : Instr} {regs : List (Fin 16)} {k : Out} (h : exec i s = s.withG regs k) :
    s.waitsForG i regs := ⟨regs, k, List.Subset.refl regs, h⟩

/-- An operation that waits for a list of registers waits for those at its head. -/
theorem waitsForG_of_exec_append {s : State} {i : Instr} {regs rest : List (Fin 16)} {k : Out}
    (h : exec i s = s.withG (regs ++ rest) k) : s.waitsForG i regs :=
  ⟨_, k, List.subset_append_left regs rest, h⟩

theorem amov_regs_subset {d b c : Fin 16} {l : List (Fin 16)} : d :: b :: l ⊆ [d, b, c] ++ l :=
  List.cons_subset_cons d (List.cons_subset_cons b (List.subset_cons_self c l))

/-- A register is one of the pair that its half numbers. -/
theorem eq_pairLo_or_pairHi {d : Fin 16} {p : Fin 8} (h : d.val / 2 = p.val) : d = pairLo p ∨ d = pairHi p := by
  simp only [pairLo, pairHi, Fin.ext_iff]
  omega

theorem mem_dcas_regs {d b : Fin 16} {dp ep np : Fin 8} {a : RK 16}
    (h : d.val / 2 = dp.val ∨ d.val / 2 = ep.val ∨ d.val / 2 = np.val ∨ a = .r d ∨ b = d) :
    d ∈ [pairLo dp, pairHi dp, b, pairLo ep, pairHi ep, pairLo np, pairHi np] ++ RK.gReg a := by
  obtain h | h | h | rfl | rfl := h
  · obtain rfl | rfl := eq_pairLo_or_pairHi h <;> simp
  · obtain rfl | rfl := eq_pairLo_or_pairHi h <;> simp
  · obtain rfl | rfl := eq_pairLo_or_pairHi h <;> simp
  · simp [RK.gReg]
  · simp

/-! ## The landing of a result -/

/-- The leader of a fused set is told from the set's width alone. -/
theorem leaderOf_congr {s t : State} {r : CtxRef} (h : (t.ctx r).fusew = (s.ctx r).fusew) :
    t.leaderOf r = s.leaderOf r := by
  simp only [State.leaderOf, State.fusedSet, h]

@[simp] theorem ctx_wake (s : State) (m : CtxRef) (h : Hold) (r : CtxRef) : (s.wake m h).ctx r = s.ctx r := by
  unfold State.wake
  split <;> rfl

theorem agenda_subset_wake (s : State) (m : CtxRef) (h : Hold) : s.agenda ⊆ (s.wake m h).agenda := by
  unfold State.wake
  split
  · exact List.subset_append_left _ _
  · exact List.Subset.refl _

theorem holdEnd_mem_wake {s : State} {m : CtxRef} {h : Hold} (hr : (s.ctx m).run = .held h) :
    Instr.holdEnd (s.leaderOf m) ∈ (s.wake m h).agenda := by
  rw [State.wake, if_pos hr]
  simp

@[simp] theorem ctx_foldl_wake (h : Hold) (l : List CtxRef) (s : State) (r : CtxRef) :
    (l.foldl (fun s m => s.wake m h) s).ctx r = s.ctx r := by
  induction l generalizing s with
  | nil => rfl
  | cons m l ih => rw [List.foldl_cons, ih, ctx_wake]

theorem agenda_subset_foldl_wake (h : Hold) (l : List CtxRef) (s : State) :
    s.agenda ⊆ (l.foldl (fun s m => s.wake m h) s).agenda := by
  induction l generalizing s with
  | nil => exact List.Subset.refl _
  | cons m l ih => exact List.Subset.trans (agenda_subset_wake s m h) (ih _)

/-- Of the contexts of a list, those held so end their hold. -/
theorem holdEnd_mem_foldl_wake {h : Hold} {l : List CtxRef} {s : State} {r : CtxRef} (hl : r ∈ l)
    (hr : (s.ctx r).run = .held h) : Instr.holdEnd (s.leaderOf r) ∈ (l.foldl (fun s m => s.wake m h) s).agenda := by
  induction l generalizing s with
  | nil => cases hl
  | cons m l ih =>
    rw [List.foldl_cons]
    obtain rfl | hl := List.mem_cons.1 hl
    · exact agenda_subset_foldl_wake _ _ _ (holdEnd_mem_wake hr)
    · rw [← leaderOf_congr (congrArg Context.fusew (ctx_wake s m h r))]
      exact ih hl (by rw [ctx_wake, hr])

/-- A result lands in the g file in use where its operation issued with that file in use. -/
theorem landG_of_ui_eq {x : Context} {ui : Bool} (h : ui = x.uiact) (i : Fin 16) (w : DWord) (acq : Bool) :
    x.landG ui i w acq =
      { x with g := x.g.set i w, gPending := x.gPending.set i false, gAcq := x.gAcq.set i acq } :=
  if_pos (.inl h)

@[simp] theorem run_ctxLandG (x : Context) (ui : Bool) (i : Fin 16) (w : DWord) (acq : Bool) :
    (x.landG ui i w acq).run = x.run := by
  unfold Context.landG
  split <;> rfl

@[simp] theorem uiact_ctxLandG (x : Context) (ui : Bool) (i : Fin 16) (w : DWord) (acq : Bool) :
    (x.landG ui i w acq).uiact = x.uiact := by
  unfold Context.landG
  split <;> rfl

@[simp] theorem fusew_ctxLandG (x : Context) (ui : Bool) (i : Fin 16) (w : DWord) (acq : Bool) :
    (x.landG ui i w acq).fusew = x.fusew := by
  unfold Context.landG
  split <;> rfl

section
variable (s : State) (r : Req) (i : Fin 16) (w : DWord)

/-- A landing writes the register in its context, and then wakes the contexts that issue together. -/
theorem landG_some : ∃ u : State, u.ctx r.c = (s.ctx r.c).landG r.ui i w r.kind.acquires ∧ u.agenda = s.agenda ∧
    s.landG r (some i) w = (u.issueSet r.c).foldl (fun s m => s.wake m (.g i)) u := by
  refine ⟨_, (ctx_modCtx_same _ _ _).trans ?_, ?_, rfl⟩
  · split <;> rfl
  · split <;> rfl

theorem ctx_landG : (s.landG r (some i) w).ctx r.c = (s.ctx r.c).landG r.ui i w r.kind.acquires := by
  obtain ⟨u, hctx, -, hu⟩ := landG_some s r i w
  rw [hu, ctx_foldl_wake, hctx]

theorem leaderOf_landG : (s.landG r (some i) w).leaderOf r.c = s.leaderOf r.c := by
  refine leaderOf_congr ?_
  rw [ctx_landG]
  exact fusew_ctxLandG _ _ _ _ _

/-- A landing leaves what is due due. -/
theorem agenda_subset_landG : s.agenda ⊆ (s.landG r (some i) w).agenda := by
  obtain ⟨u, -, hdue, hu⟩ := landG_some s r i w
  rw [hu, ← hdue]
  exact agenda_subset_foldl_wake _ _ _

/-- A landing ends its context's hold for the register. -/
theorem holdEnd_mem_landG (hr : (s.ctx r.c).run = .held (.g i)) :
    Instr.holdEnd (s.leaderOf r.c) ∈ (s.landG r (some i) w).agenda := by
  obtain ⟨u, hctx, -, hu⟩ := landG_some s r i w
  have hrun : (u.ctx r.c).run = .held (.g i) := by rw [hctx, run_ctxLandG, hr]
  have hleader : s.leaderOf r.c = u.leaderOf r.c := leaderOf_congr (by rw [hctx, fusew_ctxLandG])
  rw [hu, hleader]
  exact holdEnd_mem_foldl_wake (self_mem_issueSet u r.c) hrun

end

/-- The landing of a formed request whose context has not gone lands its first result and then
its second. -/
theorem exec_gResultLand_formed {s : State} {id : Nat} {r : Req} (hreq : s.req? id = some r) (ho : r.orphaned = false)
    (hf : r.state = .formed) :
    exec (.gResultLand id) s = .next (((s.dropReq r.id).landG r r.d r.res).landG r r.d2 r.res2) := by
  show execGResultLand id s = _
  simp [execGResultLand, hreq, hf, State.finish, ho]

/-- A result that lands in the file in use writes its register, which is no longer pending, and ends the hold. -/
theorem gResultLand_one {s : State} {d : Fin 16} {id : Nat} {r : Req} (hreq : s.req? id = some r) (hd : r.d = some d)
    (hd2 : r.d2 = none) (ho : r.orphaned = false) (hui : r.ui = (s.ctx r.c).uiact) (hf : r.state = .formed) :
    ∃ t, exec (.gResultLand id) s = .next t ∧ (t.ctx r.c).g[d] = r.res ∧ (t.ctx r.c).gPending[d] = false ∧
      ((s.ctx r.c).run = .held (.g d) → Instr.holdEnd (s.leaderOf r.c) ∈ t.agenda) := by
  refine ⟨_, exec_gResultLand_formed hreq ho hf, ?_⟩
  rw [hd, hd2]
  have hctx : (((s.dropReq r.id).landG r (some d) r.res).landG r none r.res2).ctx r.c =
      (s.ctx r.c).landG r.ui d r.res r.kind.acquires := ctx_landG (s.dropReq r.id) r d r.res
  rw [hctx, landG_of_ui_eq hui]
  exact ⟨Vector.getElem_set_self _, Vector.getElem_set_self _, holdEnd_mem_landG (s.dropReq r.id) r d r.res⟩

/-- The same for two results, in two registers. -/
theorem gResultLand_two {s : State} {d e : Fin 16} {id : Nat} {r : Req} (hreq : s.req? id = some r) (hd : r.d = some d)
    (hd2 : r.d2 = some e) (ho : r.orphaned = false) (hui : r.ui = (s.ctx r.c).uiact) (hf : r.state = .formed) :
    ∃ t, exec (.gResultLand id) s = .next t ∧ (t.ctx r.c).g = ((s.ctx r.c).g.set d r.res).set e r.res2 ∧
      (t.ctx r.c).gPending = ((s.ctx r.c).gPending.set d false).set e false ∧
      ∀ x ∈ [d, e], (s.ctx r.c).run = .held (.g x) → Instr.holdEnd (s.leaderOf r.c) ∈ t.agenda := by
  let u := (s.dropReq r.id).landG r (some d) r.res
  have hu : u.ctx r.c = (s.ctx r.c).landG r.ui d r.res r.kind.acquires := ctx_landG (s.dropReq r.id) r d r.res
  have hctx := ctx_landG u r e r.res2
  rw [landG_of_ui_eq (by rw [hu, uiact_ctxLandG, hui]), hu, landG_of_ui_eq hui] at hctx
  refine ⟨u.landG r (some e) r.res2, ?_, congrArg Context.g hctx, congrArg Context.gPending hctx, fun x hx hr => ?_⟩
  · rw [exec_gResultLand_formed hreq ho hf, hd, hd2]
  · obtain rfl | hx := List.mem_cons.1 hx
    · exact agenda_subset_landG u r e r.res2 (holdEnd_mem_landG (s.dropReq r.id) r x r.res hr)
    · obtain rfl := List.mem_singleton.1 hx
      have hleader : u.leaderOf r.c = s.leaderOf r.c := leaderOf_landG (s.dropReq r.id) r d r.res
      rw [← hleader]
      exact holdEnd_mem_landG u r x r.res2 (by rw [hu, run_ctxLandG, hr])

/-- Settles O8: every operation that names g registers begins with the wait for them (`State.withG`), which holds the
core for the first that is pending; the landing of a request's results writes them and makes the hold's end due. -/
theorem pendingGHoldsTheCore : Obligations.PendingGHoldsTheCore := by
  intro s d
  refine ⟨fun regs k => ⟨fun hb => ?wait, withG_none_pending k⟩, fun hp => ?operations,
    fun id r hreq hd hd2 ho hui hf => gResultLand_one hreq hd hd2 ho hui hf,
    fun id r e hreq hd hd2 _ ho hui hf => gResultLand_two hreq hd hd2 ho hui hf,
    fun hfree r => withG_none_pending _ (by simpa [getG] using hfree)⟩
  case wait =>
    obtain ⟨hd, hp⟩ := gBusy_some _ _ _ hb
    exact ⟨withG_busy k hb, hp, hd, sameMemory_holdFor s _, sameFiles_holdFor s _,
      congrArg Context.run (me_holdFor s _)⟩
  case operations =>
    intro a b c t f1 f2 f3 sz q imm mask size dp ep np n w scope holds one two at_ half
    have hself {i : Instr} {regs : List (Fin 16)} {k : Out} (h : exec i s = s.withG regs k) (hd : d ∈ regs) : holds i :=
      (waitsForG_of_exec h).heldForG hd hp
    have hone {op : Fin 16 → RK 16 → Instr} {k : Fin 16 → RK 16 → Out}
        (h : ∀ x y, exec (op x y) s = s.withG (x :: RK.gReg y) (k x y)) : one op :=
      heldForG_one hp a c fun x y => waitsForG_of_exec (h x y)
    have htwo {op : Fin 16 → RK 16 → Fin 16 → Instr} {k : Fin 16 → RK 16 → Fin 16 → Out}
        (h : ∀ x y z, exec (op x y z) s = s.withG (x :: z :: RK.gReg y) (k x y z)) : two op :=
      heldForG_two hp a b c fun x y z => waitsForG_of_exec (h x y z)
    have hat {op : AtArgs → Instr} {rest : List (Fin 16)} {k : AtArgs → Out}
        (h : ∀ t, exec (op t) s = s.withG (t.d :: t.b :: RK.gReg t.a ++ rest) (k t)) : at_ op :=
      heldForG_two hp a b c (op := fun x y z => op { t with d := x, a := y, b := z }) fun _ _ _ =>
        waitsForG_of_exec_append (h _)
    have htdec (amt : DecAmt) : one fun x y => .tdec f1 x y amt :=
      heldForG_one hp a c (op := fun x y => .tdec f1 x y amt) fun _ _ => waitsForG_of_exec_append rfl
    have hamov : two fun x y z => .amov f1 f2 x y z b :=
      heldForG_two hp a b c (op := fun x y z => .amov f1 f2 x y z b) fun _ _ _ => ⟨_, _, amov_regs_subset, rfl⟩
    clear_value at_ one two holds
    refine ⟨-- Loads and stores.
      hone fun _ _ => rfl, hone fun _ _ => rfl,
      -- Atomics.
      hat fun _ => rfl, hat fun _ => rfl, hat fun _ => rfl, hat fun _ => rfl, hat fun _ => rfl, hat fun _ => rfl,
      hat fun _ => rfl, hself rfl (by simp), hamov, hself rfl (by simp), fun h => hself rfl (mem_dcas_regs h),
      -- Task counters, and what names one register.
      htdec _, hself rfl (by simp [decG]), fun _ => htdec _, hself rfl (List.mem_singleton_self d),
      hself rfl (List.mem_singleton_self d), hself rfl (List.mem_singleton_self d),
      hself rfl (List.mem_singleton_self d),
      -- The copy queues and TSPAWN.
      hone fun _ _ => rfl, htwo fun _ _ _ => rfl, hone fun _ _ => rfl, htwo fun _ _ _ => rfl,
      -- The residency unit.
      htwo fun _ _ _ => rfl, hone fun _ _ => rfl, htwo fun _ _ _ => rfl, hone fun _ _ => rfl, hone fun _ _ => rfl,
      hone fun _ _ => rfl, htwo fun _ _ _ => rfl, hone fun _ _ => rfl,
      -- Product keys.
      htwo fun _ _ _ => rfl, htwo fun _ _ _ => rfl, htwo fun _ _ _ => rfl,
      -- Gambits.
      hone fun _ _ => rfl, hone fun _ _ => rfl, hone fun _ _ => rfl, hone fun _ _ => rfl, hone fun _ _ => rfl,
      -- Commit, seats and the network engine.
      htwo fun _ _ _ => rfl, hone fun _ _ => rfl, htwo fun _ _ _ => rfl, htwo fun _ _ _ => rfl, hone fun _ _ => rfl,
      -- GET, PUT and CHK.
      fun _ => hself rfl (List.mem_singleton_self d), fun _ => hself rfl (List.mem_singleton_self d),
      fun _ _ _ hd => hself rfl hd⟩

end Sys2Proof.Machine

/-! The sign and the selection of the V slot, and what their decoding refuses (R84, R222, R225). -/
namespace Sys2Proof.Machine

/-! ## Fields of a slot's word (R72, R73) -/

theorem toNat_extractLsb'_eq_fld (w : Word) (lo n : Nat) : (w.extractLsb' lo n).toNat = fld w lo n := by
  rw [BitVec.extractLsb'_toNat, Nat.shiftRight_eq_div_pow]; rfl

theorem fld_eq_iff {w : Word} {lo n : Nat} (x : BitVec n) : fld w lo n = x.toNat ↔ w.extractLsb' lo n = x := by
  rw [← toNat_extractLsb'_eq_fld, BitVec.toNat_inj]

/-- The low bits of a field are a field. -/
theorem fld_mod_two_pow (w : Word) (lo : Nat) {k n : Nat} (h : k ≤ n) : fld w lo n % 2 ^ k = fld w lo k :=
  Nat.mod_mod_of_dvd _ (Nat.pow_dvd_pow 2 h)

/-- The high bits of a field are a field. -/
theorem fld_div_two_pow (w : Word) (lo k n : Nat) : fld w lo (k + n) / 2 ^ k = fld w (lo + k) n := by
  rw [fld, fld, Nat.pow_add, Nat.mod_mul_right_div_self, Nat.div_div_eq_div_mul, ← Nat.pow_add]

/-! ## A slot's checks (R84) -/

theorem decodeSlot_of_slotRow {p : Pos} {w : Word} {h : Hdr} {cs : List (Bool × BitVec 8)} {i : Instr}
    (hrow : slotRow p w h = row cs i) : decodeSlot p w h = checks cs i := by
  rw [decodeSlot, hrow]; rfl

/-- What passes its checks is the operation named, and none of them found a fault. -/
theorem checks_eq_ok {cs : List (Bool × BitVec 8)} {i j : Instr} (h : checks cs i = .ok j) :
    (∀ c ∈ cs, c.1 = false) ∧ j = i := by
  induction cs with
  | nil => cases h; exact ⟨by simp, rfl⟩
  | cons c cs ih =>
    obtain ⟨bad, d⟩ := c
    cases bad with
    | true => cases h
    | false => exact ⟨List.forall_mem_cons.2 ⟨rfl, (ih h).1⟩, (ih h).2⟩

theorem checks_cons_bad {bad : Bool} (hbad : bad = true) (d : BitVec 8) (cs : List (Bool × BitVec 8)) (i : Instr) :
    checks ((bad, d) :: cs) i = .error d := if_pos hbad

theorem checks_cons_sound {bad : Bool} (hbad : bad = false) (d : BitVec 8) (cs : List (Bool × BitVec 8)) (i : Instr) :
    checks ((bad, d) :: cs) i = checks cs i := if_neg (Bool.eq_false_iff.1 hbad)

/-! ## The rows of VFSGN and VSEL -/

/-- VFSGN's function field is its mode in the low 2 bits and 5 bits that are zero (R222). -/
theorem slotRow_vfsgn {w : Word} (h : Hdr) (hop : opcodeOf .V w = 0x16) : ∃ cs d a b g, slotRow .V w h =
    row ((fld w 4 2 == 3, 0x11#8) :: (fld w 6 5 != 0, 0x12#8) :: cs) (.vfsgn (sgnOf (fld w 4 2)) d a b g) := by
  have hop : fld w 26 6 = 0x16 := (toNat_extractLsb'_eq_fld w 26 6).symm.trans hop
  rw [← fld_mod_two_pow w 4 (show 2 ≤ 7 by decide), ← fld_div_two_pow w 4 2 5]
  simp only [slotRow, rowV, hop]
  exact ⟨_, _, _, _, _, rfl⟩

/-- VSEL's function field is its predicate in the low 3 bits and 4 bits that are zero (R225). -/
theorem slotRow_vsel {w : Word} (h : Hdr) (hop : opcodeOf .V w = 0x1E) : ∃ cs d a b g, slotRow .V w h =
    row ((false, 0x11#8) :: (fld w 7 4 != 0, 0x12#8) :: cs) (.vsel d (reg 8 (fld w 4 7)) a b g) := by
  have hop : fld w 26 6 = 0x1E := (toNat_extractLsb'_eq_fld w 26 6).symm.trans hop
  rw [← fld_div_two_pow w 4 3 4]
  simp only [slotRow, rowV, hop]
  exact ⟨_, _, _, _, _, rfl⟩

theorem code_sgnOf {n : Nat} (hn : n < 3) : (sgnOf n).code = n := by
  interval_cases n <;> rfl

theorem decodeSlot_vfsgn {w : Word} (h : Hdr) (hop : opcodeOf .V w = 0x16) :
    (fld w 4 2 = 3 → decodeSlot .V w h = .error 0x11#8) ∧
    (fld w 4 2 ≠ 3 → fld w 6 5 ≠ 0 → decodeSlot .V w h = .error 0x12#8) ∧
    (∀ i, decodeSlot .V w h = .ok i → ∃ m d a b g, i = .vfsgn m d a b g ∧ fld w 4 2 = m.code) := by
  obtain ⟨cs, d, a, b, g, hrow⟩ := slotRow_vfsgn h hop
  rw [decodeSlot_of_slotRow hrow]
  refine ⟨fun hm => checks_cons_bad (by simpa using hm) _ _ _, fun hm hz => ?_, fun i hi => ?_⟩
  · rw [checks_cons_sound (by simpa using hm)]
    exact checks_cons_bad (by simpa using hz) _ _ _
  · obtain ⟨hcs, rfl⟩ := checks_eq_ok hi
    have hm : fld w 4 2 ≠ 3 := by simpa using hcs _ List.mem_cons_self
    have hlt : fld w 4 2 < 4 := Nat.mod_lt _ (by decide)
    exact ⟨_, d, a, b, g, rfl, (code_sgnOf (by omega)).symm⟩

theorem decodeSlot_vsel {w : Word} (h : Hdr) (hop : opcodeOf .V w = 0x1E) :
    (fld w 7 4 ≠ 0 → decodeSlot .V w h = .error 0x12#8) ∧
    (∀ i, decodeSlot .V w h = .ok i → ∃ d c a b g, i = .vsel d c a b g ∧ c.val = fld w 4 3) := by
  obtain ⟨cs, d, a, b, g, hrow⟩ := slotRow_vsel h hop
  rw [decodeSlot_of_slotRow hrow, checks_cons_sound rfl]
  refine ⟨fun hz => checks_cons_bad (by simpa using hz) _ _ _, fun i hi => ?_⟩
  obtain ⟨-, rfl⟩ := checks_eq_ok hi
  exact ⟨d, _, a, b, g, rfl, fld_mod_two_pow w 4 (show 3 ≤ 7 by decide)⟩

/-! ## Results of the V slot (R76, R216) -/

theorem lane_lanes (f : Nat → Word) {n : Nat} (hn : n < 128) : lane (lanes f) n = f n := by
  simp [lane, lanes, Nat.mod_eq_of_lt hn]

/-- An operation that lands lanes under a guard, and does nothing else, gives those lanes. -/
theorem gives_of_exec_eq_landV {s : State} {i : Instr} {lat : Nat} {d : Fin 32} {g : Guard} {f : Nat → Word}
    (h : exec i s = s.landV lat d g f) : s.gives i lat d g f :=
  ⟨lanes f, h, fun _ hn => lane_lanes f hn⟩

/-- Settles O18: both operations land their lanes under the guard after 2 cycles; the checks of their rows stand in the
order of Table 18, with the mode's before the zero bits'. -/
theorem signsAndSelections : Obligations.SignsAndSelections := by
  refine ⟨fun s d b c a g m => ⟨gives_of_exec_eq_landV rfl, gives_of_exec_eq_landV rfl⟩, fun w h => ⟨fun hop => ?vfsgn, fun hop => ?vsel⟩⟩
  case vfsgn =>
    obtain ⟨hmode, hzero, hok⟩ := decodeSlot_vfsgn h hop
    refine ⟨fun hm => hmode ((fld_eq_iff 3#2).2 hm),
      fun hm hz => hzero (mt (fld_eq_iff 3#2).1 hm) (mt (fld_eq_iff 0#5).1 hz), fun i hi => ?_⟩
    obtain ⟨m, d, a, b, g, rfl, hcode⟩ := hok i hi
    refine ⟨m, d, a, b, g, rfl, (fld_eq_iff _).1 (hcode.trans ?_)⟩
    cases m <;> rfl
  case vsel =>
    obtain ⟨hzero, hok⟩ := decodeSlot_vsel h hop
    rw [toNat_extractLsb'_eq_fld]
    exact ⟨fun hz => hzero (mt (fld_eq_iff 0#4).1 hz), hok⟩

end Sys2Proof.Machine
